-- ==== Sys2Proof/Word.lean ====
section
/-!
DEFINITION. The words of the SQK-240 and the state of a byte (R5, R7, R12).
-/

namespace Sys2Proof

/-- A 64-bit scalar register or address (R38). -/
abbrev Word := BitVec 64

/-- A byte of memory (R7). -/
abbrev Byte := BitVec 8

/-- One lane of a lane register, latch or queue entry (R39). -/
abbrev LaneWord := BitVec 32

/-- A 32-bit execution mask or predicate (R40). -/
abbrev Mask := BitVec 32

end Sys2Proof
end

