-- ==== Sys2Proof/Syntax.lean ====
section
/-!
DEFINITION. The instructions of the SQK-240: one constructor of `Instr` per row of the opcode table.
A scalar or front-end word carries its fields at their widths (R61, R340), a lane word carries the fields of R68,
and a row without an instruction word (a queue command, a frame, a mailbox request, an event) carries its operands.
-/

namespace Sys2Proof

/-- The fields of a lane word below the opcode (R68). -/
structure LaneFields where
  mod : BitVec 8
  d : BitVec 9
  nw : BitVec 1
  a : BitVec 9
  b : BitVec 9
  c : BitVec 9
  pred : BitVec 3
  neg : BitVec 1
  ctl : BitVec 7
  imm : BitVec 32
deriving DecidableEq, Repr, Inhabited

/-- The eight words of a queue command (R335). -/
structure Command where
  w0 : BitVec 64
  w1 : BitVec 64
  w2 : BitVec 64
  w3 : BitVec 64
  w4 : BitVec 64
  w5 : BitVec 64
  w6 : BitVec 64
  w7 : BitVec 64
deriving DecidableEq, Repr, Inhabited

/-- A Netin frame: the 32-byte header of R360 and the payload. -/
structure Frame where
  header : BitVec 256
  payload : List (BitVec 8)
deriving DecidableEq, Repr, Inhabited

/-- A request of another package of the load-store domain to memory of this one, or the pull that its acquire makes from a core of this
one (R361). -/
inductive RemoteRequest where
  | load (addr size : Nat)
  | store (addr : Nat) (bytes : List (BitVec 8))
  | atomic (addr : Nat) (wide : Bool) (op : Nat) (uns : Bool) (b c : BitVec 64)
  | reduce (addr : Nat) (fmt op fpc : Nat) (value : BitVec 64)
  | acquire (addr size : Nat)
  | release (addr : Nat) (bytes : List (BitVec 8))
  | pull (core : Nat)
deriving DecidableEq, Repr, Inhabited

/-- What a debug subcommand names: a caravan by its tag, or every caravan of a dispatch by its handle (R422). -/
inductive DebugTarget where
  | caravan (tag : BitVec 32)
  | dispatch (handle : Nat)
deriving DecidableEq, Repr, Inhabited

/-- The instructions, commands, requests, frames and events of the opcode table. -/
inductive Instr where
  /-- `ADD` (R89). -/
  | add (sd : BitVec 6) (sa : BitVec 6) (sb : BitVec 6)
  /-- `SUB` (R89). -/
  | sub (sd : BitVec 6) (sa : BitVec 6) (sb : BitVec 6)
  /-- `MUL` (R89). -/
  | mul (sd : BitVec 6) (sa : BitVec 6) (sb : BitVec 6)
  /-- `MULH` (R89). -/
  | mulh (sd : BitVec 6) (sa : BitVec 6) (sb : BitVec 6)
  /-- `MULH_U` (R89). -/
  | mulhU (sd : BitVec 6) (sa : BitVec 6) (sb : BitVec 6)
  /-- `DIV` (R90). -/
  | div (sd : BitVec 6) (sa : BitVec 6) (sb : BitVec 6)
  /-- `DIV_U` (R90). -/
  | divU (sd : BitVec 6) (sa : BitVec 6) (sb : BitVec 6)
  /-- `REM` (R90). -/
  | rem (sd : BitVec 6) (sa : BitVec 6) (sb : BitVec 6)
  /-- `REM_U` (R90). -/
  | remU (sd : BitVec 6) (sa : BitVec 6) (sb : BitVec 6)
  /-- `AND` (R89). -/
  | and (sd : BitVec 6) (sa : BitVec 6) (sb : BitVec 6)
  /-- `OR` (R89). -/
  | or (sd : BitVec 6) (sa : BitVec 6) (sb : BitVec 6)
  /-- `XOR` (R89). -/
  | xor (sd : BitVec 6) (sa : BitVec 6) (sb : BitVec 6)
  /-- `SHL` (R89). -/
  | shl (sd : BitVec 6) (sa : BitVec 6) (sb : BitVec 6)
  /-- `SHR` (R89). -/
  | shr (sd : BitVec 6) (sa : BitVec 6) (sb : BitVec 6)
  /-- `SRA` (R89). -/
  | sra (sd : BitVec 6) (sa : BitVec 6) (sb : BitVec 6)
  /-- `MIN` (R89). -/
  | min (sd : BitVec 6) (sa : BitVec 6) (sb : BitVec 6)
  /-- `MIN_U` (R89). -/
  | minU (sd : BitVec 6) (sa : BitVec 6) (sb : BitVec 6)
  /-- `MAX` (R89). -/
  | max (sd : BitVec 6) (sa : BitVec 6) (sb : BitVec 6)
  /-- `MAX_U` (R89). -/
  | maxU (sd : BitVec 6) (sa : BitVec 6) (sb : BitVec 6)
  /-- `SEL` (R89). -/
  | sel (sd : BitVec 6) (sa : BitVec 6) (sb : BitVec 6)
  /-- `CLZ` (R89). -/
  | clz (sd : BitVec 6) (sa : BitVec 6)
  /-- `POPC` (R89). -/
  | popc (sd : BitVec 6) (sa : BitVec 6)
  /-- `CMP` (R91). -/
  | cmp (sd : BitVec 6) (sa : BitVec 6) (sb : BitVec 6) (c : BitVec 4)
  /-- `BFX` (R93). -/
  | bfx (sd : BitVec 6) (sa : BitVec 6) (sb : BitVec 6)
  /-- `BFI` (R93). -/
  | bfi (sd : BitVec 6) (sa : BitVec 6) (sb : BitVec 6)
  /-- `AFF` (R93). -/
  | aff (sd : BitVec 6) (sa : BitVec 6) (sb : BitVec 6)
  /-- `ADD_IMM` (R92). -/
  | addImm (sd : BitVec 6) (sa : BitVec 6) (imm : BitVec 14)
  /-- `AND_IMM` (R92). -/
  | andImm (sd : BitVec 6) (sa : BitVec 6) (imm : BitVec 12)
  /-- `OR_IMM` (R92). -/
  | orImm (sd : BitVec 6) (sa : BitVec 6) (imm : BitVec 12)
  /-- `XOR_IMM` (R92). -/
  | xorImm (sd : BitVec 6) (sa : BitVec 6) (imm : BitVec 12)
  /-- `SHL_IMM` (R92). -/
  | shlImm (sd : BitVec 6) (sa : BitVec 6) (n : BitVec 6)
  /-- `SHR_IMM` (R92). -/
  | shrImm (sd : BitVec 6) (sa : BitVec 6) (n : BitVec 6)
  /-- `SRA_IMM` (R92). -/
  | sraImm (sd : BitVec 6) (sa : BitVec 6) (n : BitVec 6)
  /-- `CMP_IMM` (R92). -/
  | cmpImm (sd : BitVec 6) (sa : BitVec 6) (c : BitVec 4) (imm : BitVec 10)
  /-- `LEA` (R94). -/
  | lea (sd : BitVec 6) (imm : BitVec 14)
  /-- `LI` (R94). -/
  | li (sd : BitVec 6) (imm : BitVec 20)
  /-- `LUI` (R94). -/
  | lui (sd : BitVec 6) (imm : BitVec 20)
  /-- `LD` (R95). -/
  | ld (sd : BitVec 6) (sa : BitVec 6) (w : BitVec 3) (off : BitVec 11)
  /-- `ST` (R95). -/
  | st (sd : BitVec 6) (sa : BitVec 6) (w : BitVec 3) (off : BitVec 11)
  /-- `ALD` (R96). -/
  | ald (k : BitVec 3) (sa : BitVec 6) (sb : BitVec 6) (w : BitVec 4)
  /-- `ALDX` (R96). -/
  | aldx (j : BitVec 3) (k : BitVec 3) (sa : BitVec 6) (sb : BitVec 6) (w : BitVec 4)
  /-- `LPSET` (R97). -/
  | lpset (sd : BitVec 6) (sa : BitVec 6) (imm : BitVec 14)
  /-- `LPEND` (R97). -/
  | lpend (sd : BitVec 6) (imm : BitVec 14)
  /-- `BR` (R98). -/
  | br (imm : BitVec 20)
  /-- `CALL` (R98). -/
  | call (imm : BitVec 20)
  /-- `BC` (R98). -/
  | bc (c : BitVec 4) (sa : BitVec 6) (imm : BitVec 14)
  /-- `JMP` (R98). -/
  | jmp (sa : BitVec 6)
  /-- `CALLI` (R98). -/
  | calli (sa : BitVec 6)
  /-- `RET` (R98). -/
  | ret
  /-- `BRD` (R99). -/
  | brd (p : BitVec 3) (n : BitVec 1) (t : BitVec 11) (j : BitVec 11)
  /-- `JOIN` (R100). -/
  | join
  /-- `CALLV` (R102). -/
  | callv (sa : BitVec 6) (k : BitVec 3)
  /-- `DONE` (R103). -/
  | done
  /-- `LRUN` (R104). -/
  | lrun (r : BitVec 6) (l : BitVec 4) (imm : BitVec 16)
  /-- `MFEM` (R105). -/
  | mfem (sd : BitVec 6)
  /-- `MTEM` (R105). -/
  | mtem (sa : BitVec 6)
  /-- `VOTE_ANY` (R106). -/
  | voteAny (sd : BitVec 6) (n : BitVec 1) (p : BitVec 3)
  /-- `VOTE_ALL` (R106). -/
  | voteAll (sd : BitVec 6) (n : BitVec 1) (p : BitVec 3)
  /-- `VOTE_BALL` (R106). -/
  | voteBall (sd : BitVec 6) (n : BitVec 1) (p : BitVec 3)
  /-- `LGET` (R107). -/
  | lget (sd : BitVec 6) (r : BitVec 6) (sb : BitVec 6) (h : BitVec 2)
  /-- `ARRIVE` (R108). -/
  | arrive (sd : BitVec 6) (g : BitVec 8)
  /-- `AWAIT` (R108). -/
  | await (sd : BitVec 6) (g : BitVec 8)
  /-- `BAR` (R108). -/
  | bar (sd : BitVec 6) (g : BitVec 8)
  /-- `CBWAIT` (R110). -/
  | cbwait (sd : BitVec 6) (c : BitVec 4)
  /-- `CBPOLL` (R110). -/
  | cbpoll (sd : BitVec 6) (c : BitVec 4)
  /-- `RGIVE` (R111). -/
  | rgive (n : BitVec 6)
  /-- `RCLAIM` (R111). -/
  | rclaim (n : BitVec 6)
  /-- `ENTER` (R114). -/
  | enter (k : BitVec 14)
  /-- `LEAVE` (R114). -/
  | leave (k : BitVec 14)
  /-- `MFK` (R115). -/
  | mfk (sd : BitVec 6) (s : BitVec 8)
  /-- `MTK` (R115). -/
  | mtk (sa : BitVec 6) (s : BitVec 8)
  /-- `NOP` (R116). -/
  | nop
  /-- `TRAP` (R117). -/
  | trap (k : BitVec 6)
  /-- `BRK` (R117). -/
  | brk
  /-- `IFENCE` (R116). -/
  | ifence
  /-- `CFLUSH` (R116). -/
  | cflush (sa : BitVec 6) (sb : BitVec 6)
  /-- `CYCL` (R116). -/
  | cycl (sd : BitVec 6)
  /-- `PHINT` (R118). -/
  | phint (sa : BitVec 6) (sb : BitVec 6)
  /-- `LDACQ` (R159). -/
  | ldacq (sd : BitVec 6) (sa : BitVec 6) (s : BitVec 3) (w : BitVec 1) (off : BitVec 10)
  /-- `STREL` (R159). -/
  | strel (sd : BitVec 6) (sa : BitVec 6) (s : BitVec 3) (w : BitVec 1) (off : BitVec 10)
  /-- `FENCE` (R161). -/
  | fence (k : BitVec 2) (s : BitVec 3)
  /-- `RELFLUSH` (R162). -/
  | relflush
  /-- `XCOPY` (R164). -/
  | xcopy (sd : BitVec 6) (sa : BitVec 6) (sb : BitVec 6) (r : BitVec 2) (m : BitVec 2)
  /-- `XSEAL` (R168). -/
  | xseal (sd : BitVec 6)
  /-- `XWAIT` (R168). -/
  | xwait (n : BitVec 4)
  /-- `XPOLL` (R168). -/
  | xpoll (sd : BitVec 6) (n : BitVec 4)
  /-- `TFILL` (R172). -/
  | tfill (t : BitVec 6) (sa : BitVec 6) (sb : BitVec 6) (c : BitVec 4)
  /-- `TFILL_OB` (R172). -/
  | tfillOb (t : BitVec 6) (sa : BitVec 6) (sb : BitVec 6) (c : BitVec 4)
  /-- `TDRAIN` (R172). -/
  | tdrain (t : BitVec 6) (sa : BitVec 6) (sb : BitVec 6) (c : BitVec 4)
  /-- `TSTATE` (R172). -/
  | tstate (sd : BitVec 6) (t : BitVec 6)
  /-- `TFREE` (R172). -/
  | tfree (t : BitVec 6)
  /-- `CAPINIT` (R180). -/
  | capinit (sa : BitVec 6) (sb : BitVec 6)
  /-- `CAPIN` (R181). -/
  | capin (sa : BitVec 6)
  /-- `CAPSTEP` (R183). -/
  | capstep
  /-- `CAPOUT` (R184). -/
  | capout
  /-- `CAPRES` (R185). -/
  | capres (sd : BitVec 6) (sa : BitVec 6)
  /-- `OBRES` (R192). -/
  | obres (k : BitVec 4) (sa : BitVec 6) (sb : BitVec 6)
  /-- `OBREL` (R192). -/
  | obrel (k : BitVec 4)
  /-- `OBFMT` (R192). -/
  | obfmt (k : BitVec 4) (sb : BitVec 6)
  /-- `MMA` (R198). -/
  | mma (sd : BitVec 6) (sa : BitVec 6) (k : BitVec 6) (c : BitVec 4)
  /-- `MMA_BM` (R198). -/
  | mmaBm (sd : BitVec 6) (sa : BitVec 6) (k : BitVec 6) (c : BitVec 4)
  /-- `MMA_PAIR` (R198). -/
  | mmaPair (sd : BitVec 6) (sa : BitVec 6) (k : BitVec 6) (c : BitVec 4)
  /-- `MMA_PAIR_BM` (R198). -/
  | mmaPairBm (sd : BitVec 6) (sa : BitVec 6) (k : BitVec 6) (c : BitVec 4)
  /-- `MZERO` (R205). -/
  | mzero (sd : BitVec 6) (c : BitVec 4)
  /-- `MACC_LD` (R205). -/
  | maccLd (sd : BitVec 6) (sa : BitVec 6) (sb : BitVec 6) (c : BitVec 4)
  /-- `MACC_ST` (R205). -/
  | maccSt (sd : BitVec 6) (sa : BitVec 6) (sb : BitVec 6) (c : BitVec 4)
  /-- `MWAIT` (R206). -/
  | mwait (sd : BitVec 6)
  /-- `MSTAT` (R207). -/
  | mstat (sd : BitVec 6) (k : BitVec 6)
  /-- `DCFG` (R216). -/
  | dcfg (sa : BitVec 6) (c : BitVec 4)
  /-- `DLOAD` (R218). -/
  | dload (sa : BitVec 6) (sb : BitVec 6) (c : BitVec 4)
  /-- `DLOAD_PAIRS` (R219). -/
  | dloadPairs (sa : BitVec 6) (c : BitVec 4)
  /-- `DSTREAM` (R220). -/
  | dstream (sa : BitVec 6) (sb : BitVec 6) (c : BitVec 4)
  /-- `DBIAS` (R221). -/
  | dbias (sa : BitVec 6) (sb : BitVec 6) (c : BitVec 4)
  /-- `DCLAMP` (R222). -/
  | dclamp (sa : BitVec 6) (c : BitVec 4)
  /-- `DINIT` (R223). -/
  | dinit (sa : BitVec 6) (c : BitVec 4)
  /-- `DLINK` (R224). -/
  | dlink (sa : BitVec 6) (c : BitVec 4)
  /-- `DSWEEP` (R226). -/
  | dsweep (sa : BitVec 6) (c : BitVec 4)
  /-- `DREAD` (R228). -/
  | dread (sa : BitVec 6) (k : BitVec 6) (c : BitVec 4)
  /-- `DCLR` (R229). -/
  | dclr (k : BitVec 6) (c : BitVec 4)
  /-- `DMON` (R230). -/
  | dmon (sd : BitVec 6) (k : BitVec 6)
  /-- `DMON_CLR` (R230). -/
  | dmonClr (sd : BitVec 6) (k : BitVec 6)
  /-- `REMIT` (R318). -/
  | remit (sd : BitVec 6) (sa : BitVec 6) (sb : BitVec 6)
  /-- `REMIT_W` (R318). -/
  | remitW (sa : BitVec 6) (sb : BitVec 6)
  /-- `REMITJ` (R319). -/
  | remitj (sd : BitVec 6) (sa : BitVec 6) (sb : BitVec 6)
  /-- `RDONE` (R321). -/
  | rdone
  /-- `GQUERY` (R322). -/
  | gquery (sd : BitVec 6) (n : BitVec 6)
  /-- `GCOUNT` (R322). -/
  | gcount (sd : BitVec 6) (n : BitVec 6)
  /-- `VADD` (R126). -/
  | vadd (f : LaneFields)
  /-- `VSUB` (R126). -/
  | vsub (f : LaneFields)
  /-- `VMUL` (R126). -/
  | vmul (f : LaneFields)
  /-- `VMULH` (R126). -/
  | vmulh (f : LaneFields)
  /-- `VMAD` (R126). -/
  | vmad (f : LaneFields)
  /-- `VMIN` (R126). -/
  | vmin (f : LaneFields)
  /-- `VMAX` (R126). -/
  | vmax (f : LaneFields)
  /-- `VABS` (R126). -/
  | vabs (f : LaneFields)
  /-- `VAND` (R126). -/
  | vand (f : LaneFields)
  /-- `VOR` (R126). -/
  | vor (f : LaneFields)
  /-- `VXOR` (R126). -/
  | vxor (f : LaneFields)
  /-- `VNOT` (R126). -/
  | vnot (f : LaneFields)
  /-- `VSHL` (R126). -/
  | vshl (f : LaneFields)
  /-- `VSHR` (R126). -/
  | vshr (f : LaneFields)
  /-- `VSRA` (R126). -/
  | vsra (f : LaneFields)
  /-- `VCLZ` (R126). -/
  | vclz (f : LaneFields)
  /-- `VPOPC` (R126). -/
  | vpopc (f : LaneFields)
  /-- `VBFX` (R126). -/
  | vbfx (f : LaneFields)
  /-- `VBFI` (R126). -/
  | vbfi (f : LaneFields)
  /-- `VSEL` (R126). -/
  | vsel (f : LaneFields)
  /-- `VCMP` (R126). -/
  | vcmp (f : LaneFields)
  /-- `VMOV` (R126). -/
  | vmov (f : LaneFields)
  /-- `VLI` (R126). -/
  | vli (f : LaneFields)
  /-- `VFADD` (R127). -/
  | vfadd (f : LaneFields)
  /-- `VFSUB` (R127). -/
  | vfsub (f : LaneFields)
  /-- `VFMUL` (R127). -/
  | vfmul (f : LaneFields)
  /-- `VFMA` (R127). -/
  | vfma (f : LaneFields)
  /-- `VFMIN` (R128). -/
  | vfmin (f : LaneFields)
  /-- `VFMAX` (R128). -/
  | vfmax (f : LaneFields)
  /-- `VFCMP` (R130). -/
  | vfcmp (f : LaneFields)
  /-- `VFCLASS` (R131). -/
  | vfclass (f : LaneFields)
  /-- `VRCP` (R129). -/
  | vrcp (f : LaneFields)
  /-- `VRSQRT` (R129). -/
  | vrsqrt (f : LaneFields)
  /-- `VEXP2` (R129). -/
  | vexp2 (f : LaneFields)
  /-- `VLOG2` (R129). -/
  | vlog2 (f : LaneFields)
  /-- `VTANH` (R129). -/
  | vtanh (f : LaneFields)
  /-- `VCVT` (R132). -/
  | vcvt (f : LaneFields)
  /-- `VPACK` (R133). -/
  | vpack (f : LaneFields)
  /-- `VUNPACK` (R134). -/
  | vunpack (f : LaneFields)
  /-- `VMXQ` (R135). -/
  | vmxq (f : LaneFields)
  /-- `VMXDQ` (R136). -/
  | vmxdq (f : LaneFields)
  /-- `VSPQ` (R137). -/
  | vspq (f : LaneFields)
  /-- `VPERM` (R139). -/
  | vperm (f : LaneFields)
  /-- `VSHFL` (R139). -/
  | vshfl (f : LaneFields)
  /-- `VRED` (R140). -/
  | vred (f : LaneFields)
  /-- `VSCAN` (R140). -/
  | vscan (f : LaneFields)
  /-- `VBALLOT` (R141). -/
  | vballot (f : LaneFields)
  /-- `VBCAST` (R139). -/
  | vbcast (f : LaneFields)
  /-- `VCOMPACT` (R141). -/
  | vcompact (f : LaneFields)
  /-- `PAND` (R142). -/
  | pand (f : LaneFields)
  /-- `POR` (R142). -/
  | por (f : LaneFields)
  /-- `PNOT` (R142). -/
  | pnot (f : LaneFields)
  /-- `PMOV` (R142). -/
  | pmov (f : LaneFields)
  /-- `PMOV_V` (R142). -/
  | pmovV (f : LaneFields)
  /-- `PMOV_I` (R142). -/
  | pmovI (f : LaneFields)
  /-- `VRAND` (R143). -/
  | vrand (f : LaneFields)
  /-- `VRANDF` (R143). -/
  | vrandf (f : LaneFields)
  /-- `VLD` (R145). -/
  | vld (f : LaneFields)
  /-- `VST` (R145). -/
  | vst (f : LaneFields)
  /-- `VLDS` (R146). -/
  | vlds (f : LaneFields)
  /-- `VSTS` (R146). -/
  | vsts (f : LaneFields)
  /-- `VLDT` (R147). -/
  | vldt (f : LaneFields)
  /-- `VATOM` (R155). -/
  | vatom (f : LaneFields)
  /-- `VRED_M` (R156). -/
  | vredM (f : LaneFields)
  /-- `VLDACQ` (R160). -/
  | vldacq (f : LaneFields)
  /-- `VSTREL` (R160). -/
  | vstrel (f : LaneFields)
  /-- `MPOST` (R195). -/
  | mpost (f : LaneFields)
  /-- `QFETCH` (R341). -/
  | qfetch (sb : BitVec 5) (sa : BitVec 5) (sd : BitVec 5)
  /-- `FBFX` (R342). -/
  | fbfx (sb : BitVec 5) (sa : BitVec 5) (sd : BitVec 5)
  /-- `SIGWAIT` (R343). -/
  | sigwait (p : BitVec 1) (e : BitVec 1) (sb : BitVec 5) (sa : BitVec 5) (sd : BitVec 5)
  /-- `DISPATCH` (R344). -/
  | dispatch (sb : BitVec 5) (sa : BitVec 5) (sd : BitVec 5)
  /-- `PCANCEL` (R347). -/
  | pcancel
  /-- `PREPEAT` (R347). -/
  | prepeat
  /-- `BURST_START` (R243). -/
  | burstStart (core slot path : Nat)
  /-- `BURST_COMMIT` (R121). -/
  | burstCommit (core slot path : Nat)
  /-- `TRAP_DELIVERY` (R380). -/
  | trapDelivery (core slot path : Nat)
  /-- `CLAIM_DEADLOCK` (R113). -/
  | claimDeadlock (block : Nat)
  /-- `L1_EVICTION` (R254). -/
  | l1Eviction (core sector : Nat)
  /-- `COPY_COMPLETE` (R167). -/
  | copyComplete (core op : Nat)
  /-- `FILL_COMPLETE` (R172). -/
  | fillComplete (core op : Nat)
  /-- `DRAIN_COMPLETE` (R172). -/
  | drainComplete (core op : Nat)
  /-- `MATRIX_OP_START` (R200). -/
  | matrixOpStart (core : Nat)
  /-- `MATRIX_OP_COMPLETE` (R201). -/
  | matrixOpComplete (core : Nat)
  /-- `DUNE_COMMAND_COMPLETE` (R211). -/
  | duneCommandComplete (core : Nat)
  /-- `COLOUR_PHASE_BEGIN` (R275). -/
  | colourPhaseBegin (core : Nat)
  /-- `COLOUR_PHASE_END` (R275). -/
  | colourPhaseEnd (core : Nat)
  /-- `WITNESS_WINDOW_CLOSE` (R285). -/
  | witnessWindowClose (core : Nat)
  /-- `GENERATOR_SELF_TEST` (R286). -/
  | generatorSelfTest (core : Nat)
  /-- `HORIZON_PUBLICATION` (R280). -/
  | horizonPublication (core entry : Nat)
  /-- `HORIZON_RESET` (R280). -/
  | horizonReset (core entry : Nat)
  /-- `HORIZON_TIMEOUT` (R283). -/
  | horizonTimeout (core : Nat)
  /-- `CALIBRATION_COMPLETE` (R277). -/
  | calibrationComplete (core : Nat) (passed : Bool)
  /-- `ORDERED_UPDATE_ARRIVAL` (R270). -/
  | orderedUpdateArrival (core slot : Nat)
  /-- `ORDERED_UPDATE_FOLD` (R271). -/
  | orderedUpdateFold (addr : Nat)
  /-- `PORT_RESEND` (R269). -/
  | portResend (core slot : Nat)
  /-- `ORPHAN_REPORT` (R186). -/
  | orphanReport (core slot : Nat)
  /-- `RELEASE_NOTICE` (R394). -/
  | releaseNotice (core slot : Nat)
  /-- `PAGE_WALK_COMPLETE` (R374). -/
  | pageWalkComplete (core page : Nat)
  /-- `PAGE_SERVICE_REPLY` (R374). -/
  | pageServiceReply (ctx record : Nat)
  /-- `DISTRIBUTOR_TURN` (R239). -/
  | distributorTurn (die : Nat)
  /-- `BLOCK_END` (R241). -/
  | blockEnd (block : Nat)
  /-- `LAUNCH_COMPLETE` (R263). -/
  | launchComplete (launch : Nat)
  /-- `PREEMPTION_REQUEST` (R386). -/
  | preemptionRequest (core : Nat)
  /-- `FORCED_SAVE_BOUND` (R387). -/
  | forcedSaveBound (core slot : Nat)
  /-- `BLOCK_SAVE_COMPLETE` (R389). -/
  | blockSaveComplete (block : Nat)
  /-- `BLOCK_RESUME` (R392). -/
  | blockResume (block : Nat)
  /-- `WATCHDOG_REPORT` (R396). -/
  | watchdogReport (die ctx : Nat)
  /-- `GRAPH_RUN_START` (R311). -/
  | graphRunStart (slot : Nat)
  /-- `LAUNCHER_CYCLE` (R324). -/
  | launcherCycle (die : Nat)
  /-- `LAUNCHER_AGE_TIMEOUT` (R323). -/
  | launcherAgeTimeout (slot node : Nat)
  /-- `POOL_STALL` (R326). -/
  | poolStall (slot : Nat)
  /-- `GRAPH_RUN_END` (R327). -/
  | graphRunEnd (slot : Nat)
  /-- `TIMER_FIRE` (R355). -/
  | timerFire (die : Nat)
  /-- `MAPPING_INTERVAL` (R338). -/
  | mappingInterval (die : Nat)
  /-- `QUEUE_MAP` (R338). -/
  | queueMap (die : Nat)
  /-- `QUEUE_MAPPING_ACK` (R369). -/
  | queueMappingAck (ctx record : Nat)
  /-- `PROLOGUE_INSTRUCTION_LIMIT` (R346). -/
  | prologueInstructionLimit (die hart : Nat)
  /-- `PROLOGUE_CYCLE_LIMIT` (R346). -/
  | prologueCycleLimit (die hart : Nat)
  /-- `PROLOGUE_RETURN` (R347). -/
  | prologueReturn (die hart : Nat)
  /-- `NOP_COMMAND` (R336). -/
  | nopCommand (queue : Nat) (command : Command)
  /-- `LAUNCH` (R336). -/
  | launchCommand (queue : Nat) (command : Command)
  /-- `UPLOAD` (R349). -/
  | uploadCommand (queue : Nat) (command : Command)
  /-- `TRIGGER` (R351). -/
  | triggerCommand (queue : Nat) (command : Command)
  /-- `SIGNAL` (R336). -/
  | signalCommand (queue : Nat) (command : Command)
  /-- `WAIT` (R336). -/
  | waitCommand (queue : Nat) (command : Command)
  /-- `TIMER_ARM` (R354). -/
  | timerArm (queue : Nat) (command : Command)
  /-- `TIMER_OFF` (R354). -/
  | timerOff (queue : Nat) (command : Command)
  /-- `COLLECTIVE` (R364). -/
  | collectiveCommand (queue : Nat) (command : Command)
  /-- `MSG_SEND` (R363). -/
  | msgSend (queue : Nat) (command : Command)
  /-- `MSG_RECV` (R363). -/
  | msgRecv (queue : Nat) (command : Command)
  /-- `DOORBELL` (R334). -/
  | doorbell (value : BitVec 64)
  /-- `TRIGGER_WRITE` (R351). -/
  | triggerWrite (slot : Nat) (value : BitVec 64)
  /-- `DEVICE_ENABLE` (R332). -/
  | deviceEnable
  /-- `WARM_RESET` (R415). -/
  | warmReset
  /-- `PWR_SET_WRITE` (R366). -/
  | pwrSetWrite (value : BitVec 64)
  /-- `REGISTER_WRITE` (R330). -/
  | registerWrite (offset : Nat) (value : BitVec 64)
  /-- `FUNCTION_LEVEL_RESET` (R329). -/
  | functionLevelReset
  /-- `COLD_RESET` (R415). -/
  | coldReset
  /-- `HOST_MEMORY_WRITE` (R356). -/
  | hostMemoryWrite (offset : Nat) (bytes : List (BitVec 8))
  /-- `HOST_MEMORY_READ` (R356). -/
  | hostMemoryRead (offset count : Nat)
  /-- `NETIN_DATA_FRAME` (R360). -/
  | netinDataFrame (port : Nat) (frame : Frame)
  /-- `NETIN_ACK_FRAME` (R360). -/
  | netinAckFrame (port : Nat) (frame : Frame)
  /-- `COLLECTIVE_CONTRIBUTION_FRAME` (R360). -/
  | collectiveContributionFrame (port : Nat) (frame : Frame)
  /-- `COLLECTIVE_RESULT_FRAME` (R360). -/
  | collectiveResultFrame (port : Nat) (frame : Frame)
  /-- `BACKLOG_FULL_FRAME` (R360). -/
  | backlogFullFrame (port : Nat) (frame : Frame)
  /-- `BACKLOG_OPEN_FRAME` (R360). -/
  | backlogOpenFrame (port : Nat) (frame : Frame)
  /-- `FRAGMENT_RETRY` (R360). -/
  | fragmentRetry (message offset : Nat)
  /-- `REMOTE_COMPLETION_TIMEOUT` (R362). -/
  | remoteCompletionTimeout (request : Nat)
  /-- `NETIN_PORT_FAILURE` (R362). -/
  | netinPortFailure (port : Nat)
  /-- `UCIE_LINK_FAILURE` (R357). -/
  | ucieLinkFailure (edge : Nat)
  /-- `THERMAL_THROTTLE` (R366). -/
  | thermalThrottle (die temperature : Nat)
  /-- `THERMAL_CRITICAL` (R366). -/
  | thermalCritical (die temperature : Nat)
  /-- `SRAM_SCRUB` (R406). -/
  | sramScrub (sector : Nat) (corrected : Bool)
  /-- `HBM_SCRUB` (R406). -/
  | hbmScrub (sector : Nat) (corrected : Bool)
  /-- `BANK_FAILURE` (R410). -/
  | bankFailure (stack bank : Nat)
  /-- `RESTRIPE_REGION` (R411). -/
  | restripeRegion (stack : Nat)
  /-- `SAMPLE_TICK` (R426). -/
  | sampleTick (core quad : Nat)
  /-- `RECORDING_CHECKPOINT` (R428). -/
  | recordingCheckpoint (handle : Nat)
  /-- `CTX_INSTALL` (R420). -/
  | ctxInstall (tag : BitVec 16) (addr : BitVec 64)
  /-- `CTX_REMOVE` (R370). -/
  | ctxRemove (tag : BitVec 16) (ctx : Nat)
  /-- `INVALIDATE` (R376). -/
  | invalidate (tag : BitVec 16) (ctx : Nat) (base bytes : BitVec 64)
  /-- `ARRAY_CLEAR` (R413). -/
  | arrayClear (tag : BitVec 16) (die core : Nat)
  /-- `ARRAY_RETIRE` (R413). -/
  | arrayRetire (tag : BitVec 16) (die core : Nat)
  /-- `HEALTH_READ` (R420). -/
  | healthRead (tag : BitVec 16) (die core : Nat)
  /-- `BANK_REPAIR` (R410). -/
  | bankRepair (tag : BitVec 16) (stack bank : Nat)
  /-- `TRAIL_READ` (R420). -/
  | trailRead (tag : BitVec 16) (die first count : Nat)
  /-- `SAVE_MOVE` (R420). -/
  | saveMove (tag : BitVec 16) (ctx : Nat) (source : BitVec 64)
  /-- `WATCHDOG_ACT` (R420). -/
  | watchdogAct (tag : BitVec 16) (ctx action : Nat)
  /-- `FW_UPDATE` (R417). -/
  | fwUpdate (tag : BitVec 16) (addr bytes : BitVec 64)
  /-- `SAMPLE` (R426). -/
  | sampleStart (tag : BitVec 16) (ctx die core : Nat) (buffer bytes : BitVec 64) (n : Nat)
  /-- `GRANT` (R421). -/
  | grant (tag : BitVec 16) (ctx : Nat)
  /-- `REVOKE` (R429). -/
  | revoke (tag : BitVec 16) (ctx : Nat)
  /-- `HALT` (R422). -/
  | dbgHalt (tag : BitVec 16) (target : DebugTarget)
  /-- `RESUME` (R422). -/
  | dbgResume (tag : BitVec 16) (target : DebugTarget)
  /-- `READ` (R422). -/
  | dbgRead (tag : BitVec 16) (caravan : BitVec 32) (item : Nat) (buffer : BitVec 64)
  /-- `WRITE` (R422). -/
  | dbgWrite (tag : BitVec 16) (caravan : BitVec 32) (item : Nat) (buffer : BitVec 64)
  /-- `COMMIT` (R422). -/
  | dbgCommit (tag : BitVec 16) (caravan : BitVec 32)
  /-- `MATCH` (R424). -/
  | dbgMatch (tag : BitVec 16) (core entry : Nat) (word0 word1 : BitVec 64)
  /-- `STOP_AT_RECORDING` (R428). -/
  | dbgStopAtRecording (tag : BitVec 16) (handle k : Nat)
  /-- `STOP_AT` (R427). -/
  | dbgStopAt (tag : BitVec 16) (handle checkpoint : Nat) (caravan : BitVec 32) (count : Nat)
  /-- `BACK` (R427). -/
  | dbgBack (tag : BitVec 16) (caravan : BitVec 32)
  /-- `GET_VERSION` (R418). -/
  | spdmGetVersion
  /-- `GET_CAPABILITIES` (R418). -/
  | spdmGetCapabilities
  /-- `NEGOTIATE_ALGORITHMS` (R418). -/
  | spdmNegotiateAlgorithms
  /-- `GET_DIGESTS` (R418). -/
  | spdmGetDigests
  /-- `GET_CERTIFICATE` (R418). -/
  | spdmGetCertificate (certSlot offset count : Nat)
  /-- `CHALLENGE` (R418). -/
  | spdmChallenge (certSlot nonce : Nat)
  /-- `GET_MEASUREMENTS` (R418). -/
  | spdmGetMeasurements (index : Nat) (signed : Bool)
  /-- `RESERVED_SCALAR_WORD` (R67). -/
  | reservedScalarWord (word : BitVec 32)
  /-- `RESERVED_LANE_OPCODE` (R73). -/
  | reservedLaneOpcode (word : BitVec 96)
  /-- `UNKNOWN_QUEUE_OPCODE` (R348). -/
  | unknownQueueOpcode (queue : Nat) (command : Command)
  /-- `UNKNOWN_MAILBOX_COMMAND` (R420). -/
  | unknownMailboxCommand (tag : BitVec 16) (command : BitVec 8)
  /-- `NETIN_REMOTE_REQUEST` (R361). -/
  | netinRemoteRequest (request : RemoteRequest)
  /-- `RESERVED_KIND_FRAME` (R360). -/
  | reservedKindFrame (port : Nat) (frame : Frame)
  /-- `NETIN_PORT_RESTORE` (R362). -/
  | netinPortRestore (port : Nat)
  /-- `STACK_CACHE_SPILL` (R51). -/
  | stackCacheSpill (core slot : Nat)
  /-- `PROLOGUE_EXCEPTION` (R346). -/
  | prologueException (die hart cause : Nat)
deriving DecidableEq, Repr, Inhabited

end Sys2Proof
end

