-- ==== Sys2Proof/Machine/Usage.lean ====
section
/-!
DEFINITION. The use of every field of an instruction word: which values an encoding admits, and the cause of
ILLEGAL_OP where it admits one not (R67, R73, R125, R153, R194, R384).
-/

namespace Sys2Proof

/-- The cause codes of ILLEGAL_OP (R384). -/
inductive Illegal where
  | reservedFunction
  | reservedField
  | badRegister
  | copyRecord
  | badHandle
  | badPlace
deriving DecidableEq, Repr, Inhabited

/-- The cause code of R384. -/
def Illegal.code : Illegal → Nat
  | .reservedFunction => 0
  | .reservedField => 1
  | .badRegister => 2
  | .copyRecord => 3
  | .badHandle => 4
  | .badPlace => 5

/-- A modifier layout (R69). -/
inductive ModLayout where
  | a | m | x
deriving DecidableEq, Repr

/-- What a field of a lane word names (R125, R153, R194). `src` and `reg` are pairs in a 64-bit format. -/
inductive OperandUse where
  | none     -- the field is reserved
  | reg      -- a register destination
  | pred     -- a predicate
  | src      -- an operand code, or an even register of a 64-bit operand
  | src32    -- an operand code, 32 bits whatever the format
  | addr     -- the even register of a 64-bit address
  | place    -- an address pair, or an offset source in the scratchpad (R154)
  | casOnly  -- a source of `.cas`, else reserved
  | reg1     -- a lane register
  | reg3     -- the first of three lane registers
deriving DecidableEq, Repr

/-- A row of the usage table of R125: `rnd` and `sat` say whether those bits of layout A are used; `imm` masks the bits
of imm that are not reserved. -/
structure LaneUse where
  layout : ModLayout
  formats : List Nat
  rnd : Bool
  sat : Bool
  d : OperandUse
  a : OperandUse
  b : OperandUse
  c : OperandUse
  imm : Nat
deriving DecidableEq, Repr

/-- The opcode of a lane instruction (R72) and its fields. -/
def laneParts : Instr → Option (Nat × LaneFields)
  | .vadd f => some (0x01, f)
  | .vsub f => some (0x02, f)
  | .vmul f => some (0x03, f)
  | .vmulh f => some (0x04, f)
  | .vmad f => some (0x05, f)
  | .vmin f => some (0x06, f)
  | .vmax f => some (0x07, f)
  | .vabs f => some (0x08, f)
  | .vand f => some (0x09, f)
  | .vor f => some (0x0a, f)
  | .vxor f => some (0x0b, f)
  | .vnot f => some (0x0c, f)
  | .vshl f => some (0x0d, f)
  | .vshr f => some (0x0e, f)
  | .vsra f => some (0x0f, f)
  | .vclz f => some (0x10, f)
  | .vpopc f => some (0x11, f)
  | .vbfx f => some (0x12, f)
  | .vbfi f => some (0x13, f)
  | .vsel f => some (0x14, f)
  | .vcmp f => some (0x15, f)
  | .vmov f => some (0x16, f)
  | .vli f => some (0x17, f)
  | .vfadd f => some (0x20, f)
  | .vfsub f => some (0x21, f)
  | .vfmul f => some (0x22, f)
  | .vfma f => some (0x23, f)
  | .vfmin f => some (0x24, f)
  | .vfmax f => some (0x25, f)
  | .vfcmp f => some (0x26, f)
  | .vfclass f => some (0x27, f)
  | .vrcp f => some (0x28, f)
  | .vrsqrt f => some (0x29, f)
  | .vexp2 f => some (0x2a, f)
  | .vlog2 f => some (0x2b, f)
  | .vtanh f => some (0x2c, f)
  | .vcvt f => some (0x40, f)
  | .vpack f => some (0x41, f)
  | .vunpack f => some (0x42, f)
  | .vmxq f => some (0x43, f)
  | .vmxdq f => some (0x44, f)
  | .vspq f => some (0x45, f)
  | .vperm f => some (0x50, f)
  | .vshfl f => some (0x51, f)
  | .vred f => some (0x52, f)
  | .vscan f => some (0x53, f)
  | .vballot f => some (0x54, f)
  | .vbcast f => some (0x55, f)
  | .vcompact f => some (0x56, f)
  | .pand f => some (0x60, f)
  | .por f => some (0x61, f)
  | .pnot f => some (0x62, f)
  | .pmov f => some (0x63, f)
  | .pmovV f => some (0x63, f)
  | .pmovI f => some (0x63, f)
  | .vrand f => some (0x68, f)
  | .vrandf f => some (0x69, f)
  | .vld f => some (0x70, f)
  | .vst f => some (0x71, f)
  | .vlds f => some (0x72, f)
  | .vsts f => some (0x73, f)
  | .vldt f => some (0x74, f)
  | .vatom f => some (0x80, f)
  | .vredM f => some (0x81, f)
  | .vldacq f => some (0x82, f)
  | .vstrel f => some (0x83, f)
  | .mpost f => some (0x90, f)
  | _ => none

/-- The usage row of a lane instruction (R125, R153, R194). -/
def laneUse : Instr → LaneUse
  | .vadd _ | .vsub _ | .vmul _ =>
    ⟨.a, [9, 10], false, true, .reg, .src, .src, .none, 1⟩
  | .vmulh _ | .vmin _ | .vmax _ =>
    ⟨.a, [9, 10], false, false, .reg, .src, .src, .none, 1⟩
  | .vmad _ =>
    ⟨.a, [9, 10], false, true, .reg, .src, .src, .src, 1⟩
  | .vabs _ | .vnot _ | .vclz _ | .vpopc _ | .vmov _ =>
    ⟨.a, [9, 10], false, false, .reg, .src, .none, .none, 0⟩
  | .vand _ | .vor _ | .vxor _ =>
    ⟨.a, [9, 10], false, false, .reg, .src, .src, .none, 0⟩
  | .vshl _ | .vshr _ | .vsra _ =>
    ⟨.a, [9, 10], false, false, .reg, .src, .src32, .none, 0⟩
  | .vbfx _ =>
    ⟨.a, [9], false, false, .reg, .src, .none, .none, 0x7ff⟩
  | .vbfi _ =>
    ⟨.a, [9], false, false, .reg, .src, .src, .none, 0x3ff⟩
  | .vsel _ =>
    ⟨.a, [9, 10], false, false, .reg, .src, .src, .none, 0xf⟩
  | .vcmp _ =>
    ⟨.a, [9, 10], false, false, .pred, .src, .src, .none, 0xf⟩
  | .vli _ =>
    ⟨.a, [0, 9, 10], false, false, .reg, .none, .none, .none, 0xffffffff⟩
  | .vfadd _ | .vfsub _ | .vfmul _ =>
    ⟨.a, [0, 1, 2], true, true, .reg, .src, .src, .none, 0⟩
  | .vfma _ =>
    ⟨.a, [0, 1, 2], true, true, .reg, .src, .src, .src, 0⟩
  | .vfmin _ | .vfmax _ =>
    ⟨.a, [0, 1, 2], false, false, .reg, .src, .src, .none, 0⟩
  | .vfcmp _ =>
    ⟨.a, [0, 1, 2], false, false, .pred, .src, .src, .none, 0xf⟩
  | .vfclass _ =>
    ⟨.a, [0, 1, 2], false, false, .reg, .src, .none, .none, 0⟩
  | .vrcp _ | .vrsqrt _ | .vexp2 _ | .vlog2 _ | .vtanh _ =>
    ⟨.a, [0, 1, 2], false, true, .reg, .src, .none, .none, 0⟩
  | .vcvt _ =>
    ⟨.a, [0, 1, 2, 3, 4, 7, 8, 9, 10], true, true, .reg, .src, .none, .none, 0x1f⟩
  | .vpack _ =>
    ⟨.a, [1, 2, 3, 4, 5, 6, 7, 8], true, true, .reg, .src, .src, .src, 0xf⟩
  | .vunpack _ =>
    ⟨.a, [1, 2, 3, 4, 5, 6, 7, 8], false, false, .reg, .src, .none, .none, 0xf⟩
  | .vmxq _ =>
    ⟨.a, [3, 4, 5], true, true, .reg, .src, .none, .none, 0⟩
  | .vmxdq _ =>
    ⟨.a, [3, 4, 5], true, true, .reg, .src, .src, .none, 0⟩
  | .vspq _ =>
    ⟨.a, [6], false, false, .reg, .src, .src, .none, 0⟩
  | .vperm _ =>
    ⟨.x, [], false, false, .reg, .src, .src, .none, 7⟩
  | .vshfl _ =>
    ⟨.x, [], false, false, .reg, .src, .none, .none, 0x3ff⟩
  | .vred _ | .vscan _ =>
    ⟨.x, [], false, false, .reg, .src, .none, .none, 0xffffffff⟩
  | .vballot _ =>
    ⟨.x, [], false, false, .reg, .pred, .none, .none, 0xffffffff⟩
  | .vbcast _ =>
    ⟨.x, [], false, false, .reg, .src, .none, .none, 0xff⟩
  | .vcompact _ =>
    ⟨.x, [], false, false, .reg, .src, .pred, .none, 0xffffffff⟩
  | .pand _ | .por _ =>
    ⟨.x, [], false, false, .pred, .pred, .pred, .none, 0⟩
  | .pnot _ | .pmov _ =>
    ⟨.x, [], false, false, .pred, .pred, .none, .none, 0⟩
  | .pmovV _ =>
    ⟨.x, [], false, false, .pred, .src, .none, .none, 0⟩
  | .pmovI _ =>
    ⟨.x, [], false, false, .pred, .none, .none, .none, 0xffffffff⟩
  | .vrand _ | .vrandf _ =>
    ⟨.x, [], false, false, .reg, .none, .none, .none, 0⟩
  | .vld _ | .vldacq _ =>
    ⟨.m, [], false, false, .reg, .addr, .none, .none, 0xffffffff⟩
  | .vst _ | .vstrel _ =>
    ⟨.m, [], false, false, .none, .addr, .src, .none, 0xffffffff⟩
  | .vlds _ =>
    ⟨.m, [], false, false, .reg, .src32, .none, .none, 0xfffff⟩
  | .vsts _ =>
    ⟨.m, [], false, false, .none, .src32, .src, .none, 0xfffff⟩
  | .vldt _ =>
    ⟨.m, [], false, false, .reg, .src32, .none, .none, 0x7ffff⟩
  | .vatom _ =>
    ⟨.m, [], false, false, .reg, .place, .src, .casOnly, 0x1fffff⟩
  | .vredM _ =>
    ⟨.m, [], false, false, .none, .place, .src, .none, 0x1fffffff⟩
  | .mpost _ =>
    ⟨.x, [], false, false, .none, .reg3, .reg1, .none, 0xffff⟩
  | _ => ⟨.x, [], false, false, .none, .none, .none, .none, 0⟩
/-- Layout A: the format code (R69). -/
def LaneFields.fmt (f : LaneFields) : Nat := f.mod.toNat / 16

/-- Layout A: the rounding code (R69). -/
def LaneFields.rnd (f : LaneFields) : Nat := f.mod.toNat / 2 % 8

/-- Layout A: the saturation bit (R69). -/
def LaneFields.sat (f : LaneFields) : Bool := f.mod.toNat % 2 = 1

/-- Layout M: the scope code (R69). -/
def LaneFields.scope (f : LaneFields) : Nat := f.mod.toNat / 32

/-- Layout M: the opx field (R69). -/
def LaneFields.opx (f : LaneFields) : Nat := f.mod.toNat % 32

/-- Bit `k` of imm. -/
def LaneFields.immBit (f : LaneFields) (k : Nat) : Bool := f.imm.toNat / 2 ^ k % 2 = 1

/-- Bits `lo` up of imm, `n` bits. -/
def LaneFields.immField (f : LaneFields) (lo n : Nat) : Nat := f.imm.toNat / 2 ^ lo % 2 ^ n

/-- The tile that ctl names (R70). -/
def LaneFields.tile (f : LaneFields) : Option Nat :=
  if f.ctl.toNat ≥ 64 then some (f.ctl.toNat % 64) else none

/-- The bound register that ctl names (R70). -/
def LaneFields.bound (f : LaneFields) : Option Nat :=
  if f.ctl.toNat / 16 = 1 then some (f.ctl.toNat % 16) else none

/-- Bits of one element of a format (R54). -/
def formatBits (fmt : Nat) : Nat :=
  match fmt with
  | 0 | 9 => 32
  | 1 | 2 | 8 => 16
  | 3 | 4 | 6 | 7 => 8
  | 5 => 4
  | 10 => 64
  | _ => 32

/-- Elements of a narrow format in a 32-bit word (R133). -/
def packCount (fmt : Nat) : Nat := 32 / formatBits fmt

/-- Whether the destination of a lane word is 64 bits wide. -/
def wideDest (i : Instr) (f : LaneFields) : Bool :=
  match i with
  | .vld _ | .vlds _ | .vldt _ | .vldacq _ => f.opx = 3
  | .vatom _ => f.opx / 2 % 2 = 1
  | _ => (laneUse i).layout = .a ∧ f.fmt = 10

/-- Whether the plain sources of a lane word are 64 bits wide. -/
def wideSource (i : Instr) (f : LaneFields) : Bool :=
  match i with
  | .vcvt _ => f.immField 0 4 = 10
  | .vst _ | .vsts _ | .vstrel _ => f.opx = 3
  | .vatom _ => f.opx / 2 % 2 = 1
  | .vredM _ => f.immField 24 4 = 10
  | .vred _ | .vscan _ => f.fmt = 10
  | _ => (laneUse i).layout = .a ∧ f.fmt = 10

/-- Whether `vred` and `vscan` write a pair. -/
def wideFold (i : Instr) (f : LaneFields) : Bool :=
  match i with
  | .vred _ | .vscan _ => f.fmt = 10
  | _ => false

/-- The cause for a 64-bit register field (R39, R71). -/
def checkPair (v : Nat) : Option Illegal :=
  if v ≥ 256 then some .reservedField else if v % 2 = 1 then some .badRegister else none

/-- The cause where a condition that the encoding asks for fails. -/
def need (c : Bool) (e : Illegal) : Option Illegal := if c then none else some e

/-- The cause for a source field (R42, R71, R123). -/
def checkSource (i : Instr) (f : LaneFields) (u : OperandUse) (v : Nat) : Option Illegal :=
  match u with
  | .none => need (v = 0) .reservedField
  | .reg | .reg1 => need (v < 256) .reservedField
  | .reg3 => need (v < 254) .reservedField
  | .pred => need (v < 8) .reservedField
  | .src => if wideSource i f then checkPair v else need (v < 281) .reservedField
  | .src32 => need (v < 281) .reservedField
  | .addr => checkPair v
  | .place => if f.immBit 20 then need (v < 281) .reservedField else checkPair v
  | .casOnly =>
    if f.opx / 4 = 7 then (if wideSource i f then checkPair v else need (v < 281) .reservedField)
    else need (v = 0) .reservedField

/-- The cause for the destination field (R71). -/
def checkDest (i : Instr) (f : LaneFields) (u : OperandUse) : Option Illegal :=
  match u with
  | .reg =>
    if f.nw = 1 then need (f.d = 0) .reservedField
    else if wideDest i f || wideFold i f then checkPair f.d.toNat
    else need (f.d.toNat < 256) .reservedField
  | .pred => need (f.nw = 0 ∧ f.d.toNat < 8) .reservedField
  | _ => need (f.nw = 0 ∧ f.d = 0) .reservedField

/-- The cause of a scope, space and partner combination of an atomic or reduction (R149, R150, R154). -/
def checkPlace (f : LaneFields) : Option Illegal :=
  if f.immBit 20 then
    need (f.scope = 2 ∨ (f.scope = 1 ∧ ¬ f.immBit 19)) .reservedField
  else need (1 ≤ f.scope ∧ f.scope ≤ 5 ∧ ¬ f.immBit 19) .reservedField

/-- The cause of the modifier field by its layout (R69, R122, R144, R153). -/
def checkMod (i : Instr) (f : LaneFields) (u : LaneUse) : Option Illegal :=
  match u.layout with
  | .a =>
    need (u.formats.contains f.fmt ∧ (f.rnd = 0 ∨ (u.rnd ∧ f.rnd ≥ 4)) ∧ (u.sat ∨ ¬ f.sat)) .reservedField
  | .m =>
    match i with
    | .vst _ | .vsts _ => need (f.scope = 0 ∧ f.opx ≤ 3) .reservedField
    | .vldacq _ | .vstrel _ => need (1 ≤ f.scope ∧ f.scope ≤ 5 ∧ (f.opx = 2 ∨ f.opx = 3)) .reservedField
    | .vatom _ =>
      (need (f.opx % 2 = 0 ∨ f.opx / 4 = 1 ∨ f.opx / 4 = 2) .reservedField).or (checkPlace f)
    | .vredM _ =>
      let fmt := f.immField 24 4
      (need (f.opx % 4 = 0 ∧ [0, 1, 2, 9, 10].contains fmt ∧ (fmt ≥ 9 ∨ f.opx / 4 ≤ 2)
          ∧ (fmt < 9 ∨ (f.immField 21 3 = 0 ∧ ¬ f.immBit 28))) .reservedField).or
        ((checkPlace f).or
          (need (¬ f.immBit 28 ∨ (fmt = 0 ∧ f.opx = 0 ∧ (f.scope = 3 ∨ f.scope = 4) ∧ ¬ f.immBit 20
            ∧ ¬ f.immBit 21)) .badPlace))
    | _ => need (f.scope = 0 ∧ f.opx ≤ 5) .reservedField
  | .x =>
    match i with
    | .vred _ | .vscan _ =>
      let op := f.mod.toNat / 2 % 8
      need ([0, 1, 2, 9, 10].contains f.fmt ∧ (f.fmt ≥ 9 ∨ op ≤ 2)
        ∧ (f.mod.toNat % 2 = 0 ∨ (laneParts i).map Prod.fst = some 0x53)) .reservedField
    | .vballot _ | .vcompact _ => need (f.mod.toNat ≤ 1) .reservedField
    | .pmov _ => need (f.mod = 0) .reservedField
    | .pmovV _ => need (f.mod = 1) .reservedField
    | .pmovI _ => need (f.mod = 2) .reservedField
    | _ => need (f.mod = 0) .reservedField

/-- The cause of the ctl field (R70, R125). -/
def checkCtl (i : Instr) (f : LaneFields) : Option Illegal :=
  match i with
  | .vldt _ => need (f.ctl.toNat ≥ 64) .reservedField
  | .vst _ | .vsts _ => need (f.ctl = 0 ∨ (f.ctl.toNat / 16 = 1 ∧ f.opx = 2)) .reservedField
  | _ => need (f.ctl = 0) .reservedField

/-- The cause of a value of imm that the entry of the instruction rejects (R91, R126, R130, R132, R133, R134, R194). -/
def checkEntry (i : Instr) (f : LaneFields) : Option Illegal :=
  match i with
  | .vcmp _ => need (f.immField 0 4 ≤ 9) .reservedField
  | .vfcmp _ => need (f.immField 0 4 ≤ 7) .reservedField
  | .vcvt _ => need ([0, 1, 2, 3, 4, 7, 8, 9, 10].contains (f.immField 0 4)) .reservedField
  | .vpack _ =>
    need (f.immField 0 3 % 2 = 0 ∧ f.immField 0 3 + 1 < packCount f.fmt ∧ (f.fmt ≠ 6 ∨ f.rnd = 0)) .reservedField
  | .vunpack _ => need (f.immField 0 3 < packCount f.fmt) .reservedField
  | .mpost _ => need (f.pred = 0 ∧ f.neg = 0) .reservedField
  | _ => none

/-- The cause of ILLEGAL_OP of a lane word, or none (R73). -/
def checkLane (i : Instr) (f : LaneFields) : Option Illegal :=
  let u := laneUse i
  (checkMod i f u).or <| (need (f.imm.toNat &&& (2 ^ 32 - 1 - u.imm) = 0) .reservedField).or <|
  (checkDest i f u.d).or <| (checkSource i f u.a f.a.toNat).or <| (checkSource i f u.b f.b.toNat).or <|
  (checkSource i f u.c f.c.toNat).or <| (checkCtl i f).or (checkEntry i f)

/-- The selectors of R46. -/
def selectorListed (s : Nat) : Bool :=
  s ≤ 4 || (8 ≤ s && s ≤ 0xd) || s = 0x10 || s = 0x11 || s = 0x18 || s = 0x19
    || (0x20 ≤ s && s ≤ 0x23) || (0x40 ≤ s && s ≤ 0x5f)

/-- The cause of ILLEGAL_OP that the fields of an instruction give by themselves, or none (R67, R73). What depends on
the state (a register at or above `lbud`, a group, a place) is checked when the instruction is executed. -/
def Instr.check (i : Instr) : Option Illegal :=
  match i with
  | .cmp _ _ _ cc => need (cc.toNat ≤ 9) .reservedFunction
  | .cmpImm _ _ cc _ => need (cc.toNat ≤ 9) .reservedField
  | .bc cc _ _ => need (cc.toNat ≤ 9) .reservedField
  | .ld _ _ w _ => need (w.toNat ≤ 6) .reservedField
  | .st _ _ w _ => need (w.toNat ≤ 3) .reservedField
  | .ald _ _ _ w => need (w.toNat ≤ 4) .reservedFunction
  | .aldx j _ _ _ w => (need (w.toNat ≤ 4) .reservedFunction).or (need (j.toNat ≤ 5) .reservedField)
  | .lpset _ _ n => need (1 ≤ n.toNat ∧ n.toNat < 8192) .reservedField
  | .brd _ _ _ j => need (j.toNat ≠ 0) .reservedField
  | .rgive n => need (1 ≤ n.toNat ∧ n.toNat ≤ 30) .reservedField
  | .rclaim n => need (1 ≤ n.toNat ∧ n.toNat ≤ 30) .reservedField
  | .enter k => need (k.toNat ≠ 0) .reservedField
  | .leave k => need (k.toNat ≠ 0) .reservedField
  | .mfk _ s => need (selectorListed s.toNat) .reservedField
  | .mtk _ s => need (selectorListed s.toNat) .reservedField
  | .ldacq _ _ s _ _ => need (1 ≤ s.toNat ∧ s.toNat ≤ 5) .reservedField
  | .strel _ _ s _ _ => need (1 ≤ s.toNat ∧ s.toNat ≤ 5) .reservedField
  | .fence k s => need (s.toNat ≤ 5 ∧ k.toNat ≤ 2 ∧ (s.toNat ≠ 0 ∨ k.toNat = 0)) .reservedField
  | .xcopy _ _ _ _ m => need (m.toNat ≠ 0) .reservedFunction
  | .mma _ _ k _ => need (k.toNat ≤ 15) .badHandle
  | .mmaBm _ _ k _ => need (k.toNat ≤ 15) .badHandle
  | .mmaPair _ _ k _ => need (k.toNat ≤ 15) .badHandle
  | .mmaPairBm _ _ k _ => need (k.toNat ≤ 15) .badHandle
  | .mstat _ k => need (k.toNat ≤ 4) .reservedField
  | .dread _ k _ => need (k.toNat ≤ 2) .reservedField
  | .dclr k _ => need (1 ≤ k.toNat ∧ k.toNat ≤ 3) .reservedField
  | .dmon _ k => need (k.toNat ≤ 16) .reservedField
  | .dmonClr _ k => need (k.toNat ≤ 16) .reservedField
  | .gcount _ n => need (n.toNat ≤ 5) .reservedField
  | i =>
    match laneParts i with
    | some (_, f) => checkLane i f
    | none => none

end Sys2Proof
end

