-- ==== Sys2Proof/WellFormed.lean ====
section
/-!
DEFINITION. Which instruction terms are encodings that the spec admits.
-/

namespace Sys2Proof

/-- An instruction whose fields hold values that the spec's encoding of it admits (R67, R73). -/
abbrev Instr.WellFormed (i : Instr) : Prop := i.check = none

end Sys2Proof
end

