-- ==== Sys2Proof/Decode.lean ====
section
/-!
DEFINITION. Decoding of scalar words, lane words and front-end words, total, with the cause of each rejection, and the
encoder (R61 to R73, R340). A word is a number whose bit 0 is the least significant bit of its first byte (R7).
-/

namespace Sys2Proof

/-- `n` bits of `w` from bit `lo` up, as a number (R10). -/
def fld (w lo n : Nat) : Nat := w / 2 ^ lo % 2 ^ n

/-- `n` bits of `w` from bit `lo` up (R10). -/
def bits (w lo n : Nat) : BitVec n := BitVec.ofNat n (w / 2 ^ lo)

/-- The number whose bytes in address order are `bs` (R7). -/
def leNat : List Byte → Nat
  | [] => 0
  | b :: bs => b.toNat + 256 * leNat bs

/-- The `n` bytes of a number in address order (R7). -/
def leBytes : Nat → Nat → List Byte
  | 0, _ => []
  | n + 1, v => BitVec.ofNat 8 v :: leBytes n (v / 256)

/-- An instruction whose fields are admitted, or the cause of ILLEGAL_OP (R67, R73). -/
def accept (i : Instr) : Except Illegal Instr :=
  match i.check with
  | none => .ok i
  | some e => .error e

/-- The words of major opcode 0x01 (R66). -/
def scalarMajor01 (w : Nat) : Except Illegal Instr :=
  if fld w 0 8 = 0 then accept (.add (bits w 20 6) (bits w 14 6) (bits w 8 6))
  else if fld w 0 8 = 1 then accept (.sub (bits w 20 6) (bits w 14 6) (bits w 8 6))
  else if fld w 0 8 = 2 then accept (.mul (bits w 20 6) (bits w 14 6) (bits w 8 6))
  else if fld w 0 8 = 3 then accept (.mulh (bits w 20 6) (bits w 14 6) (bits w 8 6))
  else if fld w 0 8 = 4 then accept (.mulhU (bits w 20 6) (bits w 14 6) (bits w 8 6))
  else if fld w 0 8 = 5 then accept (.div (bits w 20 6) (bits w 14 6) (bits w 8 6))
  else if fld w 0 8 = 6 then accept (.divU (bits w 20 6) (bits w 14 6) (bits w 8 6))
  else if fld w 0 8 = 7 then accept (.rem (bits w 20 6) (bits w 14 6) (bits w 8 6))
  else if fld w 0 8 = 8 then accept (.remU (bits w 20 6) (bits w 14 6) (bits w 8 6))
  else if fld w 0 8 = 9 then accept (.and (bits w 20 6) (bits w 14 6) (bits w 8 6))
  else if fld w 0 8 = 10 then accept (.or (bits w 20 6) (bits w 14 6) (bits w 8 6))
  else if fld w 0 8 = 11 then accept (.xor (bits w 20 6) (bits w 14 6) (bits w 8 6))
  else if fld w 0 8 = 12 then accept (.shl (bits w 20 6) (bits w 14 6) (bits w 8 6))
  else if fld w 0 8 = 13 then accept (.shr (bits w 20 6) (bits w 14 6) (bits w 8 6))
  else if fld w 0 8 = 14 then accept (.sra (bits w 20 6) (bits w 14 6) (bits w 8 6))
  else if fld w 0 8 = 15 then accept (.min (bits w 20 6) (bits w 14 6) (bits w 8 6))
  else if fld w 0 8 = 16 then accept (.minU (bits w 20 6) (bits w 14 6) (bits w 8 6))
  else if fld w 0 8 = 17 then accept (.max (bits w 20 6) (bits w 14 6) (bits w 8 6))
  else if fld w 0 8 = 18 then accept (.maxU (bits w 20 6) (bits w 14 6) (bits w 8 6))
  else if fld w 0 8 = 19 then accept (.sel (bits w 20 6) (bits w 14 6) (bits w 8 6))
  else if fld w 0 8 = 20 then if fld w 8 6 = 0 then
      accept (.clz (bits w 20 6) (bits w 14 6)) else .error .reservedField
  else if fld w 0 8 = 21 then if fld w 8 6 = 0 then
      accept (.popc (bits w 20 6) (bits w 14 6)) else .error .reservedField
  else if fld w 4 4 = 2 then accept (.cmp (bits w 20 6) (bits w 14 6) (bits w 8 6) (bits w 0 4))
  else .error .reservedFunction

/-- The words of major opcode 0x02 (R66). -/
def scalarMajor02 (w : Nat) : Except Illegal Instr :=
  if fld w 0 8 = 0 then accept (.bfx (bits w 20 6) (bits w 14 6) (bits w 8 6))
  else if fld w 0 8 = 1 then accept (.bfi (bits w 20 6) (bits w 14 6) (bits w 8 6))
  else if fld w 0 8 = 2 then accept (.aff (bits w 20 6) (bits w 14 6) (bits w 8 6))
  else .error .reservedFunction

/-- The words of major opcode 0x03 (R66). -/
def scalarMajor03 (w : Nat) : Except Illegal Instr :=
  accept (.addImm (bits w 20 6) (bits w 14 6) (bits w 0 14))

/-- The words of major opcode 0x04 (R66). -/
def scalarMajor04 (w : Nat) : Except Illegal Instr :=
  if fld w 12 2 = 0 then accept (.andImm (bits w 20 6) (bits w 14 6) (bits w 0 12))
  else if fld w 12 2 = 1 then accept (.orImm (bits w 20 6) (bits w 14 6) (bits w 0 12))
  else if fld w 12 2 = 2 then accept (.xorImm (bits w 20 6) (bits w 14 6) (bits w 0 12))
  else .error .reservedField

/-- The words of major opcode 0x05 (R66). -/
def scalarMajor05 (w : Nat) : Except Illegal Instr :=
  if fld w 12 2 = 0 then if fld w 6 6 = 0 then
      accept (.shlImm (bits w 20 6) (bits w 14 6) (bits w 0 6)) else .error .reservedField
  else if fld w 12 2 = 1 then if fld w 6 6 = 0 then
      accept (.shrImm (bits w 20 6) (bits w 14 6) (bits w 0 6)) else .error .reservedField
  else if fld w 12 2 = 2 then if fld w 6 6 = 0 then
      accept (.sraImm (bits w 20 6) (bits w 14 6) (bits w 0 6)) else .error .reservedField
  else .error .reservedField

/-- The words of major opcode 0x06 (R66). -/
def scalarMajor06 (w : Nat) : Except Illegal Instr :=
  accept (.cmpImm (bits w 20 6) (bits w 14 6) (bits w 10 4) (bits w 0 10))

/-- The words of major opcode 0x07 (R66). -/
def scalarMajor07 (w : Nat) : Except Illegal Instr :=
  if fld w 14 6 = 0 then accept (.lea (bits w 20 6) (bits w 0 14)) else .error .reservedField

/-- The words of major opcode 0x08 (R66). -/
def scalarMajor08 (w : Nat) : Except Illegal Instr :=
  accept (.li (bits w 20 6) (bits w 0 20))

/-- The words of major opcode 0x09 (R66). -/
def scalarMajor09 (w : Nat) : Except Illegal Instr :=
  accept (.lui (bits w 20 6) (bits w 0 20))

/-- The words of major opcode 0x0a (R66). -/
def scalarMajor0a (w : Nat) : Except Illegal Instr :=
  accept (.ld (bits w 20 6) (bits w 14 6) (bits w 11 3) (bits w 0 11))

/-- The words of major opcode 0x0b (R66). -/
def scalarMajor0b (w : Nat) : Except Illegal Instr :=
  accept (.st (bits w 20 6) (bits w 14 6) (bits w 11 3) (bits w 0 11))

/-- The words of major opcode 0x0c (R66). -/
def scalarMajor0c (w : Nat) : Except Illegal Instr :=
  if fld w 0 4 = 0 ∧ fld w 23 3 = 0 then
      accept (.ald (bits w 20 3) (bits w 14 6) (bits w 8 6) (bits w 4 4)) else .error .reservedField

/-- The words of major opcode 0x0d (R66). -/
def scalarMajor0d (w : Nat) : Except Illegal Instr :=
  if fld w 0 4 = 0 then
      accept (.aldx (bits w 23 3) (bits w 20 3) (bits w 14 6) (bits w 8 6) (bits w 4 4)) else .error .reservedField

/-- The words of major opcode 0x0e (R66). -/
def scalarMajor0e (w : Nat) : Except Illegal Instr :=
  accept (.lpset (bits w 20 6) (bits w 14 6) (bits w 0 14))

/-- The words of major opcode 0x0f (R66). -/
def scalarMajor0f (w : Nat) : Except Illegal Instr :=
  if fld w 14 6 = 0 then accept (.lpend (bits w 20 6) (bits w 0 14)) else .error .reservedField

/-- The words of major opcode 0x10 (R66). -/
def scalarMajor10 (w : Nat) : Except Illegal Instr :=
  if fld w 20 6 = 0 then accept (.br (bits w 0 20)) else .error .reservedField

/-- The words of major opcode 0x11 (R66). -/
def scalarMajor11 (w : Nat) : Except Illegal Instr :=
  if fld w 20 6 = 0 then accept (.call (bits w 0 20)) else .error .reservedField

/-- The words of major opcode 0x12 (R66). -/
def scalarMajor12 (w : Nat) : Except Illegal Instr :=
  if fld w 24 2 = 0 then accept (.bc (bits w 20 4) (bits w 14 6) (bits w 0 14)) else .error .reservedField

/-- The words of major opcode 0x13 (R66). -/
def scalarMajor13 (w : Nat) : Except Illegal Instr :=
  if fld w 0 8 = 0 then if fld w 8 6 = 0 ∧ fld w 20 6 = 0 then accept (.jmp (bits w 14 6)) else .error .reservedField
  else if fld w 0 8 = 1 then if fld w 8 6 = 0 ∧ fld w 20 6 = 0 then
      accept (.calli (bits w 14 6)) else .error .reservedField
  else if fld w 0 8 = 2 then if fld w 8 18 = 0 then accept (.ret) else .error .reservedField
  else .error .reservedFunction

/-- The words of major opcode 0x14 (R66). -/
def scalarMajor14 (w : Nat) : Except Illegal Instr :=
  accept (.brd (bits w 23 3) (bits w 22 1) (bits w 11 11) (bits w 0 11))

/-- The words of major opcode 0x15 (R66). -/
def scalarMajor15 (w : Nat) : Except Illegal Instr :=
  if fld w 0 8 = 0 then if fld w 8 18 = 0 then accept (.join) else .error .reservedField
  else .error .reservedFunction

/-- The words of major opcode 0x16 (R66). -/
def scalarMajor16 (w : Nat) : Except Illegal Instr :=
  if fld w 0 8 = 0 then if fld w 11 3 = 0 ∧ fld w 20 6 = 0 then
      accept (.callv (bits w 14 6) (bits w 8 3)) else .error .reservedField
  else .error .reservedFunction

/-- The words of major opcode 0x17 (R66). -/
def scalarMajor17 (w : Nat) : Except Illegal Instr :=
  if fld w 0 8 = 0 then if fld w 8 18 = 0 then accept (.done) else .error .reservedField
  else .error .reservedFunction

/-- The words of major opcode 0x18 (R66). -/
def scalarMajor18 (w : Nat) : Except Illegal Instr :=
  accept (.lrun (bits w 20 6) (bits w 16 4) (bits w 0 16))

/-- The words of major opcode 0x19 (R66). -/
def scalarMajor19 (w : Nat) : Except Illegal Instr :=
  if fld w 0 8 = 0 then if fld w 8 12 = 0 then accept (.mfem (bits w 20 6)) else .error .reservedField
  else if fld w 0 8 = 1 then if fld w 8 6 = 0 ∧ fld w 20 6 = 0 then
      accept (.mtem (bits w 14 6)) else .error .reservedField
  else if fld w 0 8 = 8 then if fld w 8 6 = 0 ∧ fld w 18 2 = 0 then
      accept (.voteAny (bits w 20 6) (bits w 17 1) (bits w 14 3)) else .error .reservedField
  else if fld w 0 8 = 9 then if fld w 8 6 = 0 ∧ fld w 18 2 = 0 then
      accept (.voteAll (bits w 20 6) (bits w 17 1) (bits w 14 3)) else .error .reservedField
  else if fld w 0 8 = 10 then if fld w 8 6 = 0 ∧ fld w 18 2 = 0 then
      accept (.voteBall (bits w 20 6) (bits w 17 1) (bits w 14 3)) else .error .reservedField
  else if fld w 2 6 = 4 then accept (.lget (bits w 20 6) (bits w 14 6) (bits w 8 6) (bits w 0 2))
  else .error .reservedFunction

/-- The words of major opcode 0x1a (R66). -/
def scalarMajor1a (w : Nat) : Except Illegal Instr :=
  if fld w 4 4 = 0 then if fld w 8 4 = 0 ∧ fld w 0 4 = 0 then
      accept (.arrive (bits w 20 6) (bits w 12 8)) else .error .reservedField
  else if fld w 4 4 = 1 then if fld w 8 4 = 0 ∧ fld w 0 4 = 0 then
      accept (.await (bits w 20 6) (bits w 12 8)) else .error .reservedField
  else if fld w 4 4 = 2 then if fld w 8 4 = 0 ∧ fld w 0 4 = 0 then
      accept (.bar (bits w 20 6) (bits w 12 8)) else .error .reservedField
  else .error .reservedFunction

/-- The words of major opcode 0x1b (R66). -/
def scalarMajor1b (w : Nat) : Except Illegal Instr :=
  if fld w 4 4 = 0 then if fld w 8 12 = 0 then accept (.cbwait (bits w 20 6) (bits w 0 4)) else .error .reservedField
  else if fld w 4 4 = 1 then if fld w 8 12 = 0 then
      accept (.cbpoll (bits w 20 6) (bits w 0 4)) else .error .reservedField
  else .error .reservedFunction

/-- The words of major opcode 0x1c (R66). -/
def scalarMajor1c (w : Nat) : Except Illegal Instr :=
  if fld w 0 8 = 0 then if fld w 14 12 = 0 then accept (.rgive (bits w 8 6)) else .error .reservedField
  else if fld w 0 8 = 1 then if fld w 14 12 = 0 then accept (.rclaim (bits w 8 6)) else .error .reservedField
  else .error .reservedFunction

/-- The words of major opcode 0x1d (R66). -/
def scalarMajor1d (w : Nat) : Except Illegal Instr :=
  if fld w 20 1 = 0 then if fld w 21 5 = 0 ∧ fld w 14 6 = 0 then
      accept (.enter (bits w 0 14)) else .error .reservedField
  else if fld w 20 1 = 1 then if fld w 21 5 = 0 ∧ fld w 14 6 = 0 then
      accept (.leave (bits w 0 14)) else .error .reservedField
  else .error .reservedFunction

/-- The words of major opcode 0x1e (R66). -/
def scalarMajor1e (w : Nat) : Except Illegal Instr :=
  if fld w 8 1 = 0 then if fld w 9 11 = 0 then accept (.mfk (bits w 20 6) (bits w 0 8)) else .error .reservedField
  else if fld w 8 1 = 1 then if fld w 9 5 = 0 ∧ fld w 20 6 = 0 then
      accept (.mtk (bits w 14 6) (bits w 0 8)) else .error .reservedField
  else .error .reservedFunction

/-- The words of major opcode 0x1f (R66). -/
def scalarMajor1f (w : Nat) : Except Illegal Instr :=
  if fld w 0 8 = 0 then if fld w 8 18 = 0 then accept (.nop) else .error .reservedField
  else if fld w 0 8 = 1 then if fld w 14 12 = 0 then accept (.trap (bits w 8 6)) else .error .reservedField
  else if fld w 0 8 = 2 then if fld w 8 18 = 0 then accept (.brk) else .error .reservedField
  else if fld w 0 8 = 3 then if fld w 8 18 = 0 then accept (.ifence) else .error .reservedField
  else if fld w 0 8 = 4 then if fld w 20 6 = 0 then
      accept (.cflush (bits w 14 6) (bits w 8 6)) else .error .reservedField
  else if fld w 0 8 = 5 then if fld w 8 12 = 0 then accept (.cycl (bits w 20 6)) else .error .reservedField
  else if fld w 0 8 = 6 then if fld w 20 6 = 0 then
      accept (.phint (bits w 14 6) (bits w 8 6)) else .error .reservedField
  else .error .reservedFunction

/-- The words of major opcode 0x20 (R66). -/
def scalarMajor20 (w : Nat) : Except Illegal Instr :=
  accept (.ldacq (bits w 20 6) (bits w 14 6) (bits w 11 3) (bits w 10 1) (bits w 0 10))

/-- The words of major opcode 0x21 (R66). -/
def scalarMajor21 (w : Nat) : Except Illegal Instr :=
  accept (.strel (bits w 20 6) (bits w 14 6) (bits w 11 3) (bits w 10 1) (bits w 0 10))

/-- The words of major opcode 0x22 (R66). -/
def scalarMajor22 (w : Nat) : Except Illegal Instr :=
  if fld w 0 8 = 0 then if fld w 8 12 = 0 ∧ fld w 25 1 = 0 then
      accept (.fence (bits w 23 2) (bits w 20 3)) else .error .reservedField
  else if fld w 0 8 = 1 then if fld w 8 18 = 0 then accept (.relflush) else .error .reservedField
  else .error .reservedFunction

/-- The words of major opcode 0x23 (R66). -/
def scalarMajor23 (w : Nat) : Except Illegal Instr :=
  if fld w 0 4 = 0 then
      accept (.xcopy (bits w 20 6) (bits w 14 6) (bits w 8 6) (bits w 6 2) (bits w 4 2)) else .error .reservedField

/-- The words of major opcode 0x24 (R66). -/
def scalarMajor24 (w : Nat) : Except Illegal Instr :=
  if fld w 4 4 = 0 then if fld w 8 12 = 0 ∧ fld w 0 4 = 0 then
      accept (.xseal (bits w 20 6)) else .error .reservedField
  else if fld w 4 4 = 1 then if fld w 0 4 = 0 ∧ fld w 12 14 = 0 then
      accept (.xwait (bits w 8 4)) else .error .reservedField
  else if fld w 4 4 = 2 then if fld w 0 4 = 0 ∧ fld w 12 8 = 0 then
      accept (.xpoll (bits w 20 6) (bits w 8 4)) else .error .reservedField
  else .error .reservedFunction

/-- The words of major opcode 0x25 (R66). -/
def scalarMajor25 (w : Nat) : Except Illegal Instr :=
  if fld w 4 4 = 0 then accept (.tfill (bits w 20 6) (bits w 14 6) (bits w 8 6) (bits w 0 4))
  else if fld w 4 4 = 4 then accept (.tfillOb (bits w 20 6) (bits w 14 6) (bits w 8 6) (bits w 0 4))
  else if fld w 4 4 = 1 then accept (.tdrain (bits w 20 6) (bits w 14 6) (bits w 8 6) (bits w 0 4))
  else if fld w 4 4 = 2 then if fld w 0 4 = 0 ∧ fld w 14 6 = 0 then
      accept (.tstate (bits w 20 6) (bits w 8 6)) else .error .reservedField
  else if fld w 4 4 = 3 then if fld w 8 12 = 0 ∧ fld w 0 4 = 0 then
      accept (.tfree (bits w 20 6)) else .error .reservedField
  else .error .reservedFunction

/-- The words of major opcode 0x26 (R66). -/
def scalarMajor26 (w : Nat) : Except Illegal Instr :=
  if fld w 4 4 = 0 then if fld w 0 4 = 0 ∧ fld w 20 6 = 0 then
      accept (.capinit (bits w 14 6) (bits w 8 6)) else .error .reservedField
  else if fld w 4 4 = 1 then if fld w 8 6 = 0 ∧ fld w 0 4 = 0 ∧ fld w 20 6 = 0 then
      accept (.capin (bits w 14 6)) else .error .reservedField
  else if fld w 4 4 = 2 then if fld w 8 18 = 0 ∧ fld w 0 4 = 0 then accept (.capstep) else .error .reservedField
  else if fld w 4 4 = 3 then if fld w 8 18 = 0 ∧ fld w 0 4 = 0 then accept (.capout) else .error .reservedField
  else if fld w 4 4 = 4 then if fld w 8 6 = 0 ∧ fld w 0 4 = 0 then
      accept (.capres (bits w 20 6) (bits w 14 6)) else .error .reservedField
  else .error .reservedFunction

/-- The words of major opcode 0x27 (R66). -/
def scalarMajor27 (w : Nat) : Except Illegal Instr :=
  if fld w 4 4 = 0 then if fld w 0 4 = 0 ∧ fld w 24 2 = 0 then
      accept (.obres (bits w 20 4) (bits w 14 6) (bits w 8 6)) else .error .reservedField
  else if fld w 4 4 = 1 then if fld w 8 12 = 0 ∧ fld w 0 4 = 0 ∧ fld w 24 2 = 0 then
      accept (.obrel (bits w 20 4)) else .error .reservedField
  else if fld w 4 4 = 2 then if fld w 0 4 = 0 ∧ fld w 14 6 = 0 ∧ fld w 24 2 = 0 then
      accept (.obfmt (bits w 20 4) (bits w 8 6)) else .error .reservedField
  else .error .reservedFunction

/-- The words of major opcode 0x28 (R66). -/
def scalarMajor28 (w : Nat) : Except Illegal Instr :=
  if fld w 4 4 = 0 then accept (.mma (bits w 20 6) (bits w 14 6) (bits w 8 6) (bits w 0 4))
  else if fld w 4 4 = 1 then accept (.mmaBm (bits w 20 6) (bits w 14 6) (bits w 8 6) (bits w 0 4))
  else if fld w 4 4 = 2 then accept (.mmaPair (bits w 20 6) (bits w 14 6) (bits w 8 6) (bits w 0 4))
  else if fld w 4 4 = 3 then accept (.mmaPairBm (bits w 20 6) (bits w 14 6) (bits w 8 6) (bits w 0 4))
  else .error .reservedFunction

/-- The words of major opcode 0x29 (R66). -/
def scalarMajor29 (w : Nat) : Except Illegal Instr :=
  if fld w 4 4 = 0 then if fld w 8 12 = 0 then accept (.mzero (bits w 20 6) (bits w 0 4)) else .error .reservedField
  else if fld w 4 4 = 1 then accept (.maccLd (bits w 20 6) (bits w 14 6) (bits w 8 6) (bits w 0 4))
  else if fld w 4 4 = 2 then accept (.maccSt (bits w 20 6) (bits w 14 6) (bits w 8 6) (bits w 0 4))
  else if fld w 4 4 = 3 then if fld w 8 12 = 0 ∧ fld w 0 4 = 0 then
      accept (.mwait (bits w 20 6)) else .error .reservedField
  else if fld w 4 4 = 4 then if fld w 0 4 = 0 ∧ fld w 14 6 = 0 then
      accept (.mstat (bits w 20 6) (bits w 8 6)) else .error .reservedField
  else .error .reservedFunction

/-- The words of major opcode 0x2a (R66). -/
def scalarMajor2a (w : Nat) : Except Illegal Instr :=
  if fld w 4 4 = 0 then if fld w 8 6 = 0 ∧ fld w 20 6 = 0 then
      accept (.dcfg (bits w 14 6) (bits w 0 4)) else .error .reservedField
  else if fld w 4 4 = 1 then if fld w 20 6 = 0 then
      accept (.dload (bits w 14 6) (bits w 8 6) (bits w 0 4)) else .error .reservedField
  else if fld w 4 4 = 2 then if fld w 8 6 = 0 ∧ fld w 20 6 = 0 then
      accept (.dloadPairs (bits w 14 6) (bits w 0 4)) else .error .reservedField
  else if fld w 4 4 = 3 then if fld w 20 6 = 0 then
      accept (.dstream (bits w 14 6) (bits w 8 6) (bits w 0 4)) else .error .reservedField
  else if fld w 4 4 = 4 then if fld w 20 6 = 0 then
      accept (.dbias (bits w 14 6) (bits w 8 6) (bits w 0 4)) else .error .reservedField
  else if fld w 4 4 = 5 then if fld w 8 6 = 0 ∧ fld w 20 6 = 0 then
      accept (.dclamp (bits w 14 6) (bits w 0 4)) else .error .reservedField
  else if fld w 4 4 = 6 then if fld w 8 6 = 0 ∧ fld w 20 6 = 0 then
      accept (.dinit (bits w 14 6) (bits w 0 4)) else .error .reservedField
  else .error .reservedFunction

/-- The words of major opcode 0x2b (R66). -/
def scalarMajor2b (w : Nat) : Except Illegal Instr :=
  if fld w 4 4 = 0 then if fld w 8 6 = 0 ∧ fld w 20 6 = 0 then
      accept (.dlink (bits w 14 6) (bits w 0 4)) else .error .reservedField
  else if fld w 4 4 = 1 then if fld w 8 6 = 0 ∧ fld w 20 6 = 0 then
      accept (.dsweep (bits w 14 6) (bits w 0 4)) else .error .reservedField
  else if fld w 4 4 = 2 then if fld w 20 6 = 0 then
      accept (.dread (bits w 14 6) (bits w 8 6) (bits w 0 4)) else .error .reservedField
  else if fld w 4 4 = 3 then if fld w 14 12 = 0 then
      accept (.dclr (bits w 8 6) (bits w 0 4)) else .error .reservedField
  else if fld w 4 4 = 4 then if fld w 0 4 = 0 ∧ fld w 14 6 = 0 then
      accept (.dmon (bits w 20 6) (bits w 8 6)) else .error .reservedField
  else if fld w 4 4 = 5 then if fld w 0 4 = 0 ∧ fld w 14 6 = 0 then
      accept (.dmonClr (bits w 20 6) (bits w 8 6)) else .error .reservedField
  else .error .reservedFunction

/-- The words of major opcode 0x2c (R66). -/
def scalarMajor2c (w : Nat) : Except Illegal Instr :=
  if fld w 4 4 = 0 then if fld w 0 4 = 0 then
      accept (.remit (bits w 20 6) (bits w 14 6) (bits w 8 6)) else .error .reservedField
  else if fld w 4 4 = 1 then if fld w 0 4 = 0 ∧ fld w 20 6 = 0 then
      accept (.remitW (bits w 14 6) (bits w 8 6)) else .error .reservedField
  else if fld w 4 4 = 2 then if fld w 0 4 = 0 then
      accept (.remitj (bits w 20 6) (bits w 14 6) (bits w 8 6)) else .error .reservedField
  else if fld w 4 4 = 3 then if fld w 8 18 = 0 ∧ fld w 0 4 = 0 then accept (.rdone) else .error .reservedField
  else .error .reservedFunction

/-- The words of major opcode 0x2d (R66). -/
def scalarMajor2d (w : Nat) : Except Illegal Instr :=
  if fld w 4 4 = 0 then if fld w 0 4 = 0 ∧ fld w 14 6 = 0 then
      accept (.gquery (bits w 20 6) (bits w 8 6)) else .error .reservedField
  else if fld w 4 4 = 1 then if fld w 0 4 = 0 ∧ fld w 14 6 = 0 then
      accept (.gcount (bits w 20 6) (bits w 8 6)) else .error .reservedField
  else .error .reservedFunction

/-- The instruction of a scalar-stream word, or why it is none (R66, R67). -/
def decodeScalarNat (w : Nat) : Except Illegal Instr :=
  match w / 2 ^ 26 with
  | 0x01 => scalarMajor01 w
  | 0x02 => scalarMajor02 w
  | 0x03 => scalarMajor03 w
  | 0x04 => scalarMajor04 w
  | 0x05 => scalarMajor05 w
  | 0x06 => scalarMajor06 w
  | 0x07 => scalarMajor07 w
  | 0x08 => scalarMajor08 w
  | 0x09 => scalarMajor09 w
  | 0x0a => scalarMajor0a w
  | 0x0b => scalarMajor0b w
  | 0x0c => scalarMajor0c w
  | 0x0d => scalarMajor0d w
  | 0x0e => scalarMajor0e w
  | 0x0f => scalarMajor0f w
  | 0x10 => scalarMajor10 w
  | 0x11 => scalarMajor11 w
  | 0x12 => scalarMajor12 w
  | 0x13 => scalarMajor13 w
  | 0x14 => scalarMajor14 w
  | 0x15 => scalarMajor15 w
  | 0x16 => scalarMajor16 w
  | 0x17 => scalarMajor17 w
  | 0x18 => scalarMajor18 w
  | 0x19 => scalarMajor19 w
  | 0x1a => scalarMajor1a w
  | 0x1b => scalarMajor1b w
  | 0x1c => scalarMajor1c w
  | 0x1d => scalarMajor1d w
  | 0x1e => scalarMajor1e w
  | 0x1f => scalarMajor1f w
  | 0x20 => scalarMajor20 w
  | 0x21 => scalarMajor21 w
  | 0x22 => scalarMajor22 w
  | 0x23 => scalarMajor23 w
  | 0x24 => scalarMajor24 w
  | 0x25 => scalarMajor25 w
  | 0x26 => scalarMajor26 w
  | 0x27 => scalarMajor27 w
  | 0x28 => scalarMajor28 w
  | 0x29 => scalarMajor29 w
  | 0x2a => scalarMajor2a w
  | 0x2b => scalarMajor2b w
  | 0x2c => scalarMajor2c w
  | 0x2d => scalarMajor2d w
  | _ => .error .reservedFunction

/-- The fields of a lane word (R68). -/
def laneFieldsOf (w : Nat) : LaneFields where
  mod := bits w 80 8
  d := bits w 71 9
  nw := bits w 70 1
  a := bits w 61 9
  b := bits w 52 9
  c := bits w 43 9
  pred := bits w 40 3
  neg := bits w 39 1
  ctl := bits w 32 7
  imm := bits w 0 32

/-- The lane instruction of an opcode, before its fields are checked (R72). -/
def laneOfOpcode (op : Nat) (f : LaneFields) : Option Instr :=
  match op with
  | 0x01 => some (.vadd f)
  | 0x02 => some (.vsub f)
  | 0x03 => some (.vmul f)
  | 0x04 => some (.vmulh f)
  | 0x05 => some (.vmad f)
  | 0x06 => some (.vmin f)
  | 0x07 => some (.vmax f)
  | 0x08 => some (.vabs f)
  | 0x09 => some (.vand f)
  | 0x0a => some (.vor f)
  | 0x0b => some (.vxor f)
  | 0x0c => some (.vnot f)
  | 0x0d => some (.vshl f)
  | 0x0e => some (.vshr f)
  | 0x0f => some (.vsra f)
  | 0x10 => some (.vclz f)
  | 0x11 => some (.vpopc f)
  | 0x12 => some (.vbfx f)
  | 0x13 => some (.vbfi f)
  | 0x14 => some (.vsel f)
  | 0x15 => some (.vcmp f)
  | 0x16 => some (.vmov f)
  | 0x17 => some (.vli f)
  | 0x20 => some (.vfadd f)
  | 0x21 => some (.vfsub f)
  | 0x22 => some (.vfmul f)
  | 0x23 => some (.vfma f)
  | 0x24 => some (.vfmin f)
  | 0x25 => some (.vfmax f)
  | 0x26 => some (.vfcmp f)
  | 0x27 => some (.vfclass f)
  | 0x28 => some (.vrcp f)
  | 0x29 => some (.vrsqrt f)
  | 0x2a => some (.vexp2 f)
  | 0x2b => some (.vlog2 f)
  | 0x2c => some (.vtanh f)
  | 0x40 => some (.vcvt f)
  | 0x41 => some (.vpack f)
  | 0x42 => some (.vunpack f)
  | 0x43 => some (.vmxq f)
  | 0x44 => some (.vmxdq f)
  | 0x45 => some (.vspq f)
  | 0x50 => some (.vperm f)
  | 0x51 => some (.vshfl f)
  | 0x52 => some (.vred f)
  | 0x53 => some (.vscan f)
  | 0x54 => some (.vballot f)
  | 0x55 => some (.vbcast f)
  | 0x56 => some (.vcompact f)
  | 0x60 => some (.pand f)
  | 0x61 => some (.por f)
  | 0x62 => some (.pnot f)
  | 0x63 =>
    match f.mod.toNat % 4 with
    | 0 => some (.pmov f)
    | 1 => some (.pmovV f)
    | 2 => some (.pmovI f)
    | _ => none
  | 0x68 => some (.vrand f)
  | 0x69 => some (.vrandf f)
  | 0x70 => some (.vld f)
  | 0x71 => some (.vst f)
  | 0x72 => some (.vlds f)
  | 0x73 => some (.vsts f)
  | 0x74 => some (.vldt f)
  | 0x80 => some (.vatom f)
  | 0x81 => some (.vredM f)
  | 0x82 => some (.vldacq f)
  | 0x83 => some (.vstrel f)
  | 0x90 => some (.mpost f)
  | _ => none

/-- The instruction of a lane word, or why it is none (R72, R73). -/
def decodeLaneNat (w : Nat) : Except Illegal Instr :=
  match laneOfOpcode (w / 2 ^ 88) (laneFieldsOf w) with
  | none => .error (if w / 2 ^ 88 = 0x63 then .reservedField else .reservedFunction)
  | some i => accept i

/-- The instruction of a front-end custom-0 word, none where R340 raises the illegal-instruction exception. -/
def decodeFrontNat (w : Nat) : Option Instr :=
  if fld w 0 7 ≠ 0x0b then none
  else
    match fld w 12 3 with
    | 0 => if fld w 25 7 = 0 then some (.qfetch (bits w 20 5) (bits w 15 5) (bits w 7 5)) else none
    | 1 => if fld w 25 7 = 0 then some (.fbfx (bits w 20 5) (bits w 15 5) (bits w 7 5)) else none
    | 2 => if fld w 27 5 = 0 then
        some (.sigwait (bits w 26 1) (bits w 25 1) (bits w 20 5) (bits w 15 5) (bits w 7 5)) else none
    | 3 => if fld w 25 7 = 0 then some (.dispatch (bits w 20 5) (bits w 15 5) (bits w 7 5)) else none
    | 4 => if fld w 25 7 = 0 ∧ fld w 15 10 = 0 ∧ fld w 7 5 = 0 then some .pcancel else none
    | 5 => if fld w 25 7 = 0 ∧ fld w 15 10 = 0 ∧ fld w 7 5 = 0 then some .prepeat else none
    | _ => none

/-- The instruction of a 32-bit scalar-stream word. -/
def decodeScalar (w : BitVec 32) : Except Illegal Instr := decodeScalarNat w.toNat

/-- The instruction of a 96-bit lane word. -/
def decodeLane (w : BitVec 96) : Except Illegal Instr := decodeLaneNat w.toNat

/-- The instruction of a 32-bit front-end word. -/
def decodeFront (w : BitVec 32) : Option Instr := decodeFrontNat w.toNat

/-- The scalar instruction at the front of a list of bytes, with the rest. -/
def decodeScalarBytes (bs : List Byte) : Except Illegal (Instr × List Byte) :=
  match decodeScalarNat (leNat (bs.take 4) % 2 ^ 32) with
  | .ok i => .ok (i, bs.drop 4)
  | .error e => .error e

/-- Whether a 32-bit table word is a front-end word: a custom-0 word whose scalar major opcode is the reserved 0x00
(R66, R340). -/
def isFrontWord (w : Nat) : Bool := fld w 26 6 = 0 && fld w 0 7 = 0x0b

/-- The decoder's reading of an instruction whose bits are `w`, numbered as the opcode table numbers them. The bytes are
laid out in memory order and decoded from there. -/
def decodeTableWord (nbits w : Nat) : Option Instr :=
  if nbits ≤ 32 then
    let v := leNat (leBytes 4 w)
    if isFrontWord v then decodeFrontNat v
    else
      match decodeScalarNat v with
      | .ok i => some i
      | .error _ => none
  else
    match decodeLaneNat (leNat (leBytes 12 w)) with
    | .ok i => some i
    | .error _ => none

/-- A word with fixed bits `base` and the values of its fields at their low bits. -/
def place (base : Nat) (fields : List (Nat × Nat)) : Nat :=
  fields.foldr (fun p n => p.1 * 2 ^ p.2 + n) base

/-- The bits of a scalar-stream word (R61). -/
def encodeScalarNat : Instr → Nat
  | .add sd sa sb => place 0x04000000 [(sd.toNat, 20), (sa.toNat, 14), (sb.toNat, 8)]
  | .sub sd sa sb => place 0x04000001 [(sd.toNat, 20), (sa.toNat, 14), (sb.toNat, 8)]
  | .mul sd sa sb => place 0x04000002 [(sd.toNat, 20), (sa.toNat, 14), (sb.toNat, 8)]
  | .mulh sd sa sb => place 0x04000003 [(sd.toNat, 20), (sa.toNat, 14), (sb.toNat, 8)]
  | .mulhU sd sa sb => place 0x04000004 [(sd.toNat, 20), (sa.toNat, 14), (sb.toNat, 8)]
  | .div sd sa sb => place 0x04000005 [(sd.toNat, 20), (sa.toNat, 14), (sb.toNat, 8)]
  | .divU sd sa sb => place 0x04000006 [(sd.toNat, 20), (sa.toNat, 14), (sb.toNat, 8)]
  | .rem sd sa sb => place 0x04000007 [(sd.toNat, 20), (sa.toNat, 14), (sb.toNat, 8)]
  | .remU sd sa sb => place 0x04000008 [(sd.toNat, 20), (sa.toNat, 14), (sb.toNat, 8)]
  | .and sd sa sb => place 0x04000009 [(sd.toNat, 20), (sa.toNat, 14), (sb.toNat, 8)]
  | .or sd sa sb => place 0x0400000a [(sd.toNat, 20), (sa.toNat, 14), (sb.toNat, 8)]
  | .xor sd sa sb => place 0x0400000b [(sd.toNat, 20), (sa.toNat, 14), (sb.toNat, 8)]
  | .shl sd sa sb => place 0x0400000c [(sd.toNat, 20), (sa.toNat, 14), (sb.toNat, 8)]
  | .shr sd sa sb => place 0x0400000d [(sd.toNat, 20), (sa.toNat, 14), (sb.toNat, 8)]
  | .sra sd sa sb => place 0x0400000e [(sd.toNat, 20), (sa.toNat, 14), (sb.toNat, 8)]
  | .min sd sa sb => place 0x0400000f [(sd.toNat, 20), (sa.toNat, 14), (sb.toNat, 8)]
  | .minU sd sa sb => place 0x04000010 [(sd.toNat, 20), (sa.toNat, 14), (sb.toNat, 8)]
  | .max sd sa sb => place 0x04000011 [(sd.toNat, 20), (sa.toNat, 14), (sb.toNat, 8)]
  | .maxU sd sa sb => place 0x04000012 [(sd.toNat, 20), (sa.toNat, 14), (sb.toNat, 8)]
  | .sel sd sa sb => place 0x04000013 [(sd.toNat, 20), (sa.toNat, 14), (sb.toNat, 8)]
  | .clz sd sa => place 0x04000014 [(sd.toNat, 20), (sa.toNat, 14)]
  | .popc sd sa => place 0x04000015 [(sd.toNat, 20), (sa.toNat, 14)]
  | .cmp sd sa sb c => place 0x04000020 [(sd.toNat, 20), (sa.toNat, 14), (sb.toNat, 8), (c.toNat, 0)]
  | .bfx sd sa sb => place 0x08000000 [(sd.toNat, 20), (sa.toNat, 14), (sb.toNat, 8)]
  | .bfi sd sa sb => place 0x08000001 [(sd.toNat, 20), (sa.toNat, 14), (sb.toNat, 8)]
  | .aff sd sa sb => place 0x08000002 [(sd.toNat, 20), (sa.toNat, 14), (sb.toNat, 8)]
  | .addImm sd sa imm => place 0x0c000000 [(sd.toNat, 20), (sa.toNat, 14), (imm.toNat, 0)]
  | .andImm sd sa imm => place 0x10000000 [(sd.toNat, 20), (sa.toNat, 14), (imm.toNat, 0)]
  | .orImm sd sa imm => place 0x10001000 [(sd.toNat, 20), (sa.toNat, 14), (imm.toNat, 0)]
  | .xorImm sd sa imm => place 0x10002000 [(sd.toNat, 20), (sa.toNat, 14), (imm.toNat, 0)]
  | .shlImm sd sa n => place 0x14000000 [(sd.toNat, 20), (sa.toNat, 14), (n.toNat, 0)]
  | .shrImm sd sa n => place 0x14001000 [(sd.toNat, 20), (sa.toNat, 14), (n.toNat, 0)]
  | .sraImm sd sa n => place 0x14002000 [(sd.toNat, 20), (sa.toNat, 14), (n.toNat, 0)]
  | .cmpImm sd sa c imm => place 0x18000000 [(sd.toNat, 20), (sa.toNat, 14), (c.toNat, 10), (imm.toNat, 0)]
  | .lea sd imm => place 0x1c000000 [(sd.toNat, 20), (imm.toNat, 0)]
  | .li sd imm => place 0x20000000 [(sd.toNat, 20), (imm.toNat, 0)]
  | .lui sd imm => place 0x24000000 [(sd.toNat, 20), (imm.toNat, 0)]
  | .ld sd sa w off => place 0x28000000 [(sd.toNat, 20), (sa.toNat, 14), (w.toNat, 11), (off.toNat, 0)]
  | .st sd sa w off => place 0x2c000000 [(sd.toNat, 20), (sa.toNat, 14), (w.toNat, 11), (off.toNat, 0)]
  | .ald k sa sb w => place 0x30000000 [(k.toNat, 20), (sa.toNat, 14), (sb.toNat, 8), (w.toNat, 4)]
  | .aldx j k sa sb w => place 0x34000000 [(j.toNat, 23), (k.toNat, 20), (sa.toNat, 14), (sb.toNat, 8), (w.toNat, 4)]
  | .lpset sd sa imm => place 0x38000000 [(sd.toNat, 20), (sa.toNat, 14), (imm.toNat, 0)]
  | .lpend sd imm => place 0x3c000000 [(sd.toNat, 20), (imm.toNat, 0)]
  | .br imm => place 0x40000000 [(imm.toNat, 0)]
  | .call imm => place 0x44000000 [(imm.toNat, 0)]
  | .bc c sa imm => place 0x48000000 [(c.toNat, 20), (sa.toNat, 14), (imm.toNat, 0)]
  | .jmp sa => place 0x4c000000 [(sa.toNat, 14)]
  | .calli sa => place 0x4c000001 [(sa.toNat, 14)]
  | .ret => place 0x4c000002 []
  | .brd p n t j => place 0x50000000 [(p.toNat, 23), (n.toNat, 22), (t.toNat, 11), (j.toNat, 0)]
  | .join => place 0x54000000 []
  | .callv sa k => place 0x58000000 [(sa.toNat, 14), (k.toNat, 8)]
  | .done => place 0x5c000000 []
  | .lrun r l imm => place 0x60000000 [(r.toNat, 20), (l.toNat, 16), (imm.toNat, 0)]
  | .mfem sd => place 0x64000000 [(sd.toNat, 20)]
  | .mtem sa => place 0x64000001 [(sa.toNat, 14)]
  | .voteAny sd n p => place 0x64000008 [(sd.toNat, 20), (n.toNat, 17), (p.toNat, 14)]
  | .voteAll sd n p => place 0x64000009 [(sd.toNat, 20), (n.toNat, 17), (p.toNat, 14)]
  | .voteBall sd n p => place 0x6400000a [(sd.toNat, 20), (n.toNat, 17), (p.toNat, 14)]
  | .lget sd r sb h => place 0x64000010 [(sd.toNat, 20), (r.toNat, 14), (sb.toNat, 8), (h.toNat, 0)]
  | .arrive sd g => place 0x68000000 [(sd.toNat, 20), (g.toNat, 12)]
  | .await sd g => place 0x68000010 [(sd.toNat, 20), (g.toNat, 12)]
  | .bar sd g => place 0x68000020 [(sd.toNat, 20), (g.toNat, 12)]
  | .cbwait sd c => place 0x6c000000 [(sd.toNat, 20), (c.toNat, 0)]
  | .cbpoll sd c => place 0x6c000010 [(sd.toNat, 20), (c.toNat, 0)]
  | .rgive n => place 0x70000000 [(n.toNat, 8)]
  | .rclaim n => place 0x70000001 [(n.toNat, 8)]
  | .enter k => place 0x74000000 [(k.toNat, 0)]
  | .leave k => place 0x74100000 [(k.toNat, 0)]
  | .mfk sd s => place 0x78000000 [(sd.toNat, 20), (s.toNat, 0)]
  | .mtk sa s => place 0x78000100 [(sa.toNat, 14), (s.toNat, 0)]
  | .nop => place 0x7c000000 []
  | .trap k => place 0x7c000001 [(k.toNat, 8)]
  | .brk => place 0x7c000002 []
  | .ifence => place 0x7c000003 []
  | .cflush sa sb => place 0x7c000004 [(sa.toNat, 14), (sb.toNat, 8)]
  | .cycl sd => place 0x7c000005 [(sd.toNat, 20)]
  | .phint sa sb => place 0x7c000006 [(sa.toNat, 14), (sb.toNat, 8)]
  | .ldacq sd sa s w off => place 0x80000000 [(sd.toNat, 20), (sa.toNat, 14), (s.toNat, 11), (w.toNat, 10), (off.toNat, 0)]
  | .strel sd sa s w off => place 0x84000000 [(sd.toNat, 20), (sa.toNat, 14), (s.toNat, 11), (w.toNat, 10), (off.toNat, 0)]
  | .fence k s => place 0x88000000 [(k.toNat, 23), (s.toNat, 20)]
  | .relflush => place 0x88000001 []
  | .xcopy sd sa sb r m => place 0x8c000000 [(sd.toNat, 20), (sa.toNat, 14), (sb.toNat, 8), (r.toNat, 6), (m.toNat, 4)]
  | .xseal sd => place 0x90000000 [(sd.toNat, 20)]
  | .xwait n => place 0x90000010 [(n.toNat, 8)]
  | .xpoll sd n => place 0x90000020 [(sd.toNat, 20), (n.toNat, 8)]
  | .tfill t sa sb c => place 0x94000000 [(t.toNat, 20), (sa.toNat, 14), (sb.toNat, 8), (c.toNat, 0)]
  | .tfillOb t sa sb c => place 0x94000040 [(t.toNat, 20), (sa.toNat, 14), (sb.toNat, 8), (c.toNat, 0)]
  | .tdrain t sa sb c => place 0x94000010 [(t.toNat, 20), (sa.toNat, 14), (sb.toNat, 8), (c.toNat, 0)]
  | .tstate sd t => place 0x94000020 [(sd.toNat, 20), (t.toNat, 8)]
  | .tfree t => place 0x94000030 [(t.toNat, 20)]
  | .capinit sa sb => place 0x98000000 [(sa.toNat, 14), (sb.toNat, 8)]
  | .capin sa => place 0x98000010 [(sa.toNat, 14)]
  | .capstep => place 0x98000020 []
  | .capout => place 0x98000030 []
  | .capres sd sa => place 0x98000040 [(sd.toNat, 20), (sa.toNat, 14)]
  | .obres k sa sb => place 0x9c000000 [(k.toNat, 20), (sa.toNat, 14), (sb.toNat, 8)]
  | .obrel k => place 0x9c000010 [(k.toNat, 20)]
  | .obfmt k sb => place 0x9c000020 [(k.toNat, 20), (sb.toNat, 8)]
  | .mma sd sa k c => place 0xa0000000 [(sd.toNat, 20), (sa.toNat, 14), (k.toNat, 8), (c.toNat, 0)]
  | .mmaBm sd sa k c => place 0xa0000010 [(sd.toNat, 20), (sa.toNat, 14), (k.toNat, 8), (c.toNat, 0)]
  | .mmaPair sd sa k c => place 0xa0000020 [(sd.toNat, 20), (sa.toNat, 14), (k.toNat, 8), (c.toNat, 0)]
  | .mmaPairBm sd sa k c => place 0xa0000030 [(sd.toNat, 20), (sa.toNat, 14), (k.toNat, 8), (c.toNat, 0)]
  | .mzero sd c => place 0xa4000000 [(sd.toNat, 20), (c.toNat, 0)]
  | .maccLd sd sa sb c => place 0xa4000010 [(sd.toNat, 20), (sa.toNat, 14), (sb.toNat, 8), (c.toNat, 0)]
  | .maccSt sd sa sb c => place 0xa4000020 [(sd.toNat, 20), (sa.toNat, 14), (sb.toNat, 8), (c.toNat, 0)]
  | .mwait sd => place 0xa4000030 [(sd.toNat, 20)]
  | .mstat sd k => place 0xa4000040 [(sd.toNat, 20), (k.toNat, 8)]
  | .dcfg sa c => place 0xa8000000 [(sa.toNat, 14), (c.toNat, 0)]
  | .dload sa sb c => place 0xa8000010 [(sa.toNat, 14), (sb.toNat, 8), (c.toNat, 0)]
  | .dloadPairs sa c => place 0xa8000020 [(sa.toNat, 14), (c.toNat, 0)]
  | .dstream sa sb c => place 0xa8000030 [(sa.toNat, 14), (sb.toNat, 8), (c.toNat, 0)]
  | .dbias sa sb c => place 0xa8000040 [(sa.toNat, 14), (sb.toNat, 8), (c.toNat, 0)]
  | .dclamp sa c => place 0xa8000050 [(sa.toNat, 14), (c.toNat, 0)]
  | .dinit sa c => place 0xa8000060 [(sa.toNat, 14), (c.toNat, 0)]
  | .dlink sa c => place 0xac000000 [(sa.toNat, 14), (c.toNat, 0)]
  | .dsweep sa c => place 0xac000010 [(sa.toNat, 14), (c.toNat, 0)]
  | .dread sa k c => place 0xac000020 [(sa.toNat, 14), (k.toNat, 8), (c.toNat, 0)]
  | .dclr k c => place 0xac000030 [(k.toNat, 8), (c.toNat, 0)]
  | .dmon sd k => place 0xac000040 [(sd.toNat, 20), (k.toNat, 8)]
  | .dmonClr sd k => place 0xac000050 [(sd.toNat, 20), (k.toNat, 8)]
  | .remit sd sa sb => place 0xb0000000 [(sd.toNat, 20), (sa.toNat, 14), (sb.toNat, 8)]
  | .remitW sa sb => place 0xb0000010 [(sa.toNat, 14), (sb.toNat, 8)]
  | .remitj sd sa sb => place 0xb0000020 [(sd.toNat, 20), (sa.toNat, 14), (sb.toNat, 8)]
  | .rdone => place 0xb0000030 []
  | .gquery sd n => place 0xb4000000 [(sd.toNat, 20), (n.toNat, 8)]
  | .gcount sd n => place 0xb4000010 [(sd.toNat, 20), (n.toNat, 8)]
  | _ => 0

/-- The bits of a lane word (R68). -/
def encodeLaneFields (op : Nat) (f : LaneFields) : Nat :=
  op * 2 ^ 88 + f.mod.toNat * 2 ^ 80 + f.d.toNat * 2 ^ 71 + f.nw.toNat * 2 ^ 70 + f.a.toNat * 2 ^ 61
    + f.b.toNat * 2 ^ 52 + f.c.toNat * 2 ^ 43 + f.pred.toNat * 2 ^ 40 + f.neg.toNat * 2 ^ 39
    + f.ctl.toNat * 2 ^ 32 + f.imm.toNat

/-- The bits of a lane instruction (R68, R72). -/
def encodeLaneNat (i : Instr) : Nat :=
  match laneParts i with
  | some (op, f) => encodeLaneFields op f
  | none => 0

/-- The bits of a front-end word (R340). -/
def encodeFrontNat : Instr → Nat
  | .qfetch rs2 rs1 rd => 0x0b + rd.toNat * 2 ^ 7 + rs1.toNat * 2 ^ 15 + rs2.toNat * 2 ^ 20
  | .fbfx rs2 rs1 rd => 0x100b + rd.toNat * 2 ^ 7 + rs1.toNat * 2 ^ 15 + rs2.toNat * 2 ^ 20
  | .sigwait p e rs2 rs1 rd =>
    0x200b + rd.toNat * 2 ^ 7 + rs1.toNat * 2 ^ 15 + rs2.toNat * 2 ^ 20 + e.toNat * 2 ^ 25 + p.toNat * 2 ^ 26
  | .dispatch rs2 rs1 rd => 0x300b + rd.toNat * 2 ^ 7 + rs1.toNat * 2 ^ 15 + rs2.toNat * 2 ^ 20
  | .pcancel => 0x400b
  | .prepeat => 0x500b
  | _ => 0

/-- The stream an instruction word belongs to: the scalar stream, the lane stream or the front end. -/
inductive Stream where
  | scalar | lane | front
deriving DecidableEq, Repr

/-- The stream of an instruction, none for a row without an instruction word. -/
def streamOf : Instr → Option Stream
  | .add _ _ _ | .sub _ _ _ | .mul _ _ _ | .mulh _ _ _ | .mulhU _ _ _ | .div _ _ _
  | .divU _ _ _ | .rem _ _ _ | .remU _ _ _ | .and _ _ _ | .or _ _ _ | .xor _ _ _
  | .shl _ _ _ | .shr _ _ _ | .sra _ _ _ | .min _ _ _ | .minU _ _ _ | .max _ _ _
  | .maxU _ _ _ | .sel _ _ _ | .clz _ _ | .popc _ _ | .cmp _ _ _ _ | .bfx _ _ _
  | .bfi _ _ _ | .aff _ _ _ | .addImm _ _ _ | .andImm _ _ _ | .orImm _ _ _ | .xorImm _ _ _
  | .shlImm _ _ _ | .shrImm _ _ _ | .sraImm _ _ _ | .cmpImm _ _ _ _ | .lea _ _ | .li _ _
  | .lui _ _ | .ld _ _ _ _ | .st _ _ _ _ | .ald _ _ _ _ | .aldx _ _ _ _ _ | .lpset _ _ _
  | .lpend _ _ | .br _ | .call _ | .bc _ _ _ | .jmp _ | .calli _
  | .ret | .brd _ _ _ _ | .join | .callv _ _ | .done | .lrun _ _ _
  | .mfem _ | .mtem _ | .voteAny _ _ _ | .voteAll _ _ _ | .voteBall _ _ _ | .lget _ _ _ _
  | .arrive _ _ | .await _ _ | .bar _ _ | .cbwait _ _ | .cbpoll _ _ | .rgive _
  | .rclaim _ | .enter _ | .leave _ | .mfk _ _ | .mtk _ _ | .nop
  | .trap _ | .brk | .ifence | .cflush _ _ | .cycl _ | .phint _ _
  | .ldacq _ _ _ _ _ | .strel _ _ _ _ _ | .fence _ _ | .relflush | .xcopy _ _ _ _ _ | .xseal _
  | .xwait _ | .xpoll _ _ | .tfill _ _ _ _ | .tfillOb _ _ _ _ | .tdrain _ _ _ _ | .tstate _ _
  | .tfree _ | .capinit _ _ | .capin _ | .capstep | .capout | .capres _ _
  | .obres _ _ _ | .obrel _ | .obfmt _ _ | .mma _ _ _ _ | .mmaBm _ _ _ _ | .mmaPair _ _ _ _
  | .mmaPairBm _ _ _ _ | .mzero _ _ | .maccLd _ _ _ _ | .maccSt _ _ _ _ | .mwait _ | .mstat _ _
  | .dcfg _ _ | .dload _ _ _ | .dloadPairs _ _ | .dstream _ _ _ | .dbias _ _ _ | .dclamp _ _
  | .dinit _ _ | .dlink _ _ | .dsweep _ _ | .dread _ _ _ | .dclr _ _ | .dmon _ _
  | .dmonClr _ _ | .remit _ _ _ | .remitW _ _ | .remitj _ _ _ | .rdone | .gquery _ _
  | .gcount _ _ =>
    some .scalar
  | .vadd _ | .vsub _ | .vmul _ | .vmulh _ | .vmad _ | .vmin _
  | .vmax _ | .vabs _ | .vand _ | .vor _ | .vxor _ | .vnot _
  | .vshl _ | .vshr _ | .vsra _ | .vclz _ | .vpopc _ | .vbfx _
  | .vbfi _ | .vsel _ | .vcmp _ | .vmov _ | .vli _ | .vfadd _
  | .vfsub _ | .vfmul _ | .vfma _ | .vfmin _ | .vfmax _ | .vfcmp _
  | .vfclass _ | .vrcp _ | .vrsqrt _ | .vexp2 _ | .vlog2 _ | .vtanh _
  | .vcvt _ | .vpack _ | .vunpack _ | .vmxq _ | .vmxdq _ | .vspq _
  | .vperm _ | .vshfl _ | .vred _ | .vscan _ | .vballot _ | .vbcast _
  | .vcompact _ | .pand _ | .por _ | .pnot _ | .pmov _ | .pmovV _
  | .pmovI _ | .vrand _ | .vrandf _ | .vld _ | .vst _ | .vlds _
  | .vsts _ | .vldt _ | .vatom _ | .vredM _ | .vldacq _ | .vstrel _
  | .mpost _ =>
    some .lane
  | .qfetch _ _ _ | .fbfx _ _ _ | .sigwait _ _ _ _ _ | .dispatch _ _ _ | .pcancel | .prepeat =>
    some .front
  | _ => none

/-- The words of an instruction: its stream and its bits. -/
def encode (i : Instr) : Option (Stream × Nat) :=
  match streamOf i with
  | some .scalar => some (.scalar, encodeScalarNat i)
  | some .lane => some (.lane, encodeLaneNat i)
  | some .front => some (.front, encodeFrontNat i)
  | none => none

/-- The decoder of a stream. -/
def decodeOf : Stream → Nat → Option Instr
  | .scalar, w => (decodeScalarNat w).toOption
  | .lane, w => (decodeLaneNat w).toOption
  | .front, w => decodeFrontNat w

end Sys2Proof
end

