-- ==== Sys2Proof/Config.lean ====
section
/-!
DEFINITION. What an implementation fixes (R430) and the free values of the model: constants without a body, which no
proof can evaluate (R3; DESIGN CHOICE, log entries 13 to 20).
-/

namespace Sys2Proof.Config

/-- An undefined value of R3: `freeNat n k` is the k-th part of the n-th undefined value of a run. -/
opaque freeNat : Nat → Nat → Nat

/-- The candidate result of a function instruction of R129 for its opcode, format code and operand bits. It is taken
only where it lies within the bound of R129. -/
opaque laneFunction : Nat → Nat → Nat → Nat

/-- A physical noise sample of 16 bits of a bit of an array (R277): the n-th draw of a run, at bit i. -/
opaque physicalDraw : Nat → Nat → Nat

/-- The n-th choice the spec leaves to the machine: an order of agents, of a place's updates (R156), of two engines
(R202), of the value an unordered read returns (R258). -/
opaque choice : Nat → Nat

/-- The bytes of an identity object of R418 (certificate chain, digest, signature) by its kind, argument and index. -/
opaque identityByte : Nat → Nat → Nat → Nat

/-- Whether the firmware image that the n-th update writes, of so many bytes, carries a signature that passes the check of
R417. -/
opaque imageAccepted : Nat → Nat → Bool

/-- The version of a firmware image (R417). -/
opaque imageVersion : Nat → Nat → Nat

/-- The package power in W that a local cycle of die (0, 0) finds in `pwr_sts` (R330). -/
opaque powerReading : Nat → Nat

/-- The allowance gain of a throttled die at a power setting after so many steps (R366). -/
opaque throttledGain : Nat → Nat → Nat

/-- Allowance gain per cycle at a power setting (R430): 4 units per cycle for each step of `pwr_set`. -/
def gainPerCycle (pwrSet : Nat) : Nat := 4 * pwrSet

/-- Allowance capacity of a die (R430). -/
def capacity : Nat := 65536

/-- Calibration time of one array in local cycles (R430). -/
def calibrationCycles : Nat := 2 ^ 20

/-- Mapping interval of the queue slots (R430). -/
def mappingInterval : Nat := 16384

/-- Remote completion timeout (R430). -/
def remoteTimeout : Nat := 2 ^ 24

/-- Throttle temperature in units of 0.1 °C (R430). -/
def throttleTemperature : Nat := 950

/-- Critical temperature in units of 0.1 °C (R430). -/
def criticalTemperature : Nat := 1050

/-- Die SRAM scrub interval (R430). -/
def sramScrubInterval : Nat := 2 ^ 32

/-- The forced-save bound of R387 in local cycles. -/
def forcedSaveBound : Nat := 200000

/-- The watchdog bound of R396 in local cycles. -/
def watchdogBound : Nat := 2 ^ 24

/-- The instruction limit of a prologue (R346). -/
def prologueInstructions : Nat := 256

/-- The cycle limit of a prologue (R346). -/
def prologueCycles : Nat := 4096

/-- The offered feature bits of R332: bits 0 to 13. -/
def featCap : BitVec 256 := 0x3fff

end Sys2Proof.Config
end

