-- ==== Sys2Proof/Machine/Tab.lean ====
section
/-!
DEFINITION. Tables by number, storage with undefined contents, and the canonical memory.
-/

namespace Sys2Proof.Machine

/-- A table from numbers to values: a list of pairs with rising keys. -/
abbrev Tab (α : Type) := List (Nat × α)

/-- The entry of a key. -/
def Tab.get? {α : Type} (t : Tab α) (k : Nat) : Option α :=
  match t with
  | [] => none
  | (a, v) :: r => if a = k then some v else Tab.get? r k

/-- The entry of a key, or a default. -/
def Tab.getD {α : Type} (t : Tab α) (k : Nat) (d : α) : α := (Tab.get? t k).getD d

/-- The table with the entry of a key set. -/
def Tab.set {α : Type} (t : Tab α) (k : Nat) (v : α) : Tab α :=
  match t with
  | [] => [(k, v)]
  | (a, w) :: r =>
    if k < a then (k, v) :: (a, w) :: r
    else if a = k then (k, v) :: r
    else (a, w) :: Tab.set r k v

/-- The table without the entry of a key. -/
def Tab.erase {α : Type} (t : Tab α) (k : Nat) : Tab α := t.filter (fun p => p.1 ≠ k)

/-- The table with the entry of a key changed, where it has one. -/
def Tab.modify {α : Type} (t : Tab α) (k : Nat) (f : α → α) : Tab α :=
  match Tab.get? t k with
  | some v => Tab.set t k (f v)
  | none => t

/-- The table with an entry set or removed. -/
def Tab.put {α : Type} (t : Tab α) (k : Nat) (v : Option α) : Tab α :=
  match v with
  | some v => Tab.set t k v
  | none => Tab.erase t k

/-- The values of a table in rising order of their keys. -/
def Tab.values {α : Type} (t : Tab α) : List α := t.map Prod.snd

/-- What a cell that nothing has written reads as: zero, an undefined value of R3, or zero in the listed units of so many
cells and undefined elsewhere. -/
inductive Fill where
  | zero
  | free (seed : Nat)
  | zeroUnits (cells : Nat) (units : List Nat) (seed : Nat)
deriving DecidableEq, Repr, Inhabited

/-- Storage of cells of `w` bits: lane registers, scratchpad, operand buffer, accumulator store (R39, R49, R52, R53). -/
structure Store (w : Nat) where
  fill : Fill
  cells : Tab (BitVec w)
deriving DecidableEq, Repr, Inhabited

/-- The cell of a number. -/
def Store.read {w : Nat} (s : Store w) (k : Nat) : BitVec w :=
  match Tab.get? s.cells k with
  | some v => v
  | none =>
    match s.fill with
    | .zero => 0
    | .free seed => BitVec.ofNat w (Config.freeNat seed k)
    | .zeroUnits n units seed => if units.contains (k / n) then 0 else BitVec.ofNat w (Config.freeNat seed k)

/-- The storage with a cell written. -/
def Store.write {w : Nat} (s : Store w) (k : Nat) (v : BitVec w) : Store w := { s with cells := Tab.set s.cells k v }

/-- The units of a storage in which nothing has been written since they were zeroed, of those a list names. -/
def Fill.keepUnits (f : Fill) (p : Nat → Bool) : Fill :=
  match f with
  | .zeroUnits n units seed => .zeroUnits n (units.filter p) seed
  | x => x

/-- The storage with cells from `k` up written. -/
def Store.writeList {w : Nat} (s : Store w) (k : Nat) : List (BitVec w) → Store w
  | [] => s
  | v :: vs => Store.writeList (s.write k v) (k + 1) vs

/-- `n` cells from `k` up. -/
def Store.readList {w : Nat} (s : Store w) (k : Nat) : Nat → List (BitVec w)
  | 0 => []
  | n + 1 => s.read k :: Store.readList s (k + 1) n

/-- The byte of memory at an address; a byte that the list does not name is zero (R415: a reset writes every sector
with zeros). -/
def memRead (m : List Host.Cell) (a : Nat) : Byte := Tab.getD m a 0

/-- The memory with a byte written, in canonical form: rising addresses, and no zero listed. -/
def memWrite (m : List Host.Cell) (a : Nat) (b : Byte) : List Host.Cell :=
  if b = 0 then Tab.erase m a else Tab.set m a b

/-- Whether addresses rise from a bound and no zero is listed. -/
def memWfFrom (lo : Nat) : List Host.Cell → Bool
  | [] => true
  | (a, b) :: r => decide (lo ≤ a) && decide (b ≠ 0) && memWfFrom (a + 1) r

/-- The canonical form of a memory (R252, DEDUCED, log entry 30). -/
def memWf (m : List Host.Cell) : Bool := memWfFrom 0 m

end Sys2Proof.Machine
end

