-- ==== Sys2Proof/Machine/State.lean ====
section
/-!
DEFINITION. The state of the package: everything the spec gives it, as plain data, and the state after a cold reset.
A core is named by its number 48 × (2dy + dx) + 8y + x (R319), a die by dx + 2dy, a caravan by 64 × core + slot with
slot 16q + s (R241). Every table is empty where the spec's item does not exist yet.
-/

namespace Sys2Proof.Machine

/-- The reasons a step can stop with a fault. -/
inductive Fault where
  /-- Raised by every meaning whose agent (caravan path, lane slot or front-end core) does not exist in the state: safe,
  because the spec gives an instruction an effect only for the agent that executes it. -/
  | noAgent
  /-- Raised by a host access beyond the 512 GiB of BAR2 (R329) and by a request of another package beyond the 48 bits of a
  physical address (R368): safe, no such storage exists (DEDUCED, log entry 49). -/
  | noStorage
deriving DecidableEq, Repr, Inhabited

/-- The reasons a step is refused. -/
inductive Refusal where
  /-- Raised by an arm of `exec` whose instruction has no meaning yet: safe. -/
  | notModelled (mnemonic : String)
deriving DecidableEq, Repr, Inhabited

/-- The stall reasons of R245, in priority order. -/
inductive Stall where
  | faultPending | capsule | group | completion | tile | claim | data | queueEmpty | fetch | power | busy
deriving DecidableEq, Repr, Inhabited

/-- The fault of a failed engine command, pending for its issuer (R173, R214), with the `trappc` image of the instruction
that issued the command (R385). -/
structure EngineFault where
  barrier : Nat
  order : Nat
  code : Nat
  cause : Nat
  addr : Word
  pc : Word := 0
deriving DecidableEq, Repr, Inhabited

/-- The outcome of a completed matrix operation, until the issuer's next `mwait` (R206). -/
structure MatrixOutcome where
  order : Nat
  poison : Bool
  fault : Option (Nat × Nat × Word)
deriving DecidableEq, Repr, Inhabited

/-- A fault raised and not yet delivered: the trap records of R379, the SPC a handler's frame resumes at (R380), and the
pending faults and matrix outcomes that its delivery ends (R173, R206). -/
structure Trap where
  code : Nat
  cause : Nat
  addr : Word
  pc : Word
  resume : Word
  removed : List Word
  faults : List EngineFault := []
  outcomes : List MatrixOutcome := []
deriving DecidableEq, Repr, Inhabited

/-- A lane-issue queue entry (R45): repetitions and length minus one, the address of the first lane word, and the SPC of
the `lrun` that enqueued it. -/
structure LaneEntry where
  rep : Nat
  len : Nat
  start : Word
  lrun : Word
deriving DecidableEq, Repr, Inhabited

/-- Where a store goes: physical memory of this package, memory of another package, the stack cache of a caravan or of a
caravan of a saved block (by virtual address), a half's scratchpad, or a core's operand buffer. -/
inductive Place where
  | mem
  | remote (package : Nat)
  | stack (key : Nat)
  | savedStack (block key : Nat)
  | scratch (block half : Nat)
  | buffer (core : Nat)
deriving DecidableEq, Repr, Inhabited

/-- An entry of a store queue (R254, R257). `release` is the scope of a store that is a release (R159, R161), and `after`
counts the bursts before it in program order that have not committed: a release covers their stores. -/
structure StoreEntry where
  place : Place
  addr : Nat
  bytes : List Byte
  release : Option Nat := none
  after : Nat := 0
deriving DecidableEq, Repr, Inhabited

/-- A release record at a home slice (R260): the location, the releasing core, caravan's block, scope and the sectors
that were dirty. `owed` are the bursts of a path (its caravan's number, path, bursts left) that the release covers and that have
not committed, and `remote` the stores of the core to other packages that were not acknowledged at the release (R361): an
acquire waits for both. -/
structure ReleaseRecord where
  size : Nat
  core : Nat
  block : Nat
  scope : Nat
  sectors : List Nat
  owed : Option (Nat × Nat × Nat) := none
  remote : List Nat := []
deriving DecidableEq, Repr, Inhabited

/-- A burst that runs (R74, R121): its entry, its position and repetition, and the effects held until it commits.
`deferred` is the word performed at the commit (R152), with the address or offset and the two values of each active lane
in `deferOps`, and `hits` the bound registers whose hit bits its commit sets (R59). -/
structure Burst where
  entry : LaneEntry
  pos : Nat
  rep : Nat
  regs : Tab LaneWord
  preds : Tab (Mask × Mask)
  latches : Tab (List LaneWord)
  pops : Tab Nat
  draws : Nat
  flags : BitVec 5
  stores : List StoreEntry
  deferred : Option Instr
  deferOps : Tab (Nat × Nat × Nat)
  posts : List (Nat × Nat × Nat × BitVec 4096)
  issued : Bool
  hits : List Nat := []
deriving DecidableEq, Repr, Inhabited

/-- A record of the divergence stack (R50, R99, R102). -/
inductive DivRec where
  | split (spc : Word) (em : Mask) (join : Word) (second : Bool)
  | callv (active : Mask) (ret : Word) (targets : List Word) (cur : Word)
deriving DecidableEq, Repr, Inhabited

/-- A PC-match handler that runs on a path (R424, R425). -/
structure HandlerRun where
  matched : Word
  count : Nat
deriving DecidableEq, Repr, Inhabited

/-- A path of a caravan (R36). `fences` are the fences that wait for bursts enqueued before them (bursts left, kind,
scope; R161, R162), `arrivals` the arrivals that are not counted yet (group, bursts left; R262), `arrived` the groups
that the path has arrived at in their current phase (R109), `awaiting` the group whose phase it waits for (R108, R113).
`stall` and `laneStall` are what the scalar stream and the burst wait for (R245), `passes` and `lanePasses` the pass
counts of the path as a candidate for the two slots of its quadrant (R244), `board` the scoreboard: for a register with a
pending write the local cycle of the write and the SPC of the load that makes it (R36, R88, R246), and `blamed` the
producer of the first pending source that the next instruction waits for. -/
structure Path where
  spc : Word
  em : Mask
  laneq : List LaneEntry
  burst : Option Burst
  recs : List DivRec
  stall : Option Stall
  pending : Option Trap
  token : Option Bool
  storeq : List StoreEntry
  relScope : Nat
  loaded : Tab (Nat × Tab ReleaseRecord)
  handler : Option HandlerRun
  matchDone : Bool
  fences : List (Nat × Nat × Nat)
  arrivals : List (Nat × Nat)
  arrived : List Nat
  awaiting : Option Nat := none
  laneStall : Option Stall := none
  passes : Nat := 0
  lanePasses : Nat := 0
  board : Tab (Nat × Word) := []
  blamed : Option Word := none
deriving DecidableEq, Repr, Inhabited

/-- A caravan's part in a capsule (R182, R183, R186, R188): the cell's physical address, the generation, the step, the
instructions executed in it, the buffered stores, the address of the record that holds an adopter's registers and the SPC
of its `capin`, and whether the caravan was descheduled. -/
structure CapRole where
  path : Nat
  cell : Nat
  generation : Nat
  step : Nat
  count : Nat
  guardLine : Option Nat
  buffer : List (Nat × Byte)
  adopter : Option Word
  descheduled : Bool
deriving DecidableEq, Repr, Inhabited

/-- How a caravan stands at its save point (R387): with the bitmaps of a `phint`, or with full state. -/
inductive SavePoint where
  | hints
  | full
deriving DecidableEq, Repr, Inhabited

/-- A caravan (R36 to R51). `starts` is the start count of its slot at its start (R177); `split` is the join target of its top-level split; `baseRecs` are the records pushed before
that split; `born` is the local cycle of its start (R243); `uid` names it among all caravans of a run. -/
structure Caravan where
  uid : Nat
  born : Nat
  starts : Nat
  block : Nat
  half : Nat
  index : Nat
  sregs : Tab Word
  lanes : Store 32
  lbud : Nat
  xm : Mask
  preds : Tab Mask
  queues : Tab (List (List LaneWord))
  fpm : Word
  drawctr : Word
  rkey : Word
  trapvec : Word
  trapcause : Word
  trapaddr : Word
  trappc : Word
  stklim : Word
  stkbase : Word
  wkcnt : Word
  paths : Tab Path
  split : Option Word
  baseRecs : List DivRec
  stack : Tab Byte
  sealCount : Nat
  openSet : List Nat
  batches : Tab (List Nat)
  engineFaults : List EngineFault
  matrixOutcomes : List MatrixOutcome
  capsule : Option CapRole
  notice : Option (Nat × Nat)
  orderedSeq : Nat
  hints : Option (Mask × Word)
  savePoint : Option SavePoint
  halted : Bool
  shadow : Tab Word
deriving DecidableEq, Repr, Inhabited

/-- A group-table entry (R57). -/
structure Group where
  members : BitVec 64
  partner : BitVec 64
  arr : BitVec 64
  partnerArr : BitVec 64
  arrived : Nat
  phase : Bool
  abandoned : Bool
deriving DecidableEq, Repr, Inhabited

/-- A completion barrier (R56). -/
structure Barrier where
  pending : Nat
  generation : Nat
  bias : Bool
  horizon : Bool
  poison : Bool
  pairAbort : Bool
deriving DecidableEq, Repr, Inhabited

/-- The fields of a launch packet (R232), in the form a node descriptor (R309) gives them too. -/
structure Packet where
  entry : Word
  det : Bool
  paired : Bool
  debug : Bool
  preempt : Bool
  phintReq : Bool
  pool : Bool
  lcodeBase : Word
  stack : Nat
  params : Word
  glist : Nat
  gcount : Nat
  prologue : Word
  stackBase : Word
  gridX : Nat
  gridY : Nat
  gridZ : Nat
  caravans : Nat
  regs8 : Nat
  scratch : Nat
  acc : Nat
  ob : Nat
  dune : Bool
  reservedSet : Bool
deriving DecidableEq, Repr, Inhabited

/-- One half of a block on its core (R237, R240): its scratchpad claim, register pool, claim queue and the slots of its
caravans by index. `laneUnits` are the lane registers reserved for it, in units of eight numbered 256 × quadrant + unit, and
`scratchUnits` the 4 KiB units of scratchpad (R49, R237). -/
structure Half where
  core : Nat
  slots : List Nat
  laneUnits : List Nat := []
  scratchUnits : List Nat := []
  scratch : Store 8
  scratchPoison : BitVec 64
  pool : Nat
  claims : List (Nat × Nat × Nat)
deriving DecidableEq, Repr, Inhabited

/-- What a launcher-started block keeps (R311, R313, R314, R321): its graph slot, node, depth and the record slots it
holds, its record list, whether it stands in its node's reserve, and the ranges of virtual addresses it has freed. -/
structure RecordBlock where
  graph : Nat
  node : Nat
  depth : Nat
  held : List Nat
  listAddr : Word
  count : Nat
  reserved : Bool
  freed : List (Nat × Nat)
deriving DecidableEq, Repr, Inhabited

/-- A block (R36, R237). -/
structure Block where
  launch : Nat
  ctx : Nat
  bid : Nat
  pk : Packet
  halves : List Half
  groups : List Group
  barriers : Tab Barrier
  live : Nat
  faulted : Option Nat
  record : Option RecordBlock
deriving DecidableEq, Repr, Inhabited

/-- What is told when a dispatch, run or command ends (R337, R352, R355). -/
inductive Completion where
  | nothing
  | signal (ctx : Nat) (addr : Word)
  | command (id : Nat)
  | entry (graph entry : Nat)
  | timer (die timer : Nat) (ctx : Nat) (addr : Word)
deriving DecidableEq, Repr, Inhabited

/-- A launch (R239): its blocks counted, the dies that take part, the dispatch it belongs to; `ordered` lists the
locations that received `.det` updates, with whether another access has left them undefined (R157, R272). -/
structure Launch where
  ctx : Nat
  pk : Packet
  dies : BitVec 4
  next : Nat
  total : Nat
  ended : Nat
  faulted : Option Nat
  home : Nat
  handle : Nat
  groups : List (BitVec 64)
  ordered : Tab Bool
deriving DecidableEq, Repr, Inhabited

/-- A dispatch operation (R344 to R347). -/
structure Dispatch where
  die : Nat
  ctx : Nat
  original : BitVec 512
  copy : BitVec 512
  dies : BitVec 4
  completion : Completion
  copyAt : Word
  stackTop : Word
  returnTo : Word
  stack : Tab Byte
  iteration : Nat
  marked : Bool
  launches : Nat
  hart : Option Nat
  instructions : Nat
  started : Nat
  launch : Option Nat
deriving DecidableEq, Repr, Inhabited

/-- A tile-table entry (R55). `lost` says that a store has reached its range while it was FILLING (R174). -/
structure Tile where
  owner : Nat
  block : Nat
  buffer : Bool
  state : Nat
  length : Nat
  offset : Nat
  lost : Bool := false
deriving DecidableEq, Repr, Inhabited

/-- The kinds of a copy-engine operation. -/
inductive CopyKind where
  | copy | fill (tile : Nat) | drain (tile : Nat)
deriving DecidableEq, Repr, Inhabited

/-- A copy-engine operation in flight (R164 to R173). `moved` numbers the bytes of it that have been written already. -/
structure CopyOp where
  kind : CopyKind
  order : Nat
  issuer : Nat
  caravan : Nat
  block : Nat
  ctx : Nat
  bar : Option Nat
  srcPlace : Place
  dstPlace : Place
  src : Nat
  dst : Nat
  len0 : Nat
  n1 : Nat
  n2 : Nat
  srcS1 : Int
  srcS2 : Int
  dstS1 : Int
  dstS2 : Int
  failed : Option (Nat × Nat × Word)
  done : Bool
  pc : Word := 0
  moved : List Nat := []
deriving DecidableEq, Repr, Inhabited

/-- An operand-buffer reservation record (R53). -/
structure ObRecord where
  base : Nat
  length : Nat
  fmt : Nat
  blkLen : Nat
  scaleOff : Nat
  bmpEn : Bool
  bmpOff : Nat
deriving DecidableEq, Repr, Inhabited

/-- The forms of a matrix-queue operation (R200). -/
inductive MatrixForm where
  | mma (bitmap pair : Bool)
  | zero
  | load
  | store
deriving DecidableEq, Repr, Inhabited

/-- An operation of the matrix queue, with the copied record and operation word (R198, R200), and the bursts of its path
that a `macc.ld` still waits for (R205). -/
structure MatrixOp where
  form : MatrixForm
  order : Nat
  issuer : Nat
  caravan : Nat
  block : Nat
  ctx : Nat
  bar : Nat
  tile : Nat
  group : Nat
  seq : Nat
  chunk : Nat
  bfmt : Nat
  bblk : Nat
  record : ObRecord
  path : Nat
  bursts : Nat
  addr : Word
  stride : Word
  passed : Nat
  cycles : Nat
  poison : Bool
  abort : Bool
  fault : Option (Nat × Nat × Word)
  pc : Word := 0
deriving DecidableEq, Repr, Inhabited

/-- A post of a B quarter (R195, R196). -/
structure Post where
  quad : Nat
  block : Nat
  caravan : Nat
  group : Nat
  seq : Nat
  data : BitVec 4096
deriving DecidableEq, Repr, Inhabited

/-- The matrix engine of a core (R52, R53, R200, R205, R207, R208). `slaved` names the leader of a pair operation that
runs on this engine (R202). -/
structure Matrix where
  acc : Store 32
  accPoison : BitVec 64
  ob : Store 8
  obPoison : BitVec 4096
  records : Tab ObRecord
  queue : List MatrixOp
  running : Option MatrixOp
  slaved : Option Nat
  posts : List Post
  counters : Tab Nat
  lastRow : BitVec 384
deriving DecidableEq, Repr, Inhabited

/-- The configuration of a dune array (R216). -/
structure DuneConfig where
  replay : Bool
  streamed : Bool
  order : List Nat
  stale : Nat
  beta : Nat
  key : Word
  timeout : Nat
  nbits : Nat
  stateOff : Nat
deriving DecidableEq, Repr, Inhabited

/-- A horizon entry: its source array and bit, and its version slots (R280). -/
structure HorizonEntry where
  source : Nat
  bit : Nat
  versions : Tab (Nat × Bool)
deriving DecidableEq, Repr, Inhabited

/-- A subscription in a publish list (R225): the entry of the array of a block, on its core or saved, with the context. -/
structure Subscription where
  core : Nat
  block : Nat
  entry : Nat
  bit : Nat
  ctx : Nat
deriving DecidableEq, Repr, Inhabited

/-- A horizon message in flight to an entry of the array of a block (R279, R280). -/
structure HorizonMessage where
  source : Nat
  core : Nat
  block : Nat
  entry : Nat
  reset : Bool
  version : Nat
  value : Bool
deriving DecidableEq, Repr, Inhabited

/-- The dune commands that enter the queue (R211). -/
inductive DuneForm where
  | config (c : DuneConfig)
  | load (addr : Word) (first count : Nat)
  | pairs (addr : Word)
  | stream (addr : Word) (fan : Nat)
  | bias (addr : Word) (first count : Nat)
  | clamp (addr : Word)
  | init (addr : Word)
  | link (valid : Bool) (bit core entry : Nat)
  | sweep (counted burn : Nat) (corr : Bool)
  | read (addr : Word) (sel : Nat)
  | clear (mask : Nat)
deriving DecidableEq, Repr, Inhabited

/-- A command of the dune queue with its issuer, its barrier, and the bursts of its path that its reads wait for (R213). -/
structure DuneCommand where
  form : DuneForm
  order : Nat
  issuer : Nat
  caravan : Nat
  bar : Nat
  path : Nat
  bursts : Nat
  pc : Word := 0
deriving DecidableEq, Repr, Inhabited

/-- How a running sweep is to end after its current sweep (R227). -/
inductive SweepEnd where
  | running
  | bias
  | horizon
  | error (code cause : Nat) (addr : Word)
deriving DecidableEq, Repr, Inhabited

/-- A `dsweep` that runs (R226): sweeps done, whether a phase is running or in horizon wait, the horizon values and the
streamed rows that the phase read, the ending. -/
structure Sweep where
  done : Nat
  inPhase : Bool
  waiting : Bool
  hvals : Tab Bool
  rows : List Nat
  ending : SweepEnd
deriving DecidableEq, Repr, Inhabited

/-- The open window of one witness bit: samples, +1 count, agreements, last sample (R284, R285). -/
structure Witness where
  ones : Nat
  agree : Nat
  last : Bool
  closedOnes : Nat
  closedAgree : Nat
deriving DecidableEq, Repr, Inhabited

/-- A dune array (R60, R211, R212, R220, R227, R284 to R286). `publication` lists the bits of a phase whose updates stand and
whose publication is not made yet (R227), `failed` the witness bit and counts of a window that failed, until the sweep in which
it closed completes (R287). `broken` says that its generator fails (R286), and `toClear` that the calibration in progress is one of
an ARRAY_CLEAR (R413). -/
structure Dune where
  states : Store 1
  couplings : Tab (BitVec 32)
  bias : Tab (BitVec 16)
  clampMask : BitVec 1024
  clampVal : BitVec 1024
  colours : Tab Nat
  counts : Tab Nat
  pairCounts : Tab Nat
  pairs : Tab (BitVec 32)
  horizon : Tab HorizonEntry
  config : DuneConfig
  issueStreamed : Bool
  issueReplay : Bool
  issueNbits : Nat
  rowBase : Word
  fan : Nat
  sweeps : Nat
  phase : Nat
  lost : Bool
  queue : List DuneCommand
  sweep : Option Sweep
  publication : Option (List Nat)
  waitCount : Nat
  samples : Nat
  witness : Tab Witness
  testPhases : Nat
  testDue : Bool
  snapCounts : Tab Nat
  snapPairs : Tab Nat
  publish : List Subscription
  calibrating : Option Nat
  toClear : Bool := false
  failed : Option (Nat × Nat × Nat) := none
  broken : Bool := false
deriving DecidableEq, Repr, Inhabited

/-- A sector held in an L1: its bytes, the valid and the dirty ones, and its poison (R254, R405). -/
structure L1Sector where
  data : BitVec 512
  valid : BitVec 64
  dirty : BitVec 64
  poison : Bool
deriving DecidableEq, Repr, Inhabited

/-- A cached translation of a page (R374): the page's address, size, permissions and place. -/
structure Translation where
  ctx : Nat
  size : Nat
  base : Nat
  readable : Bool
  writable : Bool
  executable : Bool
  package : Option Nat
  localDie : Option Nat
deriving DecidableEq, Repr, Inhabited

/-- A page walk that a core waits for, or a page service in progress (R374): its number in the order of requests, and the
paths (2 × caravan key + path) whose accesses wait for it. -/
structure Walk where
  ctx : Nat
  page : Nat
  entry : Nat
  service : Option Nat
  result : Option (Nat × Nat)
  seq : Nat := 0
  waiters : List Nat := []
deriving DecidableEq, Repr, Inhabited

/-- An ordered update (R268 to R270): its launch, issuer index, address, home slice, value and controls, whether its unit
holds it, and whether its unit has refused or displaced it. -/
structure OrderedUpdate where
  launch : Nat
  bid : Nat
  car : Nat
  lane : Nat
  seq : Nat
  addr : Nat
  value : BitVec 32
  fsat : Bool
  slice : Nat
  held : Bool
  refused : Bool
deriving DecidableEq, Repr, Inhabited

/-- Stall sampling on a core (R426). -/
structure Sampling where
  ctx : Nat
  buffer : Word
  bytes : Nat
  n : Nat
  turns : Tab Nat
deriving DecidableEq, Repr, Inhabited

/-- A core (R36, R58, R177, R269, R386, R424). `boundCtx` is the context whose bound registers `bndv` and `bndc` are, and
`boundsOf` keeps those of the other contexts that have run on the core (R58). `laneCtx`, `scratchCtx`, `accCtx` and `obCtx`
name, for each unit of storage, the context of the block that claimed it last (R49). -/
structure Core where
  bndv : Tab Word
  bndc : Tab Word
  boundCtx : Nat
  boundsOf : Tab (Tab Word × Tab Word)
  tiles : Tab Tile
  copies : List CopyOp
  mat : Matrix
  dune : Dune
  l1 : Tab L1Sector
  tlb : Tab Translation
  walks : List Walk
  scode : Tab (BitVec 32)
  lcode : Tab (BitVec 96)
  starts : Tab Nat
  ports : Tab (List OrderedUpdate)
  notices : Tab (Nat × Nat × Nat)
  laneCtx : Tab Nat
  scratchCtx : Tab Nat
  accCtx : Tab Nat
  obCtx : Tab Nat
  request : Option Nat
  matchTab : Tab (Word × Word)
  sampling : Option Sampling
deriving DecidableEq, Repr, Inhabited

/-- A timer of a die's wheel (R354, R355): whether it is armed, its counts of fires and misses, and whether the launch it
last fired is still in progress. -/
structure Timer where
  armed : Bool
  fires : Nat
  misses : Nat
  ctx : Nat
  packet : Word
  dies : BitVec 4
  deadline : Nat
  period : Option Nat
  status : Word
  signal : Word
  busy : Bool
deriving DecidableEq, Repr, Inhabited

/-- The firmware's registers while its core runs a prologue (DESIGN CHOICE, log entry 43). -/
structure Firmware where
  xregs : Tab Word
  pc : Word
  fctx : Nat
deriving DecidableEq, Repr, Inhabited

/-- A front-end core (R339): general registers, pc, mode, `fctx`, the trap CSRs, the other CSRs by their numbers, the
reservation of a load-reserve with the bytes it read, and the firmware that a prologue interrupts. -/
structure Hart where
  xregs : Tab Word
  pc : Word
  machineMode : Bool
  fctx : Nat
  csrs : Tab Word
  reserved : Option (Word × Nat × Nat)
  firmware : Option Firmware
  mepc : Word
  mcause : Word
  mtval : Word
  mtvec : Word
  dispatch : Option Nat
  waiting : Bool
  waitExt : Bool
deriving DecidableEq, Repr, Inhabited

/-- A die: its clock, allowance, distributor, front end, timers, watchdog, trail and temperature. `acts` keeps, for the agents that
act at most once in a local cycle (0 the distributor, R239; 1 the timer wheel, R355; 2 the cumulus launcher, R324), the cycle after
that of their last act. -/
structure Die where
  cyc : Nat
  acts : Tab Nat
  allowance : Nat
  steps : Nat
  temperature : Nat
  pending : List Nat
  turn : Nat
  passes : Tab Nat
  queueSlots : Tab Nat
  slotSince : Tab Nat
  waitingQueues : List Nat
  interval : Nat
  mapChange : Option (Nat × Nat × Nat)
  dispatches : Tab Dispatch
  nextHandle : Nat
  timers : Tab Timer
  harts : Tab Hart
  localMem : Tab Byte
  watch : Tab Nat
  reports : List Nat
  trail : Tab (BitVec 128)
  trailCount : Nat
deriving DecidableEq, Repr, Inhabited

/-- A slot state of a record pool (R312). -/
inductive SlotState where
  | free | counting | pending | held
deriving DecidableEq, Repr, Inhabited

/-- A record slot with its hidden values (R312, R319), the cycle its commit was learned and the join count left. `owed` are the
bursts of paths (the caravan's number, path, bursts left) that its emits cover as releases and that have not committed (R87, R320). -/
structure RecordSlot where
  state : SlotState
  key : Nat
  depth : Nat
  count : Nat
  since : Nat
  owed : List (Nat × Nat × Nat) := []
deriving DecidableEq, Repr, Inhabited

/-- An emit that waits for a FREE slot (R318, R319, R324): its path, its target word and its payload. -/
structure Emit where
  path : Nat
  target : Nat
  payload : Nat
deriving DecidableEq, Repr, Inhabited

/-- What a served emit gives its instruction: the value of `sd`, or a fault (R317, R319). -/
inductive EmitResult where
  | done (value : Nat)
  | fault (code cause : Nat) (addr : Word)
deriving DecidableEq, Repr, Inhabited

/-- A node of a running graph (R311, R312, R323). -/
structure Node where
  pool : Tab RecordSlot
  commits : Nat
  started : Nat
  reserve : Nat
  reserveBusy : Bool
  waiters : List Emit
  served : List (Nat × EmitResult)
deriving DecidableEq, Repr, Inhabited

/-- A stage-graph run (R311 to R327). -/
structure GraphRun where
  begun : Bool
  completions : List Completion
  nodes : Tab Node
  committed : Nat
  blocks : Nat
  partials : Nat
  fulls : Nat
  faulted : Option Nat
  seedFail : Option Nat
  entries : Tab Nat
  dispatched : Nat
  home : Nat
deriving DecidableEq, Repr, Inhabited

/-- A trigger of a graph slot (R351, R352): its value, the commands it completes and the front end that took it. -/
structure Trigger where
  value : Word
  completions : List Completion
  home : Nat
deriving DecidableEq, Repr, Inhabited

/-- A graph slot (R349 to R352): stage graph or launch graph, its context, descriptor bytes (a stage graph's group lists
after them) and upload signal, the trigger due to start, the run in progress and the pending trigger. -/
structure GraphSlot where
  stage : Bool
  ctx : Nat
  desc : List Byte
  signal : Word
  due : Option Trigger
  run : Option GraphRun
  pending : Option Trigger
deriving DecidableEq, Repr, Inhabited

/-- A queue as its front end has mapped it (R333 to R338). -/
structure Queue where
  head : Nat
  tail : Nat
  mapped : Option Nat
  held : Option Command
  open_ : List Nat
deriving DecidableEq, Repr, Inhabited

/-- A command that has issued and not completed (R335). -/
structure OpenCommand where
  queue : Nat
  ctx : Nat
  die : Nat
  command : Command
deriving DecidableEq, Repr, Inhabited

/-- A context (R368), its fault-log size (R385), whether it holds the debug right (R421), whether its watchdog has fired in
host-assisted mode (R397), and the fault-log records that wait for room, by what waits for them (R385). -/
structure Context where
  vector : Nat
  flog : Nat
  free : Nat
  save : Nat
  root : Nat
  modes : BitVec 5
  logN : Nat
  debug : Bool
  fired : Bool
  waiting : List (Nat × List Word)
deriving DecidableEq, Repr, Inhabited

/-- A saved block (R389 to R392): the block, its caravans by place, and by core its matrix engine, its dune array, its tiles, its
posts and the records of its copies that have ended; `spoiled` when its context has stored into the save area (R370). -/
structure SavedBlock where
  block : Block
  caravans : Tab Caravan
  mats : Tab Matrix
  dunes : Tab Dune
  tiles : Tab (Tab Tile)
  posts : Tab (List Post) := []
  copies : Tab (List CopyOp) := []
  spoiled : Bool := false
deriving DecidableEq, Repr, Inhabited

/-- An outgoing message (R360, R363, R364): its kind (0 data, 2 contribution, 3 result), the bytes of one element that its
offsets count, its port, the offsets acknowledged, whether its receiver's backlog was full, its command, and in local cycles
of its port's die when it left first and when each fragment was sent last or answered by a full backlog. -/
structure Message where
  kind : Nat
  unit : Nat
  dst : Nat
  tag : Nat
  seq : Nat
  total : Nat
  data : List Byte
  port : Nat
  acked : List Nat
  held : Bool
  command : Nat
  since : Nat := 0
  last : Tab Nat := []
deriving DecidableEq, Repr, Inhabited

/-- A posted receive (R363). -/
structure Receive where
  ctx : Nat
  buffer : Word
  limit : Nat
  src : Nat
  tag : Nat
  command : Nat
deriving DecidableEq, Repr, Inhabited

/-- A message that arrives, with the fragments accepted so far by their offsets (R360), and whether it has been delivered; a
delivered one keeps its offsets without their bytes. `port` and `since` are the port and the local cycle of its die at which its
first fragment came. -/
structure Arrival where
  kind : Nat
  src : Nat
  tag : Nat
  seq : Nat
  total : Nat
  parts : Tab (List Byte)
  delivered : Bool
  port : Nat := 0
  since : Nat := 0
deriving DecidableEq, Repr, Inhabited

/-- A collective in progress (R364, R365), with its number in its communicator's order, this rank's wire values, its residual buffer
where it has one, and whether its result is written here. -/
structure Collective where
  command : Nat
  ctx : Nat
  buffer : Word
  count : Nat
  fmt : Nat
  op : Nat
  ranks : List Nat
  own : Nat
  number : Nat
  wire : List Nat
  residual : Option Word := none
  written : Bool := false
deriving DecidableEq, Repr, Inhabited

/-- A request to another package that is outstanding, answered with the values of an undefined value's number, or failed
(R361, R362). `path` is 2 × caravan key + path, or a number of an engine or of the front end beyond those, and `since` the local
cycle of its port's die at which it left. -/
structure Outstanding where
  path : Nat
  port : Nat
  package : Nat
  addr : Nat
  write : Bool
  failed : Bool
  answer : Option Nat
  since : Nat := 0
deriving DecidableEq, Repr, Inhabited

/-- Netin (R359 to R365): the settings of the driver (package number, system byte, ports in message mode, ports limited to
standard frames, the VLAN identifier and priority of a port), and its traffic. `reply` is what the last request of another
package was answered: whether with poison, and the bytes. -/
structure Netin where
  package : Nat
  system : Nat
  messageMode : BitVec 16
  limited : BitVec 16
  vlan : Tab (Nat × Nat)
  failedPorts : BitVec 16
  nextSeq : Tab Nat
  sends : Tab Message
  receives : List Receive
  arrivals : List Arrival
  fullTold : List (Nat × Nat)
  collectives : List Collective
  collNumber : Tab Nat
  outstanding : Tab Outstanding
  sent : List (Nat × Frame)
  reply : Option (Bool × List Byte)
deriving DecidableEq, Repr, Inhabited

/-- The health record of an array (R412). -/
structure Health where
  state : Nat
  events : Nat
  sweep : Nat
  ones : Nat
  agree : Nat
deriving DecidableEq, Repr, Inhabited

/-- A restripe in progress (R411): the bank dropped and the first region not yet moved. -/
structure Restripe where
  bank : Nat
  rsb : Nat
deriving DecidableEq, Repr, Inhabited

/-- What power and resets keep (R415, R417): flash and fuses. An image is named by the number of the update that wrote it and
its bytes; the image 0 is the one delivered. -/
structure Flash where
  health : Tab Health
  dropped : Tab (List Nat)
  image : Nat × Nat
  pendingImage : Option (Nat × Nat)
  rollback : Nat
deriving DecidableEq, Repr, Inhabited

/-- The BAR0 registers and the driver's side of the device (R330 to R334). `refused` says that the boot ROM has not run the firmware
image, so that `ready` is never set (R417). -/
structure Bar where
  featEn : BitVec 256
  enabled : Bool
  ready : Bool
  featErr : Bool
  fatal : Bool
  refused : Bool := false
  qtab : Word
  pwrSet : Nat
  pwrSts : Word
  lostTriggers : BitVec 16
  msix : Tab Byte
  msixPending : BitVec 256
  vectorsSent : List Nat
deriving DecidableEq, Repr, Inhabited

/-- An entry of the order log (R428): a sector, the caravan's tag and its `wkcnt`, or a logged value. -/
structure LogEntry where
  sector : Nat
  tag : Nat
  wkcnt : Nat
  value : Option Nat
deriving DecidableEq, Repr, Inhabited

/-- A checkpoint of a recording (R428): the caravans, blocks, launch, engines and memory as they stood. -/
structure Checkpoint where
  number : Nat
  caravans : Tab Caravan
  blocks : Tab Block
  saved : Tab SavedBlock
  launches : Tab Launch
  cores : Tab Core
  mem : List Host.Cell
  logAt : Nat
deriving DecidableEq, Repr, Inhabited

/-- A recording of a dispatch (R428). -/
structure Recording where
  handle : Nat
  k : Nat
  nextAt : Nat
  taken : Nat
  checkpoints : List Checkpoint
  log : List LogEntry
deriving DecidableEq, Repr, Inhabited

/-- A precise stop in progress (R427, R428): its dispatch, the tag of its request, the counts at which caravans stop, and the
log still to be followed. -/
structure Replay where
  handle : Nat
  request : BitVec 16
  goals : Tab Nat
  log : List LogEntry
deriving DecidableEq, Repr, Inhabited

/-- The debug unit (R421 to R429): edits of saved items, recordings, a precise stop. -/
structure Debug where
  edits : List (Nat × Nat × List Byte)
  recordings : Tab Recording
  replay : Option Replay
deriving DecidableEq, Repr, Inhabited

/-- A response of the mailbox (R419) or of the identity protocol (R418). -/
structure Response where
  command : Nat
  tag : Nat
  status : Nat
  data : List Nat
deriving DecidableEq, Repr, Inhabited

/-- The agent that executes an instruction word. -/
inductive Agent where
  | idle
  | path (core slot path : Nat)
  | hart (die hart : Nat)
deriving DecidableEq, Repr, Inhabited

/-- What the driver sets of Netin (R359 to R361): the number of its package, the system byte, a port's mode, its limit to standard
frames, and its VLAN identifier and priority. -/
inductive NetinSetting where
  | package (p : Nat)
  | system (v : Nat)
  | mode (port : Nat) (message : Bool)
  | limit (port : Nat) (standard : Bool)
  | vlan (port : Nat) (tag : Option (Nat × Nat))
deriving DecidableEq, Repr, Inhabited

/-- What happens next: a path executes its next scalar word, a quadrant's lane slot its next lane word, a front-end core
its next word, a front end the next command of a queue; an event, command or request comes about; a local cycle of a
die passes; the oldest store of a path's store queue is performed; a copy-engine operation moves some of its bytes; a storage
error is found; the driver sets an item of Netin; a quadrant is sampled. -/
inductive Turn where
  | path (core slot path : Nat)
  | lane (core slot path : Nat)
  | hart (die hart : Nat)
  | queue (q : Nat)
  | event (i : Instr)
  | tick (die : Nat)
  | storeDrain (core slot path : Nat)
  | copyProgress (core id : Nat)
  | storageError (kind core index : Nat)
  | netinSetting (x : NetinSetting)
  | sample (core quad : Nat)
deriving DecidableEq, Repr, Inhabited

/-- A write performed at the home of a byte, or the clearing of all memory by a reset (R415). -/
inductive HomeWrite where
  | byte (addr : Nat) (value : Byte)
  | zero (addr count : Nat)
  | clear
deriving DecidableEq, Repr, Inhabited

/-- The state of the package. `mem` is the home memory as it stood before the step in progress and `writes` the home
writes of that step, newest first (DESIGN CHOICE, log entry 31); `free` numbers the undefined values drawn so far; `agenda` lists what
is known to happen next, and `sched` numbers the choices taken where the agenda is empty. `badBanks` are the failed banks
(stack, bank) whose repair has not started (R410), `clearing` the ARRAY_CLEAR requests that wait for a calibration, by core
(R413), `mailWaiting` the mailbox requests that have arrived and wait for the one in progress, oldest first (R419), and `scrubbed`
the sectors corrected in the current scrub passes (R406). -/
structure State where
  focus : Agent
  agenda : List Turn
  sched : Nat
  free : Nat
  nextUid : Nat
  mem : List Host.Cell
  writes : List HomeWrite
  poison : Tab Bool
  releases : Tab ReleaseRecord
  pairLines : Tab Nat
  tracked : Tab (List OrderedUpdate)
  capWaiters : Tab (List Nat)
  cells : List Nat
  cores : Tab Core
  caravans : Tab Caravan
  blocks : Tab Block
  launches : Tab Launch
  saved : Tab SavedBlock
  dies : Tab Die
  contexts : Tab Context
  queues : Tab Queue
  commands : Tab OpenCommand
  graphs : Tab GraphSlot
  horizonMsgs : List HorizonMessage
  bar : Bar
  netin : Netin
  flash : Flash
  restripes : Tab Restripe
  badBanks : List (Nat × Nat)
  clearing : Tab (BitVec 16)
  scrubbed : List Nat
  boot : Nat
  monitor : Debug
  mailbox : List Response
  mailWaiting : List Instr
  spdm : List Response
  hostReads : List Byte
deriving DecidableEq, Repr, Inhabited

/-- A dune array configuration at array claim (R60): physical mode, β 0, key 0, S 0, timeout 0, order (0). -/
def DuneConfig.reset : DuneConfig :=
  { replay := false, streamed := false, order := [0], stale := 0, beta := 0, key := 0, timeout := 0, nbits := 0,
    stateOff := 0 }

/-- A dune array as R60 gives it at array claim, with empty witness windows and publish list. The row base address and the fan-in
of streamed mode before any `dstream` are 0 (DESIGN CHOICE, log entry 51: the spec gives them no value at claim). -/
def Dune.reset : Dune :=
  { states := ⟨.free 0, []⟩, couplings := [], bias := [], clampMask := 0, clampVal := 0, colours := [], counts := [],
    pairCounts := [], pairs := [], horizon := [], config := DuneConfig.reset, issueStreamed := false,
    issueReplay := false, issueNbits := 0, rowBase := 0, fan := 0, sweeps := 0, phase := 0, lost := false, queue := [],
    sweep := none, publication := none, waitCount := 0, samples := 0, witness := [], testPhases := 0, testDue := false,
    snapCounts := [], snapPairs := [], publish := [], calibrating := none }

/-- A matrix engine after reset (R49, R53, R207, R208). -/
def Matrix.reset : Matrix :=
  { acc := ⟨.free 1, []⟩, accPoison := 0, ob := ⟨.free 2, []⟩, obPoison := 0, records := [], queue := [],
    running := none, slaved := none, posts := [], counters := [], lastRow := 0 }

/-- A core after reset: its dune array is being calibrated (R277). -/
def Core.reset : Core :=
  { bndv := [], bndc := [], boundCtx := 0, boundsOf := [], tiles := [], copies := [], mat := Matrix.reset, dune := { Dune.reset with calibrating := some 0 }, l1 := [], tlb := [],
    walks := [], scode := [], lcode := [], starts := [], ports := [], notices := [], laneCtx := [], scratchCtx := [], accCtx := [], obCtx := [],
    request := none, matchTab := [], sampling := none }

/-- A front-end core after reset (PRESUMED, log entry 9). -/
def Hart.reset : Hart :=
  { xregs := [], pc := 0, machineMode := true, fctx := 0, csrs := [], reserved := none, firmware := none, mepc := 0, mcause := 0, mtval := 0, mtvec := 0,
    dispatch := none, waiting := false, waitExt := false }

/-- A die after reset (R209, R331, R414, R415): the allowance holds its full capacity. -/
def Die.reset : Die :=
  { cyc := 0, acts := [], allowance := Config.capacity, steps := 0, temperature := 0, pending := [], turn := 0, passes := [],
    queueSlots := [], slotSince := [], waitingQueues := [], interval := 0, mapChange := none, dispatches := [],
    nextHandle := 1, timers := [], harts := [], localMem := [], watch := [], reports := [], trail := [],
    trailCount := 0 }

/-- The registers of BAR0 after reset (R330). -/
def Bar.reset : Bar :=
  { featEn := 0, enabled := false, ready := false, featErr := false, fatal := false, qtab := 0, pwrSet := 48,
    pwrSts := 0, lostTriggers := 0, msix := [], msixPending := 0, vectorsSent := [] }

/-- Netin after reset (DESIGN CHOICE, log entry 11). -/
def Netin.reset : Netin :=
  { package := 0, system := 0, messageMode := BitVec.allOnes 16, limited := 0, vlan := [], failedPorts := 0, nextSeq := [],
    sends := [], receives := [], arrivals := [], fullTold := [], collectives := [], collNumber := [], outstanding := [],
    sent := [], reply := none }

/-- Flash and fuses as delivered (DESIGN CHOICE, log entries 6 and 12). -/
def Flash.reset : Flash :=
  { health := [], dropped := [], image := (0, 0), pendingImage := none, rollback := 0 }

/-- The machine right after a cold reset (R415). -/
def State.reset : State :=
  { focus := .idle, agenda := [], sched := 0, free := 3, nextUid := 1, mem := [], writes := [], poison := [],
    releases := [], pairLines := [], tracked := [], capWaiters := [], cells := [], cores := [], caravans := [], blocks := [],
    launches := [], saved := [], dies := [], contexts := [], queues := [], commands := [], graphs := [],
    horizonMsgs := [], bar := Bar.reset, netin := Netin.reset, flash := Flash.reset, restripes := [], badBanks := [], clearing := [], scrubbed := [],
    boot := 0, monitor := ⟨[], [], none⟩, mailbox := [], mailWaiting := [], spdm := [], hostReads := [] }

end Sys2Proof.Machine
end

