-- ==== Sys2Proof/Machine/Access.lean ====
section
/-!
DEFINITION. Access to the parts of the state by name, the numbering of places, and fault codes.
-/

namespace Sys2Proof.Machine

/-! ### Places -/

/-- The die of a core (R319). -/
def coreDie (n : Nat) : Nat := n / 48

/-- The column of a core on its die. -/
def coreX (n : Nat) : Nat := n % 48 % 8

/-- The row of a core on its die. -/
def coreY (n : Nat) : Nat := n % 48 / 8

/-- The core (x xor 1, y) of the same die (R76, R149). -/
def pairPartner (n : Nat) : Nat := if n % 2 = 0 then n + 1 else n - 1

/-- The quadrant of a caravan slot. -/
def slotQuad (slot : Nat) : Nat := slot / 16

/-- The key of a caravan: 64 × core + slot (R241). -/
def carKey (core slot : Nat) : Nat := core * 64 + slot

/-- The `cid` image of a caravan (R48). -/
def cidOf (core slot : Nat) : Nat := slot + 64 * coreX core + 512 * coreY core + 4096 * coreDie core

/-! ### Fault codes (R384) -/

/-- ILLEGAL_OP. -/
def codeIllegal : Nat := 1
/-- LATCH_INVALID. -/
def codeLatch : Nat := 2
/-- MISALIGNED. -/
def codeMisaligned : Nat := 3
/-- PAGE_FAULT. -/
def codePageFault : Nat := 4
/-- PROTECTION. -/
def codeProtection : Nat := 5
/-- SCRATCH_RANGE. -/
def codeScratch : Nat := 6
/-- TILE_STATE. -/
def codeTile : Nat := 7
/-- OB_FORMAT. -/
def codeObFormat : Nat := 8
/-- ACC_RANGE. -/
def codeAccRange : Nat := 9
/-- BOUND_TRAP. -/
def codeBound : Nat := 10
/-- CALL_BUDGET. -/
def codeCallBudget : Nat := 11
/-- STACK_LIMIT. -/
def codeStackLimit : Nat := 12
/-- CLAIM_DEADLOCK. -/
def codeClaimDeadlock : Nat := 13
/-- CAPSULE_LIMIT. -/
def codeCapsuleLimit : Nat := 14
/-- CAPSULE_SCOPE. -/
def codeCapsuleScope : Nat := 15
/-- POOL_STALL. -/
def codePoolStall : Nat := 16
/-- REC_DEPTH. -/
def codeRecDepth : Nat := 17
/-- JOIN_UNDERFLOW. -/
def codeJoinUnderflow : Nat := 18
/-- DUNE_BIAS. -/
def codeDuneBias : Nat := 19
/-- HORIZON_LOST. -/
def codeHorizonLost : Nat := 20
/-- DUNE_CONFIG. -/
def codeDuneConfig : Nat := 21
/-- POISON. -/
def codePoison : Nat := 22
/-- WATCHDOG. -/
def codeWatchdog : Nat := 23
/-- PAIR_ABORT. -/
def codePairAbort : Nat := 24
/-- PROLOGUE_FAULT. -/
def codePrologue : Nat := 25
/-- A breakpoint. -/
def codeBreak : Nat := 0x3e
/-- A software trap. -/
def codeSoftware : Nat := 0x3f

/-- Whether a fault never goes to the in-context handler (R384). -/
def terminal (code : Nat) : Bool := code = codePoison || code = codeWatchdog

/-! ### Parts of the state -/

/-- A core. -/
def State.core (s : State) (n : Nat) : Core := Tab.getD s.cores n Core.reset

/-- The state with a core replaced. -/
def State.setCore (s : State) (n : Nat) (c : Core) : State := { s with cores := Tab.set s.cores n c }

/-- The state with a core changed. -/
def State.modCore (s : State) (n : Nat) (f : Core → Core) : State := s.setCore n (f (s.core n))

/-- The state with the matrix engine of a core changed. -/
def State.modMatrix (s : State) (n : Nat) (f : Matrix → Matrix) : State := s.modCore n (fun c => { c with mat := f c.mat })

/-- The state with the dune array of a core changed. -/
def State.modDune (s : State) (n : Nat) (f : Dune → Dune) : State := s.modCore n (fun c => { c with dune := f c.dune })

/-- A die. -/
def State.die (s : State) (d : Nat) : Die := Tab.getD s.dies d Die.reset

/-- The state with a die changed. -/
def State.modDie (s : State) (d : Nat) (f : Die → Die) : State := { s with dies := Tab.set s.dies d (f (s.die d)) }

/-- A caravan. -/
def State.caravan? (s : State) (k : Nat) : Option Caravan := Tab.get? s.caravans k

/-- The state with a caravan set. -/
def State.setCaravan (s : State) (k : Nat) (c : Caravan) : State := { s with caravans := Tab.set s.caravans k c }

/-- The state with a caravan changed. -/
def State.modCaravan (s : State) (k : Nat) (f : Caravan → Caravan) : State :=
  { s with caravans := Tab.modify s.caravans k f }

/-- The state with a path of a caravan changed. -/
def State.modPath (s : State) (k p : Nat) (f : Path → Path) : State :=
  s.modCaravan k (fun c => { c with paths := Tab.modify c.paths p f })

/-- The state with a block changed. -/
def State.modBlock (s : State) (b : Nat) (f : Block → Block) : State := { s with blocks := Tab.modify s.blocks b f }

/-- The state with a half of a block changed. -/
def State.modHalf (s : State) (b h : Nat) (f : Half → Half) : State :=
  s.modBlock b (fun x => { x with halves := x.halves.mapIdx (fun i y => if i = h then f y else y) })

/-- The state with a launch changed. -/
def State.modLaunch (s : State) (l : Nat) (f : Launch → Launch) : State :=
  { s with launches := Tab.modify s.launches l f }

/-- The state with a context changed. -/
def State.modContext (s : State) (c : Nat) (f : Context → Context) : State :=
  { s with contexts := Tab.modify s.contexts c f }

/-- The state with a graph slot changed. -/
def State.modGraph (s : State) (g : Nat) (f : GraphSlot → GraphSlot) : State :=
  { s with graphs := Tab.modify s.graphs g f }

/-- The state with the run of a graph slot changed. -/
def State.modRun (s : State) (g : Nat) (f : GraphRun → GraphRun) : State :=
  s.modGraph g (fun x => { x with run := x.run.map f })

/-- The state with a node of a run changed. -/
def State.modNode (s : State) (g n : Nat) (f : Node → Node) : State :=
  s.modRun g (fun r => { r with nodes := Tab.modify r.nodes n f })

/-- The state with Netin changed. -/
def State.modNetin (s : State) (f : Netin → Netin) : State := { s with netin := f s.netin }

/-- A half of a block. -/
def Block.half? (b : Block) (h : Nat) : Option Half := b.halves[h]?

/-- The caravan keys of a block, by half and index. -/
def Block.caravanKeys (b : Block) : List Nat :=
  b.halves.foldr (fun h ks => h.slots.map (carKey h.core) ++ ks) []

/-- The scratch claim of a block in bytes (R146, R237). -/
def Block.scratchBytes (b : Block) : Nat := 4096 * b.pk.scratch

/-- Scalar register n: `s0` reads as zero (R38). -/
def Caravan.sreg (c : Caravan) (n : Nat) : Word := if n = 0 then 0 else Tab.getD c.sregs n 0

/-- A write of scalar register n; a write to `s0` is discarded (R38). -/
def Caravan.setSreg (c : Caravan) (n : Nat) (v : Word) : Caravan :=
  if n = 0 then c else { c with sregs := Tab.set c.sregs n v }

/-- Predicate n: `p0` reads as one in every lane (R40). -/
def Caravan.pred (c : Caravan) (n : Nat) : Mask := if n = 0 then 0xffffffff else Tab.getD c.preds n 0

/-- A lane of a lane register (R39). -/
def Caravan.lane (c : Caravan) (reg l : Nat) : LaneWord := c.lanes.read (reg * 32 + l)

/-- The tag of the caravan in a slot (R177). -/
def State.tagOf (s : State) (key : Nat) : Nat :=
  let starts := match s.caravan? key with
    | some c => c.starts
    | none => Tab.getD (s.core (key / 64)).starts (key % 64) 0
  cidOf (key / 64) (key % 64) + starts % 2 ^ 18 * 2 ^ 14

/-- The bytes of the stack of a caravan (R233). -/
def Block.stackBytes (b : Block) : Nat := 256 * b.pk.stack

/-- Entries on the divergence stack of a caravan, with an adopter's record (R48, R50, R188). -/
def Caravan.depth (c : Caravan) : Nat :=
  c.baseRecs.length + (c.paths.map (fun p => p.2.recs.length)).sum
    + (match c.capsule with
        | some r => if r.adopter.isSome then 1 else 0
        | none => 0)

/-- Stack memory that the records of a caravan take below `s61`: 32 bytes a split, 160 a `callv`, 128 an adoption. -/
def Caravan.recordBytes (c : Caravan) : Nat :=
  let size := fun r : DivRec =>
    match r with
    | .split _ _ _ _ => 32
    | .callv _ _ _ _ => 160
  (c.baseRecs.map size).sum + (c.paths.map (fun p => (p.2.recs.map size).sum)).sum
    + (match c.capsule with
        | some r => if r.adopter.isSome then 128 else 0
        | none => 0)

/-- A number for a new block, launch, operation or caravan (DESIGN CHOICE, log entry 14). -/
def State.fresh (s : State) : Nat × State := (s.nextUid, { s with nextUid := s.nextUid + 1 })

/-- A choice the spec leaves open, and the state that has taken it. -/
def State.choose (s : State) : Nat × State := (Config.choice s.free, { s with free := s.free + 1 })

/-- The free capacity of the copy engine is 64 operations (R167). -/
def Core.copiesFull (c : Core) : Bool := (c.copies.filter (fun o => !o.done)).length ≥ 64

/-- A barrier of a block. -/
def Block.barrier (b : Block) (n : Nat) : Barrier := Tab.getD b.barriers n ⟨0, 0, false, false, false, false⟩

/-- The state with a barrier of a block changed. -/
def State.modBarrier (s : State) (b n : Nat) (f : Barrier → Barrier) : State :=
  s.modBlock b (fun x => { x with barriers := Tab.set x.barriers n (f (x.barrier n)) })

/-- The 32-bit image of a barrier (R56). -/
def Barrier.image (b : Barrier) : Nat :=
  b.pending + 2 ^ 16 * (b.generation % 16) + 2 ^ 20 * b.bias.toNat + 2 ^ 21 * b.horizon.toNat
    + 2 ^ 22 * b.poison.toNat + 2 ^ 23 * b.pairAbort.toNat

/-- A barrier with its status bits cleared (R110). -/
def Barrier.clear (b : Barrier) : Barrier := { b with bias := false, horizon := false, poison := false, pairAbort := false }

/-- A command counted on a barrier (R56). -/
def Barrier.count (b : Barrier) : Barrier := { b with pending := b.pending + 1 }

/-- A command of a barrier completed, with the status bits it accrues (R56). -/
def Barrier.complete (b : Barrier) (bias horizon poison abort : Bool) : Barrier :=
  { pending := b.pending - 1,
    generation := if b.pending = 1 then (b.generation + 1) % 16 else b.generation,
    bias := b.bias || bias, horizon := b.horizon || horizon, poison := b.poison || poison,
    pairAbort := b.pairAbort || abort }

/-! ### Tiles -/

/-- The tile states of R55. -/
def tileEmpty : Nat := 0
/-- FILLING. -/
def tileFilling : Nat := 1
/-- READY. -/
def tileReady : Nat := 2
/-- DRAINING. -/
def tileDraining : Nat := 3

/-- An EMPTY tile entry. -/
def Tile.empty : Tile := { owner := 0, block := 0, buffer := false, state := 0, length := 0, offset := 0 }

/-- A tile entry of a core. -/
def Core.tile (c : Core) (t : Nat) : Tile := Tab.getD c.tiles t Tile.empty

/-- The bytes of a tile: a length code of 0 means 8,192 units (R171). -/
def Tile.bytes (t : Tile) : Nat := 64 * (if t.length = 0 then 8192 else t.length)

/-! ### The mailbox -/

/-- A response of the mailbox (R419): the command and tag repeated, the status, the result dwords. -/
def State.respond (s : State) (command : Nat) (tag : BitVec 16) (status : Nat) (data : List Nat := []) : State :=
  { s with mailbox := s.mailbox ++ [{ command := command, tag := tag.toNat, status := status, data := data }] }

/-- Done (R419). -/
def mailDone : Nat := 0
/-- Refused (R419). -/
def mailRefused : Nat := 1
/-- Bad argument (R419). -/
def mailBad : Nat := 2
/-- Busy (R419). -/
def mailBusy : Nat := 3

end Sys2Proof.Machine
end

