-- ==== Sys2Proof/Machine/Memory.lean ====
section
/-!
DEFINITION. Home memory, poison, release records, the L1 of a core, store queues and translation (R252 to R265,
R368 to R376, R405, R408), and the logs that the Kreku writes to memory and to the trail (R385, R414).
-/

namespace Sys2Proof.Machine

/-! ### Home memory -/

/-- The newest home write of the step to a byte. -/
def findWrite (a : Nat) : List HomeWrite → Option Byte
  | [] => none
  | .clear :: _ => some 0
  | .byte b v :: r => if b = a then some v else findWrite a r
  | .zero b n :: r => if b ≤ a ∧ a < b + n then some 0 else findWrite a r

/-- The byte as its home holds it (R253). -/
def State.rawByte (s : State) (a : Nat) : Byte :=
  match findWrite a s.writes with
  | some v => v
  | none => memRead s.mem a

/-- Whether a byte belongs to a location that a launch in progress has sent `.det` updates to (R157). -/
def State.unsettled (s : State) (a : Nat) : Bool :=
  s.launches.any (fun l => l.2.ordered.any (fun o => o.1 ≤ a && a < o.1 + 4))

/-- The bytes of HBM (R1): what lies beyond it in the 48 bits of a physical address is no storage. -/
def hbmBytes : Nat := 2 ^ 39

/-- The byte that a read at its home finds (R253): an undefined value where `.det` updates are in progress (R157), and
where no storage is (R1, DESIGN CHOICE, log entry 49). -/
def State.homeByte (s : State) (a : Nat) : Byte :=
  if s.unsettled a || hbmBytes ≤ a then BitVec.ofNat 8 (Config.freeNat s.free (2 ^ 32 + a)) else s.rawByte a

/-- The locations of `.det` updates with those that overlap a range marked undefined (R157). -/
def spoil (ls : Tab Launch) (a n : Nat) : Tab Launch :=
  ls.map (fun l => (l.1, { l.2 with ordered := l.2.ordered.map (fun o =>
    if o.1 < a + n ∧ a < o.1 + 4 then (o.1, true) else o) }))

/-- `n` bytes at their home. -/
def State.homeBytes (s : State) (a n : Nat) : List Byte := (List.range n).map (fun i => s.homeByte (a + i))

/-- The little-endian number of `n` bytes at their home (R7). -/
def State.homeNat (s : State) (a n : Nat) : Nat := leNat (s.homeBytes a n)

/-- Home writes of consecutive bytes, newest first. -/
def byteWrites (a : Nat) : List Byte → List HomeWrite → List HomeWrite
  | [], r => r
  | b :: bs, r => byteWrites (a + 1) bs (.byte a b :: r)

/-- One home write applied to the memory. -/
def applyWrite (w : HomeWrite) (m : List Host.Cell) : List Host.Cell :=
  match w with
  | .byte a v => memWrite m a v
  | .zero a n => m.filter (fun c => !(a ≤ c.1 && c.1 < a + n))
  | .clear => []

/-- The memory after the home writes of a step, which are listed newest first. -/
def applyWrites (ws : List HomeWrite) (m : List Host.Cell) : List Host.Cell := ws.foldr applyWrite m

/-- Whether a sector of a range of bytes is poisoned (R405). -/
def State.poisoned (s : State) (a n : Nat) : Bool :=
  (List.range ((a + n - 1) / 64 - a / 64 + 1)).any (fun i => (Tab.get? s.poison (a / 64 + i)).isSome)

/-- The poison after a write: a sector written in whole is clean, one written in part stays as it is (R405). -/
def clearPoison (p : Tab Bool) (a n : Nat) : Tab Bool :=
  p.filter (fun x => !(a ≤ 64 * x.1 && 64 * x.1 + 64 ≤ a + n))

/-- The release records after a plain store: one whose location the store overlaps is dropped (R260). -/
def dropReleases (r : Tab ReleaseRecord) (a n : Nat) : Tab ReleaseRecord :=
  r.filter (fun x => !(x.1 < a + n && a < x.1 + x.2.size))

/-- A write performed at the home of its bytes. A plain store drops release records, an atomic keeps them (R260). Where no
storage is, nothing is written (R1, DESIGN CHOICE, log entry 49). -/
def State.homeStore (s : State) (a : Nat) (bs : List Byte) (plain : Bool) : State :=
  { s with writes := if a < hbmBytes then byteWrites a bs s.writes else s.writes, poison := clearPoison s.poison a bs.length,
           releases := if plain then dropReleases s.releases a bs.length else s.releases,
           launches := spoil s.launches a bs.length }

/-- The capsule cells that a range overlaps (R176): lines on which a `capinit` has been performed. -/
def State.cellsIn (s : State) (a n : Nat) : List Nat := s.cells.filter (fun c => c < a + n && a < c + 512)

/-- A cell left undefined: undefined values in its 512 bytes (R176). -/
def State.loseCell (s : State) (c : Nat) : State :=
  { s with writes := byteWrites c ((List.range 512).map (fun i => BitVec.ofNat 8 (Config.freeNat s.free i))) s.writes,
           free := s.free + 1 }

/-- A store of an agent that is no capsule performed at its home: a cell that it reaches is left undefined (R176). -/
def State.outsideStore (s : State) (a : Nat) (bs : List Byte) (plain : Bool) : State :=
  (s.cellsIn a bs.length).foldl State.loseCell (s.homeStore a bs plain)

/-- A little-endian number of `n` bytes stored at its home. -/
def State.homeStoreNat (s : State) (a n v : Nat) : State := s.homeStore a (leBytes n v) true

/-- The home slice of a physical address (R408). -/
def homeSlice (a : Nat) (localDie : Option Nat) : Nat :=
  match localDie with
  | none => a / 2 ^ 14 % 192
  | some d => 48 * d + a / 2 ^ 14 % 48

/-- The HBM stack of a physical address (R409). -/
def hbmStack (a : Nat) : Nat :=
  let l := a / 512
  (l % 8) ^^^ (l / 8 % 8) ^^^ (l / 64 % 8)

/-- The live bank of a stack that holds a line, and the byte offset in it, under a list of dropped banks (R409). -/
def hbmBank (a : Nat) (dropped : List Nat) : Nat × Nat :=
  let m := a / 512 / 8
  let live := (List.range 1024).filter (fun b => !dropped.contains b)
  (live.getD (m % live.length) 0, 512 * (m / live.length))

/-! ### The L1 of a core -/

/-- The bytes a mask of 64 bits names, as a mask of 512 bits. -/
def byteMask (m : BitVec 64) : BitVec 512 :=
  BitVec.ofNat 512 (leNat ((List.range 64).map (fun i => if m.toNat / 2 ^ i % 2 = 1 then (0xff : Byte) else 0)))

/-- Byte i of a sector. -/
def sectorByte (d : BitVec 512) (i : Nat) : Byte := BitVec.ofNat 8 (d.toNat / 2 ^ (8 * i))

/-- A sector with byte i written. -/
def setSectorByte (d : BitVec 512) (i : Nat) (b : Byte) : BitVec 512 :=
  BitVec.ofNat 512 (d.toNat - d.toNat / 2 ^ (8 * i) % 256 * 2 ^ (8 * i) + b.toNat * 2 ^ (8 * i))

/-- The sector as its home holds it. -/
def State.homeSector (s : State) (k : Nat) : BitVec 512 := BitVec.ofNat 512 (s.homeNat (64 * k) 64)

/-- A byte as the L1 holds it, or as its home holds it where the L1 does not; an undefined value where `.det` updates are in
progress (R157). -/
def State.l1Byte (s : State) (core a : Nat) : Byte :=
  match Tab.get? (s.core core).l1 (a / 64) with
  | some l =>
    if l.valid.toNat / 2 ^ (a % 64) % 2 = 1 && !s.unsettled a then sectorByte l.data (a % 64) else s.homeByte a
  | none => s.homeByte a

/-- Whether the L1's view of a range is poisoned. -/
def State.l1Poisoned (s : State) (core a n : Nat) : Bool :=
  (List.range ((a + n - 1) / 64 - a / 64 + 1)).any (fun i =>
    match Tab.get? (s.core core).l1 (a / 64 + i) with
    | some l => l.poison
    | none => (Tab.get? s.poison (a / 64 + i)).isSome)

/-- A byte stored into the L1, where its sector becomes dirty (R254). -/
def Core.l1Store (c : Core) (a : Nat) (b : Byte) : Core :=
  let l := Tab.getD c.l1 (a / 64) { data := 0, valid := 0, dirty := 0, poison := false }
  let bit : BitVec 64 := BitVec.ofNat 64 (2 ^ (a % 64))
  let d := l.dirty ||| bit
  let x : L1Sector :=
    { data := setSectorByte l.data (a % 64) b, valid := l.valid ||| bit, dirty := d,
      poison := l.poison && d ≠ BitVec.allOnes 64 }
  { c with l1 := Tab.set c.l1 (a / 64) x }

/-- Consecutive bytes stored into the L1. -/
def Core.l1StoreBytes (c : Core) (a : Nat) : List Byte → Core
  | [] => c
  | b :: bs => Core.l1StoreBytes (c.l1Store a b) (a + 1) bs

/-- The number by which the order log names what a core writes back, which is no caravan's, and the number for the ordered-reduction
units (DESIGN CHOICE, log entry 48). -/
def coreTag (core : Nat) : Nat := 2 ^ 32 + core
def unitTag : Nat := 2 ^ 33

/-- The dispatches that a core runs blocks of. -/
def State.dispatchesOn (s : State) (core : Nat) : List Nat :=
  s.blocks.filterMap (fun b =>
    if b.2.halves.any (fun h => h.core = core) then (Tab.get? s.launches b.2.launch).map Launch.handle else none)

/-- Whether a re-execution of one of the dispatches holds an access to a sector back: another was logged before it (R428). -/
def State.logHolds (s : State) (handles : List Nat) (sector tag : Nat) : Bool :=
  match s.monitor.replay with
  | none => false
  | some r => handles.contains r.handle && (match r.log.find? (fun x => x.sector = sector && x.value.isNone) with
    | some x => x.tag ≠ tag
    | none => false)

/-- An access at a home slice in the order logs of its dispatches; in a re-execution it is performed (R428). -/
def State.logHome (s : State) (handles : List Nat) (e : LogEntry) : State :=
  match s.monitor.replay with
  | some r =>
    if handles.contains r.handle then
      match r.log.find? (fun x => x.sector = e.sector && x.value.isNone) with
      | some x => if x.tag = e.tag then { s with monitor := { s.monitor with replay := some { r with log := r.log.erase x } } } else s
      | none => s
    else s
  | none =>
    let add (r : Nat × Recording) : Nat × Recording :=
      if handles.contains r.2.handle then (r.1, { r.2 with log := r.2.log ++ [e] }) else r
    { s with monitor := { s.monitor with recordings := s.monitor.recordings.map add } }

/-- Whether a re-execution holds back what a core would write back (R428). -/
def State.pushHeld (s : State) (core k : Nat) : Bool := s.logHolds (s.dispatchesOn core) k (coreTag core)

/-- The dirty bytes of a sector pushed to their home; the copy stays clean (R254). The order logs have the write-back (R428). -/
def State.pushSector (s : State) (core k : Nat) : State :=
  match Tab.get? (s.core core).l1 k with
  | none => s
  | some l =>
    if l.dirty = 0 then s
    else
      let s0 := s.logHome (s.dispatchesOn core) { sector := k, tag := coreTag core, wkcnt := 0, value := none }
      let s1 :=
        if l.dirty = BitVec.allOnes 64 then
          s0.outsideStore (64 * k) ((List.range 64).map (sectorByte l.data)) true
        else
          (List.range 64).foldl (fun t i =>
            if l.dirty.toNat / 2 ^ i % 2 = 1 then t.outsideStore (64 * k + i) [sectorByte l.data i] true else t) s0
      s1.modCore core (fun c => { c with l1 := Tab.set c.l1 k { l with dirty := 0 } })

/-- The sectors of a core that are dirty. -/
def Core.dirtySectors (c : Core) : List Nat := (c.l1.filter (fun p => p.2.dirty ≠ 0)).map Prod.fst

/-- Listed sectors of a core pushed to their homes. -/
def State.pushSectors (s : State) (core : Nat) (ks : List Nat) : State := ks.foldl (fun s k => s.pushSector core k) s

/-- The lines of which an L1 holds sectors. -/
def Core.l1Lines (c : Core) : List Nat := (c.l1.map (fun p => p.1 / 8)).eraseDups

/-- The lines that the 128 KiB of an L1 hold (R1). -/
def l1Capacity : Nat := 256

/-- A line leaves an L1, its dirty bytes for their home (R254). -/
def State.evictLine (s : State) (core line : Nat) : State :=
  let ks := ((s.core core).l1.filter (fun p => p.1 / 8 = line)).map Prod.fst
  (s.pushSectors core ks).modCore core (fun c => { c with l1 := c.l1.filter (fun p => p.1 / 8 ≠ line) })

/-- Room in an L1 for a sector (R1, R254): where it holds its capacity of other lines, one that the machine chooses leaves
first (DESIGN CHOICE, log entry 20). -/
def State.l1Room (s : State) (core k : Nat) : State :=
  let lines := (s.core core).l1Lines
  if lines.contains (k / 8) || lines.length < l1Capacity then s
  else
    let (v, s1) := s.choose
    s1.evictLine core (lines.getD (v % lines.length) 0)

/-- The sector filled: bytes that the L1 does not hold come from the home (R254). -/
def State.fillSector (s : State) (core k : Nat) : State :=
  match Tab.get? (s.core core).l1 k with
  | none =>
    let s := s.l1Room core k
    let x : L1Sector :=
      { data := s.homeSector k, valid := BitVec.allOnes 64, dirty := 0, poison := s.poisoned (64 * k) 64 }
    s.modCore core (fun c => { c with l1 := Tab.set c.l1 k x })
  | some l =>
    if l.valid = BitVec.allOnes 64 then s
    else
      let m := byteMask l.valid
      let x : L1Sector :=
        { data := (l.data &&& m) ||| (s.homeSector k &&& ~~~ m), valid := BitVec.allOnes 64, dirty := l.dirty,
          poison := l.poison || s.poisoned (64 * k) 64 }
      s.modCore core (fun c => { c with l1 := Tab.set c.l1 k x })

/-- The sectors of a range filled. -/
def State.fillRange (s : State) (core a n : Nat) : State :=
  (List.range ((a + n - 1) / 64 - a / 64 + 1)).foldl (fun s i => s.fillSector core (a / 64 + i)) s

/-- Every dirty sector of a core pushed to its home (R162, R263). -/
def State.pushAll (s : State) (core : Nat) : State := s.pushSectors core (s.core core).dirtySectors

/-- The L1 of a core without its clean bytes: no copy fetched before stays valid (R265). -/
def Core.dropClean (c : Core) : Core :=
  let dirty (k : Nat) : Bool := match Tab.get? c.l1 k with
    | some l => l.dirty ≠ 0
    | none => false
  { c with l1 := (c.l1.filter (fun p => dirty p.1)).map (fun p => (p.1, { p.2 with valid := p.2.dirty })) }

/-- The sectors of a range pushed and dropped before an operation at their home slice (R151, R267). -/
def State.releaseSectors (s : State) (core a n : Nat) : State :=
  let ks := (List.range ((a + n - 1) / 64 - a / 64 + 1)).map (fun i => a / 64 + i)
  let t := s.pushSectors core ks
  t.modCore core (fun c => { c with l1 := c.l1.filter (fun p => !ks.contains p.1) })

/-- A range of the home with the lines that a pair unit holds of it recalled (R151). -/
def State.recallLines (s : State) (a n : Nat) : State :=
  { s with pairLines := s.pairLines.filter (fun p => !(p.1 / 128 < a + n && a < p.1 / 128 + 512)) }

/-- Whether a caravan lies in the scope of another, seen from it (R149, R260). -/
def inScope (scope coreA blockA coreB blockB : Nat) : Bool :=
  match scope with
  | 0 => false
  | 1 => blockA = blockB
  | 2 => coreA / 2 = coreB / 2
  | 3 => coreDie coreA = coreDie coreB
  | _ => true

/-- The release records of a range of bytes (R260). -/
def State.releasesAt (s : State) (a n : Nat) : Tab ReleaseRecord :=
  s.releases.filter (fun r => r.1 < a + n && a < r.1 + r.2.size)

/-- Whether a release of a range covers bursts that have not committed, or stores to other packages that are not
acknowledged: its acquire waits for them (R160, R260, R361). -/
def State.owes (s : State) (a n : Nat) : Bool :=
  (s.releasesAt a n).any (fun r => r.2.owed.isSome || r.2.remote.any (fun i => (Tab.get? s.netin.outstanding i).isSome))

/-- The stores of a core to other packages that are not acknowledged (R361). -/
def State.unacknowledged (s : State) (core : Nat) : List Nat :=
  (s.netin.outstanding.filter (fun o => o.2.write && !o.2.failed && o.2.path / 128 = core)).map Prod.fst

/-- The pulls that a wide acquire of released locations makes (R260): every sector of a releasing core that was dirty at the
release goes to its home. Where the scope condition fails the machine may pull or not. -/
def State.pullRecords (s : State) (core block scope : Nat) (rs : Tab ReleaseRecord) : State :=
  (rs.filter (fun r => r.2.core ≠ core)).foldl (fun s r =>
    let met := inScope r.2.scope r.2.core r.2.block core block && inScope scope r.2.core r.2.block core block
    if met then s.pushSectors r.2.core r.2.sectors
    else
      let (v, s1) := s.choose
      if v % 2 = 1 then s1.pushSectors r.2.core r.2.sectors else s1) s

/-- The pull that a wide acquire of a range makes (R260). -/
def State.pullFor (s : State) (core block scope a n : Nat) : State :=
  s.pullRecords core block scope (s.releasesAt a n)

/-- A release performed at the home of its location (R159, R260): the record names the releasing core, its block, the scope
and the sectors dirty at that moment, and what the release covers that is not yet at its home. `store` makes the write. -/
def State.releaseBy (s : State) (core block a n scope : Nat) (owed : Option (Nat × Nat × Nat)) (store : State → State) :
    State :=
  let s1 := s.releaseSectors core a n
  let s2 := if scope ≥ 3 then { s1 with pairLines := s1.pairLines.filter (fun p => p.2 ≠ core / 2) } else s1
  let s3 := store (s2.recallLines a n)
  let r : ReleaseRecord := { size := n, core := core, block := block, scope := scope, sectors := (s3.core core).dirtySectors,
                             owed := owed, remote := s3.unacknowledged core }
  { s3 with releases := Tab.set s3.releases a r }

/-- A store that is a release (R159, R161, R260). -/
def State.release (s : State) (core block a : Nat) (bs : List Byte) (scope : Nat) : State :=
  s.releaseBy core block a bs.length scope none (fun t => t.outsideStore a bs true)

/-- The address under which the release records of a location of another package stand: beyond every address of this
package (DESIGN CHOICE, log entry 44). -/
def remoteAddress (package a : Nat) : Nat := (package + 1) * 2 ^ 48 + a

/-- The port that carries a request to a line of another package (R359, R361, R362): one of those in load-store mode that
have not failed, by a hash of the address (DESIGN CHOICE, log entry 44). With none the request can only time out. -/
def Netin.loadPort (n : Netin) (a : Nat) : Nat :=
  let ports := (List.range 16).filter (fun k => n.messageMode.toNat / 2 ^ k % 2 = 0 && n.failedPorts.toNat / 2 ^ k % 2 = 0)
  if ports.isEmpty then a / 512 % 16 else ports.getD (a / 512 % ports.length) 0

/-- A request to another package as it leaves (R361, R362). -/
def State.request (s : State) (path package a : Nat) (write : Bool) : Outstanding :=
  let port := s.netin.loadPort a
  { path := path, port := port, package := package, addr := a, write := write, failed := false, answer := none,
    since := (s.die (port / 4)).cyc }

/-- A store or a release of a location of another package (R259, R361): its record stands at its home there, and a plain
store ends it. -/
def State.remoteRelease (s : State) (core block package a n : Nat) (scope : Option Nat) : State :=
  let at_ := remoteAddress package a
  let rs := dropReleases s.releases at_ n
  match scope with
  | none => { s with releases := rs }
  | some k =>
    let r : ReleaseRecord := { size := n, core := core, block := block, scope := k, sectors := (s.core core).dirtySectors,
                               remote := s.unacknowledged core }
    { s with releases := Tab.set rs at_ r }

/-! ### Translation -/

/-- The kinds of access that translation tells apart (R373). -/
inductive Access where
  | read | write | atomic | fetch
deriving DecidableEq, Repr, Inhabited

/-- The outcome of a page-table walk (R371 to R374). -/
inductive WalkResult where
  | leaf (t : Translation)
  | fault (code cause : Nat)
  | demand (entry : Nat)
deriving DecidableEq, Repr, Inhabited

/-- Whether bits 63:48 of an address equal bit 47 (R371). -/
def canonical (va : Word) : Bool := va.toNat / 2 ^ 47 = 0 || va.toNat / 2 ^ 47 = 2 ^ 17 - 1

/-- The permission fault of an access to a page (R373). -/
def permission (t : Translation) (k : Access) : Option Nat :=
  match k with
  | .fetch => if t.executable then none else some 1
  | .write => if t.writable then none else some 0
  | .read => if t.readable then none else some 2
  | .atomic => if ¬ t.writable then some 0 else if t.readable then none else some 2

/-- The PAGE_FAULT cause of an unmapped access (R373). -/
def unmappedCause (k : Access) : Nat :=
  match k with
  | .read => 0
  | .write => 1
  | .atomic => 1
  | .fetch => 2

/-- The 64 KiB page of an address. -/
def pageOf (va : Word) : Nat := va.toNat % 2 ^ 48 / 65536

/-- One level of a walk: the table, the level and the levels left (R371 to R373). -/
def walkFrom (s : State) (ctx : Nat) (page : Nat) (k : Access) : Nat → Nat → Nat → WalkResult
  | 0, _, _ => .fault codePageFault 4
  | fuel + 1, level, table =>
    let va := page * 65536
    let shift := if level = 4 then 16 else 48 - 9 * level
    let index := va / 2 ^ shift % (if level = 4 then 32 else 512)
    let at_ := table + 8 * index
    let e := s.homeNat at_ 8
    let leaf := fld e 1 1 = 1
    if fld e 0 1 = 0 then
      if leaf ∧ fld e 5 1 = 1 ∧ level = 4 then .demand at_ else .fault codePageFault (unmappedCause k)
    else if fld e 8 4 ≠ 0 ∨ fld e 48 10 ≠ 0 ∨ (leaf ∧ level = 1) ∨ (¬ leaf ∧ level = 4) then .fault codePageFault 4
    else if ¬ leaf then walkFrom s ctx page k fuel (level + 1) (fld e 12 36 * 4096)
    else
      let base := fld e 12 36 * 4096
      let rem := fld e 7 1 = 1
      let loc := fld e 6 1 = 1
      if base % 2 ^ shift ≠ 0 ∨ (rem ∧ loc) ∨ (loc ∧ fld e 60 4 ≠ 0) then .fault codePageFault 4
      else
        .leaf { ctx := ctx, size := 65536, base := base + va % 2 ^ shift, readable := fld e 2 1 = 1,
                writable := fld e 3 1 = 1, executable := fld e 4 1 = 1,
                package := if rem ∧ fld e 58 6 ≠ s.netin.package then some (fld e 58 6) else none,
                localDie := if loc then some (fld e 58 2) else none }

/-- The walk of a context's tables for a page (R371). -/
def State.walk (s : State) (ctx page : Nat) (k : Access) : WalkResult :=
  match Tab.get? s.contexts ctx with
  | none => .fault codePageFault (unmappedCause k)
  | some c => walkFrom s ctx page k 4 1 c.root

/-! ### The fault log and the trail -/

/-- A byte of the MSI-X table (R330, PRESUMED, log entry 7): one that nothing has written is zero, but for the mask bit of each entry. -/
def Bar.msixByte (b : Bar) (a : Nat) : Byte := Tab.getD b.msix a (if a % 16 = 12 then 1 else 0)

/-- Whether the MSI-X table masks a vector, by the mask bit of its entry (R330, PRESUMED, log entry 7). -/
def Bar.masked (b : Bar) (v : Nat) : Bool := (b.msixByte (16 * v + 12)).toNat % 2 = 1

/-- An MSI-X vector sent, or left pending while its entry is masked (R330, R368). -/
def State.sendVector (s : State) (v : Nat) : State :=
  if s.bar.masked v then { s with bar := { s.bar with msixPending := s.bar.msixPending ||| BitVec.ofNat 256 (2 ^ v) } }
  else { s with bar := { s.bar with vectorsSent := s.bar.vectorsSent ++ [v] } }

/-- A record written whole to the fault log of a context, with its index, or none where the log is full (R385). -/
def State.logRecord (s : State) (ctx : Nat) (words : List Word) : Option (Nat × State) :=
  match Tab.get? s.contexts ctx with
  | none => none
  | some c =>
    let w := s.homeNat c.flog 8
    let r := s.homeNat (c.flog + 8) 8
    if (w + 2 ^ 64 - r) % 2 ^ 64 ≥ 2 ^ c.logN then none
    else
      let at_ := c.flog + 64 + 64 * (w % 2 ^ c.logN)
      let s1 := s.homeStore at_ (words.foldr (fun x bs => leBytes 8 x.toNat ++ bs) []) true
      some (w, (s1.homeStoreNat c.flog 8 (w + 1)).sendVector c.vector)

/-- A fault record of kind 0, 1 or 3: dropped and counted where the log is full (R385). -/
def State.logFault (s : State) (ctx : Nat) (words : List Word) : State :=
  match s.logRecord ctx words with
  | some (_, t) => t
  | none =>
    match Tab.get? s.contexts ctx with
    | none => s
    | some c => s.homeStoreNat (c.flog + 24) 8 (s.homeNat (c.flog + 24) 8 + 1)

/-- Word 0 of a fault-log record (R385). -/
def recordWord (code cause kind tag : Nat) : Word :=
  BitVec.ofNat 64 (code + 2 ^ 8 * cause + 2 ^ 16 * kind + 2 ^ 32 * tag)

/-- A record that must wait for room in the log (kinds 2 and 4, R385): written now, or kept with its key until then. -/
def State.logOrWait (s : State) (ctx key : Nat) (words : List Word) : Option Nat × State :=
  match s.logRecord ctx words with
  | some (i, t) => (some i, t)
  | none => (none, s.modContext ctx (fun c => { c with waiting := c.waiting ++ [(key, words)] }))

/-- How many records of a trail, the last `n` at least, stand behind a new one of a cycle and a source: those of the cycle that have
a greater source, with their continuations (R414). Nothing stands behind an event of the die. -/
def Die.trailBehind (d : Die) (cycle source : Nat) : Nat → Nat → Nat
  | 0, n => n
  | fuel + 1, n =>
    let at_ (k : Nat) : Nat := (Tab.getD d.trail ((d.trailCount + 2 ^ 32 - n - k) % 4096) 0).toNat
    let size := if at_ 1 / 2 ^ 24 % 2 ^ 8 = 0xff then 2 else 1
    let r := at_ size
    if source < 0x3f && r / 2 ^ 80 % 2 ^ 48 = cycle && source < r / 2 ^ 40 % 2 ^ 8 then d.trailBehind cycle source fuel (n + size) else n

/-- A record of the trail of a die moved up by so many places. -/
def Die.trailUp (d : Die) (size : Nat) : Nat → Die
  | 0 => d
  | n + 1 =>
    let from_ := d.trailCount + 2 ^ 32 - n - 1
    Die.trailUp { d with trail := Tab.set d.trail ((from_ + size) % 4096) (Tab.getD d.trail (from_ % 4096) 0) } size n

/-- A record entered into the trail of a die, with a continuation where one is given: behind those of earlier cycles, in its cycle in
ascending source (R414). -/
def State.trail (s : State) (die ctx source kind code detail : Nat) (cont : Option Nat) : State :=
  s.modDie die (fun d =>
    let r := BitVec.ofNat 128 (detail % 2 ^ 24 + 2 ^ 24 * kind + 2 ^ 32 * (code % 256) + 2 ^ 40 * source
      + 2 ^ 48 * (s.boot % 2 ^ 16) + 2 ^ 64 * ctx + 2 ^ 80 * (d.cyc % 2 ^ 48))
    let behind := d.trailBehind (d.cyc % 2 ^ 48) source 2047 0
    let size := if cont.isSome then 2 else 1
    let d0 := d.trailUp size behind
    let at_ := d.trailCount + 2 ^ 32 - behind
    let d1 := { d0 with trail := Tab.set d0.trail (at_ % 4096) r, trailCount := (d.trailCount + size) % 2 ^ 32 }
    match cont with
    | none => d1
    | some v => { d1 with trail := Tab.set d1.trail ((at_ + 1) % 4096) (BitVec.ofNat 128 (v % 2 ^ 96 * 2 ^ 32 + 0xff * 2 ^ 24)) })

/-! ### Demand pages -/

/-- The outcome of an access to an unmapped page, a demand leaf served (R374): the page's translation, a fault, or a
wait for the driver. -/
inductive Served where
  | leaf (t : Translation) (s : State)
  | fault (code cause : Nat) (s : State)
  | wait (s : State)

/-- A demand leaf served in hardware mode: the next page of the free list, zeroed (R374). -/
def State.serveFree (s : State) (ctx page entry : Nat) (k : Access) : Served :=
  match Tab.get? s.contexts ctx with
  | none => .fault codePageFault 3 s
  | some c =>
    let head := s.homeNat c.free 8
    let tail := s.homeNat (c.free + 8) 8
    if c.free = 0 ∨ head = tail then .fault codePageFault 3 s
    else
      let fresh := s.homeNat (c.free + 64 + 8 * (head % 2 ^ 20)) 8
      let s1 := { s with writes := .zero fresh 65536 :: s.writes, poison := clearPoison s.poison fresh 65536 }
      let old := s1.homeNat entry 8
      let leaf := old - fld old 12 36 * 4096 + fresh % 2 ^ 48 + (1 - fld old 0 1)
      let s2 := (s1.homeStoreNat entry 8 leaf).homeStoreNat c.free 8 (head + 1)
      match s2.walk ctx page k with
      | .leaf t => .leaf t s2
      | .fault a b => .fault a b s2
      | .demand _ => .fault codePageFault 3 s2

/-- Whether a function of a context is in host-assisted mode (R369): chosen by its descriptor, with its feature enabled. -/
def State.hostMode (s : State) (ctx f : Nat) : Bool :=
  match Tab.get? s.contexts ctx with
  | some c => c.modes.toNat / 2 ^ f % 2 = 1 && s.bar.enabled && s.bar.featEn.toNat / 2 ^ (6 + f) % 2 = 1
  | none => false

/-- The number that stands for a fault-log record which waits for room (R385). -/
def unwritten : Nat := 2 ^ 65

/-- The driver is asked to serve a page (R374, R385): one service record of kind 2 for the page, with the tag of the caravan that
first waits, its `trappc` image, and its block with its dispatch handle; zero for an access of an engine or of the front end
(DESIGN CHOICE, log entry 51). The record's number. -/
def State.askService (s : State) (ctx page : Nat) (va : Word) (tag : Nat := 0) (pc : Word := 0) (block : Word := 0) : Nat × State :=
  let (i, t) := s.logOrWait ctx page [recordWord codePageFault 0 2 tag, pc, va, block, 0, 0, 0, 0]
  (i.getD unwritten, t)

/-- The record of a page's service, where one of any core's walks or an engine has asked for it (R374). -/
def State.serviceOf (s : State) (ctx page : Nat) : Option Nat :=
  s.cores.findSome? (fun c => (c.2.walks.find? (fun w => w.ctx = ctx ∧ w.page = page ∧ w.service.isSome ∧ w.result.isNone)).bind
    (fun w => w.service))

/-- The outcome of a translated access: its permission is checked (R373). -/
def Served.check (r : Served) (k : Access) : Served :=
  match r with
  | .leaf t s => (match permission t k with
    | some p => .fault codeProtection p s
    | none => .leaf t s)
  | x => x

/-- A walk completed for an agent that has no translation cache: engines and the front end (R167, R374). -/
def State.walkServe (s : State) (ctx : Nat) (va : Word) (k : Access) : Served :=
  if ¬ canonical va then .fault codePageFault 4 s
  else
    match s.walk ctx (pageOf va) k with
    | .fault a b => .fault a b s
    | .leaf t => (Served.leaf t s).check k
    | .demand e =>
      if !s.hostMode ctx 0 then (s.serveFree ctx (pageOf va) e k).check k
      else
        -- host-assisted: a service record is written once, and the access waits (R374)
        match (s.core 0).walks.find? (fun w => w.ctx = ctx ∧ w.page = pageOf va ∧ w.service.isSome) with
        | some w =>
          (match w.result with
          | some (a, b) => .fault a b (s.modCore 0 (fun c => { c with walks := c.walks.filter (· ≠ w) }))
          | none => .wait s)
        | none =>
          let (i, s1) := match s.serviceOf ctx (pageOf va) with
            | some i => (i, s)
            | none => s.askService ctx (pageOf va) va
          .wait (s1.modCore 0 (fun c => { c with walks := c.walks ++
            [{ ctx := ctx, page := pageOf va, entry := e, service := some i, result := none }] }))

/-- The physical address of a virtual one under a translation. -/
def physical (t : Translation) (va : Word) : Nat := t.base + va.toNat % 65536

/-! ### Store queues -/

/-- The pair unit's key of a line: 128 × its address + the pair (R150). -/
def pairKey (core a : Nat) : Nat := a / 512 * 512 * 128 + core / 2

/-- The pair unit of a core takes a line into its 64 KiB (R150, R151): a line that the machine chooses returns to its home slice
where it holds 128 others (DESIGN CHOICE, log entry 37). -/
def State.takePairLine (s : State) (core a : Nat) : State :=
  let mine := s.pairLines.filter (fun p => p.2 = core / 2)
  let (v, s1) := s.choose
  let s2 : State :=
    if (Tab.get? s.pairLines (pairKey core a)).isSome || mine.length < 128 then s
    else
      match mine[v % mine.length]? with
      | some old => { s1 with pairLines := Tab.erase s1.pairLines old.1 }
      | none => s1
  { s2 with pairLines := Tab.set s2.pairLines (pairKey core a) (core / 2) }

/-- Bytes written into a caravan's stack cache (R51). -/
def Caravan.stackWrite (c : Caravan) (va : Nat) : List Byte → Caravan
  | [] => c
  | b :: bs => Caravan.stackWrite { c with stack := Tab.set c.stack va b } (va + 1) bs

/-- The lines of which a stack cache holds bytes (R51). -/
def Caravan.stackLines (c : Caravan) : List Nat := (c.stack.map (fun x => x.1 / 512)).eraseDups

/-- The bytes that a stack cache holds of a line. -/
def Caravan.stackLine (c : Caravan) (line : Nat) : Tab Byte := c.stack.filter (fun x => x.1 / 512 = line)

/-- Whether a line of a stack cache holds a byte below `stklim` (R51). -/
def Caravan.lineBelow (c : Caravan) (line : Nat) : Bool := (c.stackLine line).any (fun x => x.1 < c.stklim.toNat)

/-- A line of a stack cache spilled to its stack memory (R51). A line whose page cannot be stored to, or lies in another
package, stays where it is: only its own caravan sees it. -/
def State.spillLine (s : State) (key line : Nat) : State :=
  match (s.caravan? key).bind (fun c => (Tab.get? s.blocks c.block).map (fun b => (c, b))) with
  | none => s
  | some (c, b) =>
    match s.walkServe b.ctx (BitVec.ofNat 64 (line * 512)) .write with
    | .fault _ _ t => t
    | .wait t => t
    | .leaf tr t =>
      if tr.package.isSome then t
      else
        let put (u : State) (x : Nat × Byte) : State :=
          let a := physical tr (BitVec.ofNat 64 x.1)
          (u.l1Room (key / 64) (a / 64)).modCore (key / 64) (fun k => k.l1Store a x.2)
        ((c.stackLine line).foldl put t).modCaravan key (fun c => { c with stack := c.stack.filter (fun x => x.1 / 512 ≠ line) })

/-- A stack cache within its 2 KiB (R51): where it holds more, a line that the machine chooses is spilled, unless it lies
below `stklim` (DESIGN CHOICE, log entry 25). -/
def State.trimStack (s : State) (key : Nat) : State :=
  match s.caravan? key with
  | none => s
  | some c =>
    if c.stackLines.length ≤ 4 then s
    else
      let (v, s1) := s.choose
      let line := c.stackLines.getD (v % c.stackLines.length) 0
      if c.lineBelow line then s1 else s1.spillLine key line

/-- Bytes stored into the stack cache of a caravan (R51). -/
def State.stackStore (s : State) (key va : Nat) (bs : List Byte) : State :=
  ((s.modCaravan key (fun c => c.stackWrite va bs)).trimStack key).trimStack key

/-- Bytes written into a half's scratchpad: a write into the states of a streamed dune array leaves them undefined (R217). -/
def State.scratchWrite (s : State) (b h a : Nat) (bs : List Byte) : State :=
  let t := s.modHalf b h (fun x => { x with scratch := x.scratch.writeList a bs })
  match (Tab.get? s.blocks b).bind (fun x => (x.half? h).map (fun y => (x, y))) with
  | none => t
  | some (x, y) =>
    let c := (s.core y.core).dune.config
    if x.pk.dune && c.streamed && a < c.stateOff + c.nbits / 8 && c.stateOff < a + bs.length then
      let lost := (List.range (c.nbits / 8)).map (fun i => (BitVec.ofNat 8 (Config.freeNat s.free i) : Byte))
      { t.modHalf b h (fun z => { z with scratch := z.scratch.writeList c.stateOff lost }) with free := s.free + 1 }
    else t

/-- A store into the range of a tile that is FILLING leaves the range undefined (R174). `write` writes undefined values. -/
def State.spoilFilling (s : State) (core block : Nat) (buffer : Bool) (a n : Nat) (write : Nat → List Byte → State → State) :
    State :=
  let hit (t : Tile) : Bool :=
    t.state = tileFilling && t.block = block && t.buffer = buffer && t.offset < a + n && a < t.offset + t.bytes
  let spoil (u : State) (t : Nat × Tile) : State :=
    if hit t.2 then
      let lost := (List.range t.2.bytes).map (fun i => (BitVec.ofNat 8 (Config.freeNat u.free i) : Byte))
      let v := (write t.2.offset lost u).modCore core (fun c => { c with tiles := Tab.set c.tiles t.1 { t.2 with lost := true } })
      { v with free := v.free + 1 }
    else u
  (s.core core).tiles.foldl spoil s

/-- A scratchpad store (R146, R174, R217). -/
def State.scratchStore (s : State) (b h a : Nat) (bs : List Byte) : State :=
  let t := s.scratchWrite b h a bs
  match (Tab.get? s.blocks b).bind (fun x => x.half? h) with
  | none => t
  | some y => t.spoilFilling y.core b false a bs.length (fun o lost u => u.scratchWrite b h o lost)

/-- The sectors of a range of an operand buffer, as bits. -/
def obSectors (a n : Nat) : BitVec 4096 :=
  if n = 0 then 0 else BitVec.ofNat 4096 (2 ^ ((a + n - 1) / 64 + 1) - 2 ^ (a / 64))

/-- Whether a sector of a range of an operand buffer is poisoned (R405). -/
def obPoisoned (p : BitVec 4096) (a n : Nat) : Bool := p &&& obSectors a n ≠ 0

/-- Bytes written into the operand buffer of a core. -/
def State.bufferWrite (s : State) (core a : Nat) (bs : List Byte) : State :=
  s.modMatrix core (fun m => { m with ob := m.ob.writeList a bs })

/-- Whether a range of physical memory lies in the save area of a context (R391). -/
def Context.saves (c : Context) (a n : Nat) : Bool := c.save ≠ 0 && c.save < a + n && a < c.save + 192 * 3145728

/-- A store of a block to the save area of its context (R370): what the context has saved becomes undefined. -/
def State.spoilSaves (s : State) (block a n : Nat) : State :=
  match (Tab.get? s.blocks block).bind (fun b => (Tab.get? s.contexts b.ctx).map (fun c => (b.ctx, c))) with
  | none => s
  | some (ctx, c) =>
    if c.saves a n then
      { s with saved := s.saved.map (fun b => (b.1, { b.2 with spoiled := b.2.spoiled || b.2.block.ctx = ctx })) }
    else s

/-- A store of a path performed: into the L1, a stack cache, the scratchpad of a half or the operand buffer; a store to
another package leaves for its home there and is outstanding until it is acknowledged (R254, R257, R266, R361). -/
def State.perform (s : State) (key p : Nat) (e : StoreEntry) : State :=
  let block := match s.caravan? key with
    | some c => c.block
    | none => 0
  match e.place, e.release with
  | .mem, none =>
    let t := (s.l1Room (key / 64) (e.addr / 64)).spoilSaves block e.addr e.bytes.length
    t.modCore (key / 64) (fun c => c.l1StoreBytes e.addr e.bytes)
  | .mem, some scope => (s.spoilSaves block e.addr e.bytes.length).release (key / 64) block e.addr e.bytes scope
  | .remote package, scope =>
    let (id, s0) := s.fresh
    let s1 := s0.remoteRelease (key / 64) block package e.addr e.bytes.length scope
    s1.modNetin (fun x => { x with outstanding := Tab.set x.outstanding id (s.request (key * 2 + p) package e.addr true) })
  | .stack k, _ => s.stackStore k e.addr e.bytes
  | .savedStack b k, _ =>
    { s with saved := Tab.modify s.saved b (fun x =>
        { x with caravans := Tab.modify x.caravans k (fun c => c.stackWrite e.addr e.bytes) }) }
  | .scratch b h, _ => s.scratchStore b h e.addr e.bytes
  | .buffer c, _ =>
    (s.bufferWrite c e.addr e.bytes).spoilFilling c block true e.addr e.bytes.length (fun o lost u => u.bufferWrite c o lost)

/-- The stores at the head of a queue that wait for no burst (R159). -/
def readyStores (q : List StoreEntry) : List StoreEntry := q.takeWhile (fun e => e.after = 0)

/-- The stores of a queue from the first one that waits for a burst. -/
def waitingStores (q : List StoreEntry) : List StoreEntry := q.dropWhile (fun e => e.after = 0)

/-- The stores of a path's queue performed, oldest first, up to the first that waits for a burst (R159, R257). -/
def State.drainStores (s : State) (key p : Nat) : State :=
  match (s.caravan? key).bind (fun c => Tab.get? c.paths p) with
  | none => s
  | some x =>
    ((readyStores x.storeq).foldl (fun s e => s.perform key p e) s).modPath key p
      (fun x => { x with storeq := waitingStores x.storeq })

/-- The youngest store of a queue that holds a byte. -/
def forward (q : List StoreEntry) (pl : Place) (a : Nat) : Option Byte :=
  q.foldl (fun r e =>
    if e.place = pl ∧ e.addr ≤ a ∧ a < e.addr + e.bytes.length then e.bytes[a - e.addr]? else r) none

end Sys2Proof.Machine
end

