-- ==== Sys2Proof/Machine/Numbers.lean ====
section
/-!
DEFINITION. Numbers and their arithmetic (R12 to R35): narrowing, formats, rounding, special values, SP8, block
scaling, chunk accumulation, fixed summation orders, the keyed counter generator and the dune sigmoid.
-/

namespace Sys2Proof.Machine

/-- `wrap(v, n)` (R12). -/
def wrapInt (n : Nat) (v : Int) : BitVec n := BitVec.ofInt n v

/-- `sat_s(v, n)` (R12). -/
def satS (n : Nat) (v : Int) : BitVec n := BitVec.ofInt n (max (-(2 ^ (n - 1))) (min v (2 ^ (n - 1) - 1)))

/-- `sat_u(v, n)` (R12). -/
def satU (n : Nat) (v : Int) : BitVec n := BitVec.ofInt n (max 0 (min v (2 ^ n - 1)))

/-- `zx(x, n)` read as an integer (R12). -/
def zxInt {n : Nat} (x : BitVec n) : Int := x.toNat

/-- Bits in a number: 0 for 0, and floor(log2 n) + 1 otherwise, searched among `fuel` bits. -/
def bitLength (n : Nat) : Nat := if n = 0 then 0 else Nat.log2 n + 1

/-- Number of one bits among the low `k` bits. -/
def onesBelow (n : Nat) : Nat → Nat
  | 0 => 0
  | k + 1 => onesBelow n k + n / 2 ^ k % 2

/-- Number of one bits (R89, R126). -/
def popCount {n : Nat} (x : BitVec n) : Nat := onesBelow x.toNat n

/-- Number of leading zero bits, n for zero (R89, R126). -/
def leadingZeros {n : Nat} (x : BitVec n) : Nat := n - bitLength x.toNat

/-! ### Flags -/

/-- Invalid (R25). -/
def flagNV : BitVec 5 := 16
/-- Division by zero (R25). -/
def flagDZ : BitVec 5 := 8
/-- Overflow (R25). -/
def flagOF : BitVec 5 := 4
/-- Underflow (R25). -/
def flagUF : BitVec 5 := 2
/-- Inexact (R25). -/
def flagNX : BitVec 5 := 1

/-- A result code with the flags it raises. -/
abbrev Coded := Nat × BitVec 5

/-- The rounding modes of R20. -/
inductive Rounding where
  | rne | rtz | rup | rdn
deriving DecidableEq, Repr, Inhabited

/-- The mode of a 2-bit code (R20). -/
def Rounding.ofCode (c : Nat) : Rounding :=
  match c % 4 with
  | 0 => .rne
  | 1 => .rtz
  | 2 => .rup
  | _ => .rdn

/-! ### Formats -/

/-- The shape of a floating-point format (R13): exponent bits, mantissa bits, bias, infinities, NaN codes. -/
structure Format where
  exp : Nat
  man : Nat
  bias : Int
  inf : Bool
  nan : Bool
deriving DecidableEq, Repr

/-- The format of a code of R54 that is a floating-point format. -/
def formatOf (fmt : Nat) : Format :=
  match fmt with
  | 1 => ⟨5, 10, 15, true, true⟩
  | 2 => ⟨8, 7, 127, true, true⟩
  | 3 => ⟨5, 2, 15, true, true⟩
  | 4 => ⟨4, 3, 7, false, true⟩
  | 5 => ⟨2, 1, 1, false, false⟩
  | _ => ⟨8, 23, 127, true, true⟩

/-- The largest finite magnitude code of a format (R13). -/
def maxFinite (f : Format) : Nat :=
  if f.inf then (2 ^ f.exp - 1) * 2 ^ f.man - 1
  else if f.nan then 2 ^ (f.exp + f.man) - 2
  else 2 ^ (f.exp + f.man) - 1

/-- The sign bit of a code. -/
def signOf (f : Format) (x : Nat) : Bool := x / 2 ^ (f.exp + f.man) % 2 = 1

/-- A magnitude code with a sign. -/
def withSign (f : Format) (neg : Bool) (mag : Nat) : Nat := (if neg then 2 ^ (f.exp + f.man) else 0) + mag

/-- The code of infinity of a format that has one. -/
def infCode (f : Format) (neg : Bool) : Nat := withSign f neg ((2 ^ f.exp - 1) * 2 ^ f.man)

/-- The canonical NaN of a format (R23). -/
def canonicalNaN (f : Format) : Nat :=
  if f.inf then (2 ^ f.exp - 1) * 2 ^ f.man + 2 ^ (f.man - 1) else 2 ^ (f.exp + f.man) - 1

/-- The value of a code (R14): a signed zero, a non-zero m × 2^e, an infinity or a NaN. -/
inductive Value where
  | zero (neg : Bool)
  | fin (neg : Bool) (m : Nat) (e : Int)
  | inf (neg : Bool)
  | nan
deriving DecidableEq, Repr, Inhabited

/-- `dec(fmt, x)` (R14). -/
def decode (f : Format) (x : Nat) : Value :=
  let neg := signOf f x
  let e := x / 2 ^ f.man % 2 ^ f.exp
  let m := x % 2 ^ f.man
  if f.inf ∧ e = 2 ^ f.exp - 1 then (if m = 0 then .inf neg else .nan)
  else if ¬ f.inf ∧ f.nan ∧ x % 2 ^ (f.exp + f.man) = 2 ^ (f.exp + f.man) - 1 then .nan
  else if e = 0 then (if m = 0 then .zero neg else .fin neg m (1 - f.bias - f.man))
  else .fin neg (2 ^ f.man + m) (e - f.bias - f.man)

/-- Whether a NaN code is signalling (R14, R24). -/
def isSignalling (f : Format) (x : Nat) : Bool :=
  decode f x = .nan && f.inf && x / 2 ^ (f.man - 1) % 2 = 0

/-- A NaN code with its quiet bit set (R23). -/
def quieten (f : Format) (x : Nat) : Nat :=
  if f.inf ∧ x / 2 ^ (f.man - 1) % 2 = 0 then x + 2 ^ (f.man - 1) else x

/-- Whether a code is subnormal. -/
def isSubnormal (f : Format) (x : Nat) : Bool := x / 2 ^ f.man % 2 ^ f.exp = 0 && x % 2 ^ f.man ≠ 0

/-- Whether a format is one that `ftz` flushes: FP32, FP16 and BF16 (R22). -/
def flushes (fmt : Nat) : Bool := fmt ≤ 2

/-- A subnormal operand read as zero of its sign (R22). -/
def flushOperand (ftz : Bool) (fmt x : Nat) : Nat :=
  if ftz ∧ flushes fmt ∧ isSubnormal (formatOf fmt) x then withSign (formatOf fmt) (signOf (formatOf fmt) x) 0 else x

/-- A subnormal result replaced by zero of its sign, with UF and NX (R22). -/
def flushResult (ftz : Bool) (fmt : Nat) (r : Coded) : Coded :=
  if ftz ∧ flushes fmt ∧ isSubnormal (formatOf fmt) r.1 then
    (withSign (formatOf fmt) (signOf (formatOf fmt) r.1) 0, r.2 ||| flagUF ||| flagNX)
  else r

/-! ### Rounding -/

/-- m × 2^(−s) rounded to an integer magnitude under a mode, with whether it changed. -/
def roundShift (neg : Bool) (rm : Rounding) (m : Nat) (s : Int) : Nat × Bool :=
  if s ≤ 0 then (m * 2 ^ (-s).toNat, false)
  else
    let k := s.toNat
    let q := m / 2 ^ k
    let r := m % 2 ^ k
    let up : Bool :=
      match rm with
      | .rne => 2 * r > 2 ^ k || (2 * r = 2 ^ k && q % 2 = 1)
      | .rtz => false
      | .rup => r ≠ 0 && !neg
      | .rdn => r ≠ 0 && neg
    (q + (if up then 1 else 0), r ≠ 0)

/-- The outcome of a finite overflow (R21). -/
def overflowCode (f : Format) (neg : Bool) (rm : Rounding) (sat : Bool) : Nat :=
  let toInf : Bool :=
    match rm with
    | .rne => true
    | .rtz => false
    | .rup => !neg
    | .rdn => neg
  if f.inf ∧ ¬ sat ∧ toInf then infCode f neg else withSign f neg (maxFinite f)

/-- `rnd` of a non-zero finite value (R21). -/
def roundFinite (f : Format) (rm : Rounding) (sat neg : Bool) (m : Nat) (e : Int) : Coded :=
  let top : Int := e + bitLength m - 1
  let emin : Int := 1 - f.bias
  let q : Int := max top emin - f.man
  let (n, inexact) := roundShift neg rm m (q - e)
  let mag := (q - (emin - f.man)).toNat * 2 ^ f.man + n
  if mag > maxFinite f then (overflowCode f neg rm sat, flagOF ||| flagNX)
  else
    let unbounded := (roundShift neg rm m (top - f.man - e)).1
    let tiny : Bool := top < emin && !(top = emin - 1 && unbounded = 2 ^ (f.man + 1))
    (withSign f neg mag,
      if inexact then (if tiny then flagUF ||| flagNX else flagNX) else 0)

/-- `rnd(v, fmt, rm, sat)` (R21); a NaN is not rounded here, R24 converts it. -/
def roundValue (f : Format) (rm : Rounding) (sat : Bool) (v : Value) : Coded :=
  match v with
  | .zero neg => (withSign f neg 0, 0)
  | .fin neg m e => roundFinite f rm sat neg m e
  | .inf neg => if f.inf then (infCode f neg, 0) else (withSign f neg (maxFinite f), flagNV)
  | .nan => (canonicalNaN f, 0)

/-- A NaN code converted to another format (R24). -/
def convertNaN (src dst : Nat) (x : Nat) : Coded :=
  let s := formatOf src
  let d := formatOf dst
  let neg := signOf s x
  if ¬ d.nan then (0, flagNV)
  else if ¬ s.inf then (withSign d neg (canonicalNaN d), 0)
  else
    let fl : BitVec 5 := if isSignalling s x then flagNV else 0
    if ¬ d.inf then (withSign d neg (canonicalNaN d), fl)
    else
      let payload := x % 2 ^ (s.man - 1)
      let p := if s.man ≥ d.man then payload / 2 ^ (s.man - d.man) else payload * 2 ^ (d.man - s.man)
      (withSign d neg ((2 ^ d.exp - 1) * 2 ^ d.man + 2 ^ (d.man - 1) + p), fl)

/-- A floating-point code converted to another format (R21, R24). -/
def convertFloat (src dst : Nat) (rm : Rounding) (sat : Bool) (x : Nat) : Coded :=
  match decode (formatOf src) x with
  | .nan => convertNaN src dst x
  | v => roundValue (formatOf dst) rm sat v

/-! ### Exact values -/

/-- An exact dyadic value m × 2^e. -/
structure Dyadic where
  m : Int
  e : Int
deriving DecidableEq, Repr, Inhabited

/-- The sum of two dyadic values. -/
def Dyadic.add (a b : Dyadic) : Dyadic :=
  let e := min a.e b.e
  ⟨a.m * 2 ^ (a.e - e).toNat + b.m * 2 ^ (b.e - e).toNat, e⟩

/-- The product of two dyadic values. -/
def Dyadic.mul (a b : Dyadic) : Dyadic := ⟨a.m * b.m, a.e + b.e⟩

/-- The opposite of a dyadic value. -/
def Dyadic.neg (a : Dyadic) : Dyadic := ⟨-a.m, a.e⟩

/-- Whether a dyadic value is below another. -/
def Dyadic.lt (a b : Dyadic) : Bool := (a.add b.neg).m < 0

/-- The dyadic value of a finite value, zero for the others. -/
def Value.dyadic (v : Value) : Dyadic :=
  match v with
  | .fin neg m e => ⟨if neg then -(m : Int) else m, e⟩
  | _ => ⟨0, 0⟩

/-- A dyadic value as a value; zero takes the given sign. -/
def Dyadic.value (a : Dyadic) (zeroNeg : Bool) : Value :=
  if a.m = 0 then .zero zeroNeg else .fin (a.m < 0) a.m.natAbs a.e

/-- The sign of a value. -/
def Value.neg (v : Value) : Bool :=
  match v with
  | .zero s => s
  | .fin s _ _ => s
  | .inf s => s
  | .nan => false

/-- Whether a value is a zero. -/
def Value.isZero (v : Value) : Bool :=
  match v with
  | .zero _ => true
  | _ => false

/-- Whether a value is an infinity. -/
def Value.isInf (v : Value) : Bool :=
  match v with
  | .inf _ => true
  | _ => false

/-- The exact sum of two values that are no NaN, none where it is invalid (R21, R127). -/
def addValues (rm : Rounding) (a b : Value) : Option Value :=
  match a, b with
  | .inf s, .inf t => if s = t then some (.inf s) else none
  | .inf s, _ => some (.inf s)
  | _, .inf t => some (.inf t)
  | _, _ =>
    let s := a.dyadic.add b.dyadic
    if a.isZero ∧ b.isZero ∧ a.neg = b.neg then some (.zero a.neg)
    else some (s.value (rm = .rdn))

/-- The exact product of two values that are no NaN, none where it is invalid (R21, R127). -/
def mulValues (a b : Value) : Option Value :=
  let s := xor a.neg b.neg
  if a.isInf ∨ b.isInf then (if a.isZero ∨ b.isZero then none else some (.inf s))
  else some ((a.dyadic.mul b.dyadic).value s)

/-- The first NaN among operand codes, quietened (R23). -/
def firstNaN (f : Format) (xs : List Nat) : Option Nat :=
  (xs.find? (fun x => decode f x = .nan)).map (quieten f)

/-- NV when an operand is a signalling NaN (R24). -/
def signalFlag (f : Format) (xs : List Nat) : BitVec 5 := if xs.any (isSignalling f) then flagNV else 0

/-- The result of an operation whose operands may be NaN and whose exact value may be invalid (R23, R127). -/
def finish (fmt : Nat) (ftz : Bool) (rm : Rounding) (sat : Bool) (xs : List Nat) (v : Option Value) : Coded :=
  let f := formatOf fmt
  match firstNaN f xs with
  | some q => (q, signalFlag f xs)
  | none =>
    match v with
    | none => (canonicalNaN f, flagNV)
    | some v => flushResult ftz fmt (roundValue f rm sat v)

/-- `vfadd` of two codes (R127). -/
def fpAdd (fmt : Nat) (ftz : Bool) (rm : Rounding) (sat : Bool) (a b : Nat) : Coded :=
  let f := formatOf fmt
  let a := flushOperand ftz fmt a
  let b := flushOperand ftz fmt b
  finish fmt ftz rm sat [a, b] (addValues rm (decode f a) (decode f b))

/-- A value with its sign changed. -/
def Value.opposite (v : Value) : Value :=
  match v with
  | .zero s => .zero (!s)
  | .fin s m e => .fin (!s) m e
  | .inf s => .inf (!s)
  | .nan => .nan

/-- `vfsub` of two codes (R127). -/
def fpSub (fmt : Nat) (ftz : Bool) (rm : Rounding) (sat : Bool) (a b : Nat) : Coded :=
  let f := formatOf fmt
  let a := flushOperand ftz fmt a
  let b := flushOperand ftz fmt b
  finish fmt ftz rm sat [a, b] (addValues rm (decode f a) (decode f b).opposite)

/-- `vfmul` of two codes (R127). -/
def fpMul (fmt : Nat) (ftz : Bool) (rm : Rounding) (sat : Bool) (a b : Nat) : Coded :=
  let f := formatOf fmt
  let a := flushOperand ftz fmt a
  let b := flushOperand ftz fmt b
  finish fmt ftz rm sat [a, b] (mulValues (decode f a) (decode f b))

/-- `vfma` of three codes: one rounding; 0 × ∞ with a NaN c gives c quietened and NV (R127). -/
def fpFma (fmt : Nat) (ftz : Bool) (rm : Rounding) (sat : Bool) (a b c : Nat) : Coded :=
  let f := formatOf fmt
  let a := flushOperand ftz fmt a
  let b := flushOperand ftz fmt b
  let c := flushOperand ftz fmt c
  let ab := [a, b]
  if (firstNaN f ab).isNone ∧ decode f c = .nan ∧ (mulValues (decode f a) (decode f b)).isNone then
    (quieten f c, flagNV)
  else
    finish fmt ftz rm sat [a, b, c]
      ((mulValues (decode f a) (decode f b)).bind (fun p => addValues rm p (decode f c)))

/-- Whether a value is below another in the order with −0 below +0, for values that are no NaN (R128). -/
def valueLt (a b : Value) : Bool :=
  match a, b with
  | .inf s, .inf t => s && !t
  | .inf s, _ => s
  | _, .inf t => !t
  | .zero s, .zero t => s && !t
  | _, _ => a.dyadic.lt b.dyadic

/-- minimumNumber or maximumNumber of two codes (R128). -/
def fpMinMax (fmt : Nat) (ftz isMax : Bool) (a b : Nat) : Coded :=
  let f := formatOf fmt
  let a := flushOperand ftz fmt a
  let b := flushOperand ftz fmt b
  let fl := signalFlag f [a, b]
  match decode f a, decode f b with
  | .nan, .nan => (quieten f a, fl)
  | .nan, _ => (b, fl)
  | _, .nan => (a, fl)
  | va, vb =>
    if isMax then (if valueLt va vb then b else a, fl) else (if valueLt vb va then b else a, fl)

/-- Whether two values are equal, −0 equal to +0 (R130). -/
def valueEq (a b : Value) : Bool :=
  match a, b with
  | .inf s, .inf t => s = t
  | .inf _, _ => false
  | _, .inf _ => false
  | _, _ => (a.dyadic.add b.dyadic.neg).m = 0

/-- Whether a value is below another, −0 equal to +0 (R130). -/
def valueLess (a b : Value) : Bool := !valueEq a b && valueLt a b

/-- A floating-point compare (R130): whether it holds, and the flag. -/
def fpCompare (fmt : Nat) (ftz : Bool) (cond a b : Nat) : Bool × BitVec 5 :=
  let f := formatOf fmt
  let a := flushOperand ftz fmt a
  let b := flushOperand ftz fmt b
  let va := decode f a
  let vb := decode f b
  let un : Bool := va = .nan || vb = .nan
  let quiet := signalFlag f [a, b]
  let loud : BitVec 5 := if un then flagNV else 0
  match cond with
  | 0 => (!un && valueEq va vb, quiet)
  | 1 => (un || !valueEq va vb, quiet)
  | 2 => (!un && valueLess va vb, loud)
  | 3 => (!un && (valueLess va vb || valueEq va vb), loud)
  | 4 => (!un && valueLess vb va, loud)
  | 5 => (!un && (valueLess vb va || valueEq va vb), loud)
  | 6 => (!un, quiet)
  | _ => (un, quiet)

/-- The class mask of a code (R131). -/
def fpClass (fmt x : Nat) : Nat :=
  let f := formatOf fmt
  match decode f x with
  | .inf true => 1
  | .fin true _ _ => if isSubnormal f x then 4 else 2
  | .zero true => 8
  | .zero false => 16
  | .fin false _ _ => if isSubnormal f x then 32 else 64
  | .inf false => 128
  | .nan => if isSignalling f x then 256 else 512

/-- A value rounded to an integer under a mode, with whether it changed. -/
def roundInteger (rm : Rounding) (neg : Bool) (m : Nat) (e : Int) : Int × Bool :=
  let (n, inexact) := roundShift neg rm m (-e)
  (if neg then -(n : Int) else n, inexact)

/-- `cvt_int(v, n, signed, rm)` (R26), as an exact integer in range with the flags. -/
def cvtInt (v : Value) (n : Nat) (signed : Bool) (rm : Rounding) : Int × BitVec 5 :=
  let lo : Int := if signed then -(2 ^ (n - 1)) else 0
  let hi : Int := if signed then 2 ^ (n - 1) - 1 else 2 ^ n - 1
  match v with
  | .nan => (0, flagNV)
  | .inf neg => (if neg then lo else hi, flagNV)
  | .zero _ => (0, 0)
  | .fin neg m e =>
    let (i, inexact) := roundInteger rm neg m e
    if i < lo then (lo, flagNV) else if i > hi then (hi, flagNV)
    else (i, if inexact then flagNX else 0)

/-- An integer as a value; zero is +0. -/
def intValue (v : Int) : Value := Dyadic.value ⟨v, 0⟩ false

/-! ### SP8 and block scaling -/

/-- A term of an SP8 code in units of 1/64 (R18). -/
def sp8Term (s c : Nat) : Int :=
  let mag : Int := if c = 7 then 0 else 2 ^ (6 - c)
  if s = 1 then -mag else mag

/-- The value of an SP8 code in units of 1/64 (R18). -/
def sp8Value (x : Nat) : Int := sp8Term (x / 128 % 2) (x / 16 % 8) + sp8Term (x / 8 % 2) (x % 8)

/-- The value of an SP8 code (R18). -/
def sp8Decode (x : Nat) : Value := Dyadic.value ⟨sp8Value x, -6⟩ false

/-- The better of the best SP8 code so far and a code, for the value v × d in units of 1/64: nearer, then of smaller
magnitude, then numerically smaller (R19). -/
def sp8Better (v : Int) (d : Nat) (best code : Nat) : Nat :=
  let dist := fun c : Nat => (v - sp8Value c * d).natAbs
  let mag := fun c : Nat => (sp8Value c).natAbs
  if dist code < dist best ∨ (dist code = dist best ∧ mag code < mag best) then code else best

/-- `sp8_enc(v)` (R19). -/
def sp8Encode (v : Value) : Coded :=
  match v with
  | .nan => (0x77, flagNV)
  | .inf neg => (if neg then 0x88 else 0x00, flagOF ||| flagNX)
  | .zero _ => (0x77, 0)
  | .fin neg m e =>
    let a : Dyadic := ⟨m, e⟩
    if Dyadic.lt ⟨2, 0⟩ a then (if neg then 0x88 else 0x00, flagOF ||| flagNX)
    else
      -- v in units of 1/64 is x / d
      let x : Int := (if neg then -(m : Int) else m) * 2 ^ (e + 6).toNat
      let d : Nat := 2 ^ (-(e + 6)).toNat
      let best := (List.range 256).foldl (sp8Better x d) 0x00
      (if sp8Value best = 0 then 0x77 else best, if sp8Value best * d = x then 0 else flagNX)

/-- The exponent of a scale code of E8M0 other than 0xff (R14). -/
def scaleExp (s : Nat) : Int := (s : Int) - 127

/-- A value scaled by a power of two. -/
def Value.scale (v : Value) (k : Int) : Value :=
  match v with
  | .fin s m e => .fin s m (e + k)
  | v => v

/-- `mx_scale` (R27): the scale code, and the element codes with their flags. -/
def mxScale (elem : Nat) (rm : Rounding) (vs : List Value) : Nat × List Coded :=
  if vs.any (fun v => v = .nan || v.isInf) then (0xff, vs.map (fun _ => (0, 0)))
  else
    let emax : Int := if elem = 5 then 2 else if elem = 4 then 8 else 15
    let tops := vs.filterMap (fun v =>
      match v with
      | .fin _ m e => some (e + bitLength m - 1)
      | _ => none)
    let e : Int :=
      match tops with
      | [] => -127
      | t :: ts => min (max (ts.foldl max t - emax) (-127)) 127
    ((e + 127).toNat, vs.map (fun v => roundValue (formatOf elem) rm true (v.scale (-e))))

/-! ### Matrix accumulation -/

/-- The running state of a chunk sum (R29). -/
structure ChunkSum where
  s : Dyadic
  nan : Bool
  pinf : Bool
  ninf : Bool
deriving DecidableEq, Repr

/-- One product of a chunk (R29). -/
def chunkStep (t : ChunkSum) (a b : Value) : ChunkSum :=
  if a.isZero ∨ b.isZero then t
  else if a = .nan ∨ b = .nan then { t with nan := true }
  else if a.isInf ∨ b.isInf then
    (if a.neg = b.neg then { t with pinf := true } else { t with ninf := true })
  else { t with s := t.s.add (a.dyadic.mul b.dyadic) }

/-- `chunk(acc, a, b)` (R29) on an FP32 accumulator code. -/
def chunk (acc : Nat) (ps : List (Value × Value)) : Nat :=
  let t := ps.foldl (fun t p => chunkStep t p.1 p.2) ⟨⟨0, 0⟩, false, false, false⟩
  let f := formatOf 0
  if t.nan ∨ (t.pinf ∧ t.ninf) then canonicalNaN f
  else
    let v : Value := if t.pinf then .inf false else if t.ninf then .inf true else t.s.value false
    match decode f acc with
    | .nan => canonicalNaN f
    | a =>
      match addValues .rne a v with
      | none => canonicalNaN f
      | some r => (roundValue f .rne false (if r.isZero then .zero false else r)).1

/-! ### Fixed summation orders -/

/-- One level of the pairwise tree of R30. -/
def treeLevel {α : Type} (op : α → α → α) : List (Option α) → List (Option α)
  | a :: b :: r =>
    (match a, b with
      | some x, some y => some (op x y)
      | some x, none => some x
      | none, y => y) :: treeLevel op r
  | [a] => [a]
  | [] => []

/-- `tree_fold` over 32 lanes, none where no lane is present (R30). -/
def treeFold {α : Type} (op : α → α → α) (vs : List (Option α)) : Option α :=
  match treeLevel op (treeLevel op (treeLevel op (treeLevel op (treeLevel op vs)))) with
  | r :: _ => r
  | [] => none

/-- `rank_fold` (R31), none for an empty list. -/
def rankFold {α : Type} (op : α → α → α) : List α → Option α
  | [] => none
  | v :: vs => some (vs.foldl op v)

/-! ### The keyed counter generator -/

/-- `rotl32` (R12). -/
def rotl32 (x : BitVec 32) (n : Nat) : BitVec 32 := x.rotateLeft n

/-- The four words of a state of the generator. -/
structure KcgState where
  w0 : BitVec 32
  w1 : BitVec 32
  w2 : BitVec 32
  w3 : BitVec 32
deriving DecidableEq, Repr, Inhabited

/-- The key schedule word j mod 3 (R32). -/
def kcgKey (key : BitVec 64) (j : Nat) : BitVec 32 :=
  let k0 := key.extractLsb' 0 32
  let k1 := key.extractLsb' 32 32
  match j % 3 with
  | 0 => k0
  | 1 => k1
  | _ => k0 ^^^ k1 ^^^ 0x1bd11bda

/-- `inject(j)` (R32). -/
def kcgInject (key : BitVec 64) (j : Nat) (s : KcgState) : KcgState :=
  { w0 := s.w0 + kcgKey key j, w1 := s.w1 + kcgKey key (j + 1), w2 := s.w2 + kcgKey key (j + 2),
    w3 := s.w3 + BitVec.ofNat 32 j }

/-- Round i of the generator (R32). -/
def kcgRound (key : BitVec 64) (i : Nat) (s : KcgState) : KcgState :=
  let rotA := [16, 12, 8, 24].getD (i % 4) 0
  let rotB := [20, 4, 28, 12].getD (i % 4) 0
  let w0 := s.w0 + s.w1
  let w1 := rotl32 s.w1 rotA ^^^ w0
  let w2 := s.w2 + s.w3
  let w3 := rotl32 s.w3 rotB ^^^ w2
  let t : KcgState := ⟨w0, w3, w2, w1⟩
  if i % 2 = 1 then kcgInject key ((i + 1) / 2) t else t

/-- `kcg(key, ctr)` on the words of the counter (R32). -/
def kcg (key : BitVec 64) (ctr : KcgState) : KcgState :=
  (List.range 8).foldl (fun s i => kcgRound key i s) (kcgInject key 0 ctr)

/-- `draw(l)` (R33). -/
def draw (rkey drawctr : BitVec 64) (l : Nat) : BitVec 32 :=
  (kcg rkey ⟨drawctr.extractLsb' 0 32, drawctr.extractLsb' 32 32, BitVec.ofNat 32 l, 1⟩).w0

/-- `draw_f(l)` (R33): the FP32 code of (w0 >> 8) × 2^−24. -/
def drawF (rkey drawctr : BitVec 64) (l : Nat) : BitVec 32 :=
  let n := (draw rkey drawctr l).toNat / 256
  BitVec.ofNat 32 (roundValue (formatOf 0) .rne false (Dyadic.value ⟨n, -24⟩ false)).1

/-- `dune_u(i)` (R33). -/
def duneU (key : BitVec 64) (i p k : Nat) : Nat :=
  (kcg key ⟨BitVec.ofNat 32 i, BitVec.ofNat 32 p, BitVec.ofNat 32 k, 2⟩).w0.toNat % 65536

/-! ### The dune sigmoid -/

/-- The fixed-point one of the sigmoid: 2^96. -/
def sigOne : Nat := 2 ^ 96

/-- Terms of the series of e^(−1/32) in fixed point, even terms added and odd terms subtracted. -/
def expSeries : Nat → Nat → Nat → Int
  | 0, _, _ => 0
  | fuel + 1, k, t => (if k % 2 = 0 then (t : Int) else -(t : Int)) + expSeries fuel (k + 1) (t / (32 * (k + 1)))

/-- e^(−1/32) in fixed point. -/
def expStep : Nat := (expSeries 24 0 sigOne).toNat

/-- e^(−n/32) in fixed point, by binary powers. -/
def expPower : Nat → Nat → Nat → Nat
  | 0, _, _ => sigOne
  | fuel + 1, n, b =>
    let r := expPower fuel (n / 2) (b * b / sigOne)
    if n % 2 = 1 then r * b / sigOne else r

/-- The sigmoid table S (R35): the nearest integer of 65,536 / (1 + e^(−x/32)), at most 65,535. -/
def sigmoid (x : Int) : Nat :=
  let p := expPower 10 x.natAbs expStep
  let num := if x < 0 then 65536 * p else 65536 * sigOne
  let den := sigOne + p
  min 65535 ((2 * num + den) / (2 * den))

end Sys2Proof.Machine
end

