-- ==== Sys2Proof/Machine/Ops.lean ====
section
/-!
DEFINITION. The named operations of the machine: actions of the path in focus, registers, loads and stores, taking a
trap, the end of a caravan (R86, R87, R103, R377 to R385, R393, R394).
-/

namespace Sys2Proof.Machine

/-- Why an action does not complete: a fault of R384, a stall of R88 and R245, the abandonment of the running burst
(R375), an access that a precise stop holds back, which leaves the instruction without effect (R428), or a stop of the
machine. -/
inductive Stop where
  | trap (code cause : Nat) (addr : Word)
  | stall (r : Stall)
  | abandon
  | hold
  | fault (f : Fault)
deriving DecidableEq, Repr, Inhabited

/-- An action on the state that may stop. -/
abbrev Act := EStateM Stop State

/-- A fault raised with its cause and the value of `trapaddr` (R379, R384). -/
def raise {α : Type} (code cause : Nat) (addr : Word := 0) : Act α := throw (.trap code cause addr)

/-- A fault raised where a condition fails. -/
def check (ok : Bool) (code cause : Nat) (addr : Word := 0) : Act Unit := if ok then pure () else raise code cause addr

/-- A stall (R88). -/
def stall {α : Type} (r : Stall) : Act α := throw (.stall r)

/-- What an action comes to, its stop given as a value. -/
def attempt {α : Type} (x : Act α) : Act (Except Stop α) := fun s =>
  match x.run s with
  | .ok a t => .ok (.ok a) t
  | .error e t => .ok (.error e) t

/-- The first of the stops that outranks a fault: a stall, an abandonment, a hold or a stop of the machine. -/
def firstWait {α : Type} : List (Except Stop α) → Option Stop
  | [] => none
  | .error (.trap _ _ _) :: r => firstWait r
  | .error e :: _ => some e
  | .ok _ :: r => firstWait r

/-- The fault of the lowest code, the first of those: PAGE_FAULT, PROTECTION and POISON stand in this order in R86. -/
def lowestTrap {α : Type} : List (Except Stop α) → Option (Nat × Nat × Word)
  | [] => none
  | .error (.trap code cause addr) :: r =>
    (match lowestTrap r with
    | some x => if x.1 < code then some x else some (code, cause, addr)
    | none => some (code, cause, addr))
  | _ :: r => lowestTrap r

/-- The values of actions that completed. -/
def completed {α : Type} : List (Except Stop α) → List α
  | [] => []
  | .ok a :: r => a :: completed r
  | .error _ :: r => completed r

/-- Several accesses of one word: each is made, and where one stops, a wait comes first, then what `verify` says of the values
read, and then the fault that R86 puts first. -/
def inRank {α : Type} (xs : List (Act α)) (verify : α → Act Unit := fun _ => pure ()) : Act (List α) := do
  let rs ← xs.mapM attempt
  match firstWait rs with
  | some e => throw e
  | none => pure ()
  (completed rs).forM verify
  match lowestTrap rs with
  | some (code, cause, addr) => raise code cause addr
  | none => pure ()
  pure (completed rs)

/-- The state changed. -/
def update (f : State → State) : Act Unit := modify f

/-- The path in focus, with its caravan and its block. -/
structure Me where
  core : Nat
  slot : Nat
  p : Nat
  key : Nat
  car : Caravan
  path : Path
  blk : Block

/-- The path in focus of a state. -/
def State.me? (s : State) : Option Me :=
  match s.focus with
  | .path core slot p =>
    match s.caravan? (carKey core slot) with
    | none => none
    | some c =>
      match Tab.get? c.paths p, Tab.get? s.blocks c.block with
      | some x, some b => some ⟨core, slot, p, carKey core slot, c, x, b⟩
      | _, _ => none
  | _ => none

/-- The path in focus. -/
def me : Act Me := do
  match (← get).me? with
  | some m => pure m
  | none => throw (.fault .noAgent)

/-- The caravan in focus changed. -/
def modCar (f : Caravan → Caravan) : Act Unit := do
  let m ← me
  update (fun s => s.modCaravan m.key f)

/-- The path in focus changed. -/
def modMyPath (f : Path → Path) : Act Unit := do
  let m ← me
  update (fun s => s.modPath m.key m.p f)

/-- A number that no undefined value has yet used (DESIGN CHOICE, log entry 13). -/
def drawFree : Act Nat := do
  let s ← get
  set { s with free := s.free + 1 }
  pure s.free

/-- An undefined value of `w` bits (R3). -/
def freeBits (w : Nat) : Act (BitVec w) := do
  pure (BitVec.ofNat w (Config.freeNat (← drawFree) 0))

/-- A new number for an operation. -/
def freshUid : Act Nat := do
  let s ← get
  set s.fresh.2
  pure s.fresh.1

/-! ### Registers -/

/-- A scalar register as an instruction of the path reads it; a PC-match handler reads its shadow `s1` to `s15` (R38,
R425). -/
def Me.reg (m : Me) (n : Nat) : Word :=
  if m.path.handler.isSome ∧ 1 ≤ n ∧ n ≤ 15 then Tab.getD m.car.shadow n 0 else m.car.sreg n

/-- A scalar register read. -/
def reg (n : BitVec 6) : Act Word := do
  pure ((← me).reg n.toNat)

/-- A scalar register written; a write to `s0` is discarded (R38). -/
def setRegNat (n : Nat) (v : Word) : Act Unit := do
  let m ← me
  if m.path.handler.isSome ∧ 1 ≤ n ∧ n ≤ 15 then modCar (fun c => { c with shadow := Tab.set c.shadow n v })
  else modCar (fun c => c.setSreg n v)

/-- A scalar register written. -/
def setReg (n : BitVec 6) (v : Word) : Act Unit := setRegNat n.toNat v

/-- Whether every burst that a path enqueued has ended (R87). -/
def Path.drained (x : Path) : Bool := x.burst.isNone && x.laneq.isEmpty

/-- `drain()` (R87): a stall for a data dependence until every burst of the path has ended. -/
def drain : Act Unit := do
  if (← me).path.drained then pure () else stall .data

/-! ### Fences and arrivals -/

/-- The kinds of a pending fence: a full fence, an acquire fence, a release fence, and `relflush` (R161, R162). -/
def fenceFull : Nat := 0
/-- `.acq`. -/
def fenceAcq : Nat := 1
/-- `.rel`. -/
def fenceRel : Nat := 2
/-- `relflush`. -/
def fenceFlush : Nat := 3

/-- The lines that a pair unit holds return to their home slices (R151, R162). -/
def State.returnPairLines (s : State) (core : Nat) : State :=
  { s with pairLines := s.pairLines.filter (fun p => p.2 ≠ core / 2) }

/-- A fence takes effect, the bursts before it having committed (R161, R162): the path's stores are performed; a full or
a release fence gives later stores the effect of a release at its scope; a full fence at a scope beyond the core also
pushes the core's dirty sectors; an acquire or a full fence makes the path's earlier loads acquires, by the release records
that stood at the locations when they were read, and drops the copies fetched before; `relflush` pushes every dirty sector and returns the pair unit's lines. -/
def State.fenceEffect (s : State) (key p kind scope : Nat) : State :=
  match s.caravan? key with
  | none => s
  | some c =>
    let core := key / 64
    let wide : Bool := scope ≥ 2 || (match Tab.get? s.blocks c.block with
      | some b => b.halves.length > 1
      | none => false)
    let s1 := s.drainStores key p
    let rel := fun x : Path => { x with relScope := max x.relScope scope }
    let locs := match Tab.get? c.paths p with
      | some x => x.loaded
      | none => []
    let acquire (t : State) : State := locs.foldl (fun t l => t.pullRecords core c.block scope l.2.2) t
    if kind = fenceFlush then (s1.pushAll core).returnPairLines core
    else if kind = fenceRel then s1.modPath key p rel
    else if kind = fenceAcq then
      let s2 := if wide then (acquire s1).modCore core Core.dropClean else s1
      s2.modPath key p (fun x => { x with loaded := [] })
    else
      let s2 := if wide then ((acquire s1).pushAll core).modCore core Core.dropClean else s1
      s2.modPath key p (fun x => { rel x with loaded := [] })

/-- A group with the arrival of a member counted; the phase toggles when the last member arrives (R57). -/
def Group.arrive (g : Group) (half slot : Nat) : Group :=
  let bit : BitVec 64 := BitVec.ofNat 64 (2 ^ slot)
  let h : Group :=
    if half = 0 then { g with arr := g.arr ||| bit, arrived := g.arrived + 1 }
    else { g with partnerArr := g.partnerArr ||| bit, arrived := g.arrived + 1 }
  if h.arr = h.members ∧ h.partnerArr = h.partner then
    { h with arr := 0, partnerArr := 0, arrived := 0, phase := !h.phase }
  else h

/-- Whether a member's arrival is counted in the group's current phase (R57). -/
def Group.counted (g : Group) (half slot : Nat) : Bool :=
  (if half = 0 then g.arr else g.partnerArr).toNat / 2 ^ slot % 2 = 1

/-- Whether a group spans the two cores of a pair (R57). -/
def Group.spans (g : Group) : Bool := g.members ≠ 0 && g.partner ≠ 0

/-- Whether an arrival of a caravan at a group waits to be counted (R262). -/
def Caravan.arriving (c : Caravan) (g : Nat) : Bool := c.paths.any (fun x => x.2.arrivals.any (fun a => a.1 = g))

/-- The arrival of a caravan at group `g` counted (R57, R108, R262): its accesses are performed at the group's scope
first. A group whose abandoned bit is set counts nothing, and a divided caravan counts once a phase (R109). -/
def State.countArrival (s : State) (key p g : Nat) : State :=
  match s.caravan? key with
  | none => s
  | some c =>
    match (Tab.get? s.blocks c.block).bind (fun b => b.groups[g]?) with
    | none => s
    | some gr =>
      let s1 := s.drainStores key p
      let s2 := if gr.spans then (s1.pushAll (key / 64)).returnPairLines (key / 64) else s1
      if gr.abandoned || gr.counted c.half (key % 64) then s2
      else
        let new := gr.arrive c.half (key % 64)
        let s3 := s2.modBlock c.block (fun b => { b with groups := b.groups.set g new })
        if new.phase = gr.phase then s3
        else
          let clear := fun x : Path => { x with arrived := x.arrived.filter (· ≠ g), arrivals := x.arrivals.filter (·.1 ≠ g) }
          { s3 with caravans := s3.caravans.map (fun k =>
              if k.2.block = c.block then (k.1, { k.2 with paths := k.2.paths.map (fun x => (x.1, clear x.2)) }) else k) }

/-- The queued operations of an engine that wait for bursts of a path, after `n` more of them have ended (R205). -/
def Matrix.afterBursts (m : Matrix) (key p n : Nat) : Matrix :=
  { m with queue := m.queue.map (fun o => if o.issuer = key ∧ o.path = p then { o with bursts := o.bursts - n } else o) }

/-- The queued commands of a dune array that wait for bursts of a path, after `n` more of them have ended (R213). -/
def Dune.afterBursts (d : Dune) (key p n : Nat) : Dune :=
  { d with queue := d.queue.map (fun o => if o.issuer = key ∧ o.path = p then { o with bursts := o.bursts - n } else o) }

/-- A release record after `n` more bursts of a path have ended (R160): once it covers none that has not committed, what
they left dirty belongs to the release. -/
def ReleaseRecord.afterBursts (r : ReleaseRecord) (uid p n : Nat) (dirty : List Nat) : ReleaseRecord :=
  match r.owed with
  | some (k, q, m) =>
    if k = uid ∧ q = p then
      if m ≤ n then { r with owed := none, sectors := (r.sectors ++ dirty).eraseDups } else { r with owed := some (k, q, m - n) }
    else r
  | none => r

/-- The release records of the package after `n` more bursts of a path have ended: `dirty` are the sectors of its core. -/
def State.settleReleases (s : State) (uid p n : Nat) (dirty : List Nat) : State :=
  { s with releases := s.releases.map (fun r => (r.1, r.2.afterBursts uid p n dirty)) }

/-- What a path has performed made visible at package scope (R320, R321): its stores, pushed to their homes. -/
def State.releasePath (s : State) (key p : Nat) : State :=
  ((s.drainStores key p).pushAll (key / 64)).returnPairLines (key / 64)

/-- The bursts of a path that a record's emits cover, after `n` more of them have ended (R320). -/
def RecordSlot.afterBursts (r : RecordSlot) (uid p n : Nat) : RecordSlot :=
  { r with owed := r.owed.filterMap (fun o =>
      if o.1 = uid ∧ o.2.1 = p then (if o.2.2 ≤ n then none else some (uid, p, o.2.2 - n)) else some o) }

/-- Whether a record covers bursts of a path. -/
def RecordSlot.covers (r : RecordSlot) (uid p : Nat) : Bool := r.owed.any (fun o => o.1 = uid && o.2.1 = p)

/-- The records of the package after `n` more bursts of a path have ended (R320). -/
def State.settleRecords (s : State) (uid p n : Nat) : State :=
  let runs := s.graphs.filterMap (fun g => g.2.run)
  if runs.any (fun r => r.nodes.any (fun d => d.2.pool.any (fun x => x.2.covers uid p))) then
    let node (d : Node) : Node := { d with pool := d.pool.map (fun x => (x.1, x.2.afterBursts uid p n)) }
    let slot (g : GraphSlot) : GraphSlot :=
      { g with run := g.run.map (fun r => { r with nodes := r.nodes.map (fun d => (d.1, node d.2)) }) }
    { s with graphs := s.graphs.map (fun g => (g.1, slot g.2)) }
  else s

/-- What a path has stored is released with the records that cover its bursts (R320). -/
def State.releaseOwed (s : State) (key uid p : Nat) : State :=
  let runs := s.graphs.filterMap (fun g => g.2.run)
  if runs.any (fun r => r.nodes.any (fun d => d.2.pool.any (fun x => x.2.covers uid p))) then s.releasePath key p else s

/-- What waits for bursts of a path after `n` more of them have ended: the fences and arrivals that wait for none any
longer take effect in their order (R161, R205, R262), and the stores and releases behind them may be performed (R159,
R160). -/
def State.afterBursts (s : State) (key p n : Nat) : State :=
  match (s.caravan? key).bind (fun c => (Tab.get? c.paths p).map (fun x => (c.uid, x))) with
  | none => s
  | some (uid, x) =>
    let s0 := ((s.settleReleases uid p n (s.core (key / 64)).dirtySectors).modMatrix (key / 64) (fun m => m.afterBursts key p n)).modDune (key / 64)
      (fun d => d.afterBursts key p n)
    let s1 := s0.modPath key p (fun x =>
      { x with fences := (x.fences.filter (fun f => n < f.1)).map (fun f => (f.1 - n, f.2)),
               storeq := x.storeq.map (fun e => { e with after := e.after - n }),
               arrivals := (x.arrivals.filter (fun a => n < a.2)).map (fun a => (a.1, a.2 - n)) })
    let s2 := (x.fences.filter (fun f => f.1 ≤ n)).foldl (fun t f => t.fenceEffect key p f.2.1 f.2.2) s1
    (((x.arrivals.filter (fun a => a.2 ≤ n)).foldl (fun t a => t.countArrival key p a.1) s2).releaseOwed key uid p).settleRecords
      uid p n

/-- The entries of a caravan's lane-issue queues removed, and what waits for them goes on (R378, R381). -/
def State.dropBursts (s : State) (key : Nat) : State :=
  match s.caravan? key with
  | none => s
  | some c =>
    c.paths.foldl (fun t x =>
      (t.modPath key x.1 (fun y => { y with burst := none, laneq := [] })).afterBursts key x.1 x.2.laneq.length) s

/-! ### Records in stack memory -/

/-- Whether an address range lies in a caravan's own stack area (R51). -/
def inStack (c : Caravan) (bytes va n : Nat) : Bool := c.stkbase.toNat ≤ va + bytes && va + n ≤ c.stkbase.toNat

/-- The physical address of a virtual one as the tables stand, without any effect. -/
def State.peek (s : State) (core ctx : Nat) (va : Word) : Option Nat :=
  if ¬ canonical va then none
  else
    match (Tab.get? (s.core core).tlb (pageOf va)).filter (fun t => t.ctx = ctx) with
    | some t => some (physical t va)
    | none =>
      match s.walk ctx (pageOf va) .read with
      | .leaf t => some (physical t va)
      | _ => none

/-- The private stack area, of a caravan other than one, that holds an address of a context (R51): of a caravan that runs or of
one that is saved. -/
def State.stackOwner (s : State) (ctx key va : Nat) : Option Place :=
  match s.caravans.find? (fun p =>
    p.1 ≠ key &&
      (match Tab.get? s.blocks p.2.block with
        | some b => b.ctx = ctx && inStack p.2 b.stackBytes va 1
        | none => false)) with
  | some p => some (.stack p.1)
  | none => s.saved.findSome? (fun b =>
      if b.2.block.ctx = ctx then
        (b.2.caravans.find? (fun p => inStack p.2 b.2.block.stackBytes va 1)).map (fun p => .savedStack b.1 p.1)
      else none)

/-- Where the bytes of a store at a translated address go (R51, R95, R361): the caravan's own stack cache, another
caravan's stack area, whose owner's bytes become undefined, another package, or memory. -/
def State.storePlace (s : State) (key : Nat) (c : Caravan) (b : Block) (t : Translation) (va : Nat) (bs : List Byte) :
    StoreEntry × State :=
  let at_ := t.base + va % 65536
  match s.stackOwner b.ctx key va with
  | some pl =>
    ({ place := pl, addr := va, bytes := bs.mapIdx (fun i _ => BitVec.ofNat 8 (Config.freeNat s.free i)) },
      { s with free := s.free + 1 })
  | none =>
    if inStack c b.stackBytes va bs.length then ({ place := .stack key, addr := va, bytes := bs }, s)
    else
      match t.package with
      | some k => ({ place := .remote k, addr := at_, bytes := bs }, s)
      | none => ({ place := .mem, addr := at_, bytes := bs }, s)

/-- What comes of bytes that the core itself writes at an address of a caravan: they are written, the page faults, or the
access waits for its page. -/
inductive Put where
  | done (s : State)
  | fault (code cause : Nat) (s : State)
  | wait (s : State)

/-- Bytes of one page that the core writes at an address of a caravan (R50, R188, R380). -/
def State.putPart (s : State) (key : Nat) (va : Word) (bs : List Byte) : Put :=
  match (s.caravan? key).bind (fun c => (Tab.get? s.blocks c.block).map (fun b => (c, b))) with
  | none => .done s
  | some (c, b) =>
    if inStack c b.stackBytes va.toNat bs.length then .done (s.stackStore key va.toNat bs)
    else
      match s.walkServe b.ctx va .write with
      | .fault code cause t => .fault code cause t
      | .wait t => .wait t
      | .leaf t u =>
        let (e, v) := u.storePlace key c b t va.toNat bs
        .done (v.perform key 0 e)

/-- Bytes that the core writes at an address of a caravan: a divergence entry or a `callv` record (R50, R102), the record of an
adopter (R188), a trap frame (R380). -/
def State.putBytes (s : State) (key : Nat) (va : Word) (bs : List Byte) : Put :=
  let n := 65536 - va.toNat % 65536
  if bs.length ≤ n then s.putPart key va bs
  else
    match s.putPart key va (bs.take n) with
    | .done t => t.putPart key (va + BitVec.ofNat 64 n) (bs.drop n)
    | x => x

/-- A byte at an address of a caravan as the core reads it back (R188): from the stack cache, else from memory, and an undefined
value where the page cannot be read. -/
def State.ownByte (s : State) (key : Nat) (va : Word) : Byte :=
  match (s.caravan? key).bind (fun c => (Tab.get? s.blocks c.block).map (fun b => (c, b))) with
  | none => 0
  | some (c, b) =>
    match Tab.get? c.stack va.toNat, s.peek (key / 64) b.ctx va with
    | some v, _ => v
    | none, some a => s.l1Byte (key / 64) a
    | none, none => BitVec.ofNat 8 (Config.freeNat s.free (2 ^ 34 + va.toNat))

/-- The 16 words of an adopter's record (R188): its own `s1` to `s15` and the SPC of its `capin` (DESIGN CHOICE, log entry 25). -/
def State.adopterRecord (s : State) (key : Nat) (at_ : Word) : List Word × Word :=
  let word (i : Nat) : Word :=
    BitVec.ofNat 64 (leNat ((List.range 8).map (fun j => s.ownByte key (at_ + BitVec.ofNat 64 (8 * i + j)))))
  ((List.range 15).map word, word 15)

/-! ### The end of a caravan -/

/-- The members of a group that have not ended (R57, R242). -/
def State.groupAlive (s : State) (bid : Nat) (b : Block) (g : Group) : Bool :=
  b.halves.zipIdx.any (fun (h, i) => h.slots.any (fun slot =>
    (if i = 0 then g.members else g.partner).toNat / 2 ^ slot % 2 = 1 &&
      (match s.caravan? (carKey h.core slot) with
        | some c => c.block = bid
        | none => false)))

/-- Whether a caravan place is a member of a group. -/
def Group.has (g : Group) (half slot : Nat) : Bool := (if half = 0 then g.members else g.partner).toNat / 2 ^ slot % 2 = 1

/-- A caravan that claims lane registers: those from its old count up are undefined (R39, R111). -/
def Caravan.claimLanes (c : Caravan) (n seed : Nat) : Caravan :=
  let fill := match c.lanes.fill with
    | .zero => .zeroUnits 256 (List.range (c.lbud / 8)) seed
    | f => f.keepUnits (· < c.lbud / 8)
  { c with lanes := { c.lanes with fill := fill }, lbud := c.lbud + n }

/-- Claims of a half served from its pool, in the order they were queued (R112). A claim that would raise `lbud` above 256
leaves the queue unserved, and its `rclaim` raises ILLEGAL_OP (R111). -/
def State.serveClaims (s : State) (b h : Nat) : Nat → State
  | 0 => s
  | fuel + 1 =>
    match (Tab.get? s.blocks b).bind (fun x => x.half? h) with
    | none => s
    | some half =>
      match half.claims with
      | [] => s
      | (key, p, n) :: r =>
        let above : Bool := match s.caravan? key with
          | some c => 256 < c.lbud + n
          | none => false
        if above then State.serveClaims (s.modHalf b h (fun x => { x with claims := r })) b h fuel
        else if half.pool < n then s
        else
          let s1 := s.modHalf b h (fun x => { x with pool := x.pool - n, claims := r })
          let s2 := { s1.modCaravan key (fun c => c.claimLanes n s.free) with free := s.free + 1 }
          State.serveClaims (s2.modPath key p (fun x => { x with token := some true })) b h fuel

/-- A pending fault of a failed command recorded for the context as an asynchronous fault (R173, R383, R385), with the
`trappc` image of the instruction that issued the command. -/
def State.asyncFault (s : State) (ctx blockId tag : Nat) (code cause : Nat) (addr pc : Word) : State :=
  let bid := match Tab.get? s.blocks blockId with
    | some b => b.bid
    | none => 0
  let handle := match (Tab.get? s.blocks blockId).bind (fun b => Tab.get? s.launches b.launch) with
    | some l => l.handle
    | none => 0
  let s1 := s.logFault ctx [recordWord code cause 1 tag, pc, addr, BitVec.ofNat 64 (bid + 2 ^ 32 * handle), 0, 0, 0, 0]
  s1.modBlock blockId (fun b => { b with faulted := some (match b.faulted with
    | some c => min c code
    | none => code) })

/-- The record waits of a caravan withdrawn, and what a launcher has served it dropped (R318, R324). -/
def State.dropWaits (s : State) (key : Nat) : State :=
  let node (n : Node) : Node := { n with waiters := n.waiters.filter (fun w => w.path / 2 ≠ key),
                                         served := n.served.filter (fun w => w.1 / 2 ≠ key) }
  match (s.caravan? key).bind (fun c => (Tab.get? s.blocks c.block).bind (fun b => b.record)) with
  | some r => s.modRun r.graph (fun g => { g with nodes := g.nodes.map (fun n => (n.1, node n.2)) })
  | none => s

/-- The page walks of a core that a path no longer waits for (R374): a walk that has found a fault ends with its last waiter. -/
def Core.dropWalks (c : Core) (mine : Nat → Bool) : Core :=
  let settled (w : Walk) : Bool := w.result.isSome && w.waiters.any mine && w.waiters.all mine
  { c with walks := (c.walks.filter (fun w => !settled w)).map (fun w => { w with waiters := w.waiters.filter (fun x => !mine x) }) }

/-- The other core of a block of a core. -/
def State.followerOf (s : State) (o : MatrixOp) (core : Nat) : Option Nat :=
  match Tab.get? s.blocks o.block with
  | some b => (b.halves.find? (fun h => h.core ≠ core)).map (fun h => h.core)
  | none => none

/-- The cores that an operation at the head of a core's queue spans (R197, R202). -/
def State.spans (s : State) (o : MatrixOp) (core : Nat) : List Nat :=
  match o.form with
  | .mma _ true => core :: (s.followerOf o core).toList
  | _ => [core]

/-- The quarters of an operation's tag on a core, in quadrant order, none where one is missing (R196, R200). -/
def State.quarters (s : State) (o : MatrixOp) (core : Nat) : Option (List (BitVec 4096)) :=
  (List.range 4).mapM (fun q =>
    ((s.core core).mat.posts.find? (fun p => p.quad = q && p.block = o.block && p.group = o.group && p.seq = o.seq)).map
      Post.data)

/-- Whether an operation is an `mma`. -/
def MatrixOp.isMma (o : MatrixOp) : Bool :=
  match o.form with
  | .mma _ _ => true
  | _ => false

/-- The queued operations of a core that wait for posts of an abandoned group are aborted (R203, R242). -/
def State.abandonPosts (s : State) (block : Nat) (groups : List Nat) (core : Nat) : State :=
  let waits (o : MatrixOp) : Bool :=
    o.isMma && o.block = block && groups.contains o.group && (s.spans o core).any (fun k => (s.quarters o k).isNone)
  s.modMatrix core (fun m => { m with queue := m.queue.map (fun o => if waits o then { o with abort := true } else o) })

/-- A caravan ends as `done` ends it (R103): its registers return to the pool, its groups become abandoned (R242), its
pending engine faults become asynchronous (R173), and its place is free. -/
def State.endCaravan (s : State) (key : Nat) : State :=
  match s.caravan? key with
  | none => s
  | some c =>
    let tag := s.tagOf key
    let close (t : State) (p : Nat × Path) : State :=
      ((t.modPath key p.1 (fun x => { x with fences := [], arrivals := [] })).afterBursts key p.1 p.2.laneq.length).drainStores
        key p.1
    let s0 := c.paths.foldl close s
    let s1 := (s0.dropWaits key).modCore (key / 64) (fun k => k.dropWalks (· / 2 = key))
    let s2 := { s1 with caravans := Tab.erase s1.caravans key,
                        capWaiters := s1.capWaiters.map (fun w => (w.1, w.2.filter (fun x => x / 2 ≠ key))) }
    match Tab.get? s2.blocks c.block with
    | none => s2
    | some b =>
      let groups := b.groups.map (fun g =>
        if g.has c.half (key % 64) && s2.groupAlive c.block b g then { g with abandoned := true } else g)
      let lost := (groups.zipIdx.filter (fun g => g.1.abandoned)).map Prod.snd
      let s2 := b.halves.foldl (fun t h => t.abandonPosts c.block lost h.core) s2
      let s3 := { s2 with blocks := Tab.set s2.blocks c.block { b with groups := groups, live := b.live - 1 } }
      let s4 := s3.modHalf c.block c.half (fun h =>
        { h with pool := h.pool + c.lbud, claims := h.claims.filter (fun q => q.1 ≠ key) })
      let s5 := s4.serveClaims c.block c.half 32
      c.engineFaults.foldl (fun t f => t.asyncFault b.ctx c.block tag f.code f.cause f.addr f.pc) s5

/-! ### Capsule cells -/

/-- The header words of a capsule cell (R177). -/
structure CellHeader where
  state : Nat
  step : Nat
  generation : Nat
  holder : Nat
  behalf : Nat
  glineEn : Bool
  gline : Nat
  ctx : Nat
deriving DecidableEq, Repr

/-- The header of a cell at its home (R177): undefined values in a line on which no `capinit` has been performed. -/
def State.cellHeader (s : State) (cell : Nat) : CellHeader :=
  let w := if s.cells.contains cell then s.homeNat cell 64 else Config.freeNat s.free (2 ^ 33 + cell)
  { state := fld w 0 2, step := fld w 8 5, generation := fld w 32 32, holder := fld w 64 32, behalf := fld w 96 32,
    glineEn := fld w 128 1 = 1, gline := fld w 129 39, ctx := fld w 176 16 }

/-- The bits of a header (R177). -/
def CellHeader.image (h : CellHeader) : Nat :=
  h.state + 2 ^ 8 * h.step + 2 ^ 32 * h.generation + 2 ^ 64 * h.holder + 2 ^ 96 * h.behalf
    + 2 ^ 128 * h.glineEn.toNat + 2 ^ 129 * h.gline + 2 ^ 176 * h.ctx

/-- The header of a cell written at its home. -/
def State.setCellHeader (s : State) (cell : Nat) (h : CellHeader) : State :=
  s.homeStore cell (leBytes 64 h.image) false

/-- The cell state codes of R177. -/
def cellFree : Nat := 0
/-- HELD. -/
def cellHeld : Nat := 1
/-- ORPHANED. -/
def cellOrphaned : Nat := 2
/-- DONE. -/
def cellDone : Nat := 3

/-- The waiters of a cell, in the order their `capin` reached its home slice (R181). -/
def State.waitersOf (s : State) (cell : Nat) : List Nat := Tab.getD s.capWaiters cell []

/-- Whether a row of R187 lets a waiter's `capin` take or adopt a cell. A release of the cell that covers bursts which have
not committed holds it until they have (R160, R184). -/
def State.mayTake (s : State) (cell : Nat) (h : CellHeader) (w : Nat) : Bool :=
  match s.caravan? (w / 2) with
  | none => false
  | some c =>
    !(s.owes cell 64) && (h.state = cellFree || (h.state = cellOrphaned && (match Tab.get? s.blocks c.block with
      | some b => b.ctx = h.ctx
      | none => false)))

/-- The checkpoint of a cell (R178): `s1` to `s15`, the resume SPC and the step. -/
def State.checkpoint (s : State) (cell : Nat) : List Word × Word × Nat :=
  let w := s.homeNat (cell + 184) 8
  ((List.range 15).map (fun i => BitVec.ofNat 64 (s.homeNat (cell + 64 + 8 * i) 8)),
    (BitVec.ofNat 48 w).signExtend 64, fld w 48 5)

/-- The checkpoint of a cell written at its home (R178). -/
def State.setCheckpoint (s : State) (cell : Nat) (c : Caravan) (spc : Word) (step : Nat) : State :=
  let regs := (List.range 15).map (fun i => c.sreg (i + 1))
  let last : Word := BitVec.ofNat 64 (spc.toNat % 2 ^ 48 + 2 ^ 48 * step)
  s.homeStore (cell + 64) ((regs ++ [last]).foldr (fun w bs => leBytes 8 w.toNat ++ bs) []) false

/-- A caravan with `s1` up written. -/
def Caravan.setRegs (c : Caravan) (vs : List Word) : Caravan :=
  vs.zipIdx.foldl (fun d (v, i) => d.setSreg (i + 1) v) c

/-- The guarded line that a header sets, as a virtual address. -/
def CellHeader.guard (h : CellHeader) : Option Nat :=
  if h.glineEn then some ((BitVec.ofNat 48 (h.gline * 512)).signExtend 64).toNat else none

/-- A waiter no longer waits for a cell. -/
def State.leaveCell (s : State) (cell w : Nat) : State :=
  { s with capWaiters := Tab.set s.capWaiters cell ((s.waitersOf cell).filter (· ≠ w)) }

/-- A fault that a path raises between its instructions, delivered once it has drained. -/
def State.raiseLater (s : State) (key p code cause : Nat) (addr spc : Word) : State :=
  let t : Trap := { code := code, cause := cause, addr := addr, pc := BitVec.ofNat 64 (spc.toNat % 2 ^ 48 / 4 * 4), resume := spc,
                    removed := [] }
  s.modPath key p (fun y => { y with pending := some t, stall := some .faultPending })

/-- A waiter takes a FREE cell, takes over its own capsule, or adopts an ORPHANED one (R181, R187, R188). The record of an
adoption that does not fit raises STACK_LIMIT, one whose page cannot be stored to raises that fault, and both leave the cell
as it is; the waiter goes on waiting while the page is served. -/
def State.takeCell (s : State) (cell : Nat) (h : CellHeader) (w : Nat) : State :=
  let key := w / 2
  let p := w % 2
  let tag := s.tagOf key
  let left := s.leaveCell cell w
  match s.caravan? key with
  | none => left
  | some c0 =>
    match Tab.get? c0.paths p, Tab.get? s.blocks c0.block with
    | some x, some b =>
      let role : CapRole := { path := p, cell := cell, generation := h.generation, step := 0, count := 0,
                              guardLine := h.guard, buffer := [], adopter := none, descheduled := false }
      let acquire (t : State) : State := (t.pullFor (key / 64) c0.block 4 cell 512).modCore (key / 64) Core.dropClean
      let go (c : Caravan) (spc : Word) (r : CapRole) : Caravan :=
        { c with capsule := some r, wkcnt := c.wkcnt + 1,
                 paths := Tab.set c.paths p { x with spc := spc, stall := none, token := none, matchDone := false } }
      if h.state = cellFree then
        let g := (h.generation + 1) % 2 ^ 32
        let s1 := left.setCellHeader cell
          { h with state := cellHeld, step := 0, generation := g, holder := tag, behalf := tag, ctx := b.ctx }
        (acquire (s1.setCheckpoint cell c0 (x.spc + 4) 0)).setCaravan key (go c0 (x.spc + 4) { role with generation := g })
      else
        let (regs, spc, step) := s.checkpoint cell
        let held := { h with state := cellHeld, holder := tag }
        if h.behalf = tag then
          let s1 := (acquire (left.setCellHeader cell held)).setCaravan key (go (c0.setRegs regs) spc { role with step := step })
          s1.modCore (key / 64) (fun k => { k with notices := Tab.erase k.notices (key % 64) })
        else
          let low := c0.recordBytes + 128
          let deep : Bool := c0.depth ≥ 31
          let at_ := c0.sreg 61 - BitVec.ofNat 64 low
          let own := (List.range 15).map (fun i => c0.sreg (i + 1)) ++ [x.spc]
          if deep then left.raiseLater key p codeStackLimit 1 0 x.spc
          else if (c0.sreg 61).toNat < c0.stklim.toNat + low then left.raiseLater key p codeStackLimit 0 at_ x.spc
          else
            match left.putBytes key at_ (own.flatMap (fun v => leBytes 8 v.toNat)) with
            | .fault code cause t => t.raiseLater key p code cause at_ x.spc
            | .wait t => { t with capWaiters := s.capWaiters }
            | .done t =>
              (acquire (t.setCellHeader cell held)).modCaravan key (fun c =>
                go (c.setRegs regs) spc { role with step := step, adopter := some at_ })
    | _, _ => left

/-- The waiters of a cell served after a change of its state: the first one for which a row of R187 applies (R181). -/
def State.serveCell (s : State) (cell : Nat) : Nat → State
  | 0 => s
  | fuel + 1 =>
    let h := s.cellHeader cell
    match (s.waitersOf cell).find? (s.mayTake cell h) with
    | none => s
    | some w => State.serveCell (s.takeCell cell h w) cell fuel

/-- A cell whose header changes: the header is written, then its waiters are served (R181, R187). -/
def State.changeCell (s : State) (cell : Nat) (h : CellHeader) : State :=
  (s.setCellHeader cell h).serveCell cell ((s.waitersOf cell).length)

/-- The orphan report of a holder that is descheduled (R186, R393): the cell becomes ORPHANED when it is still held by
the caravan in that generation. -/
def State.orphanReport (s : State) (key : Nat) (r : CapRole) : State :=
  let h := s.cellHeader r.cell
  if h.state = cellHeld ∧ h.holder = s.tagOf key ∧ h.generation = r.generation then
    s.changeCell r.cell { h with state := cellOrphaned }
  else s

/-- A holder leaves its capsule by a trap (R393, R394): the orphan report; an adopter's own registers are restored from its
record (R188), an original owes a release notice. -/
def State.leaveCapsule (s : State) (key : Nat) : State :=
  match (s.caravan? key).bind (fun c => c.capsule.map (fun r => (c, r))) with
  | none => s
  | some (_, r) =>
    let s1 := if r.descheduled then s else s.orphanReport key r
    match r.adopter with
    | some at_ => s1.modCaravan key (fun c => { c.setRegs (s1.adopterRecord key at_).1 with capsule := none })
    | none =>
      let s2 := s1.modCaravan key (fun c => { c with capsule := none })
      let owed : Nat × Nat × Nat := (s.tagOf key, r.generation, r.cell)
      s2.modCore (key / 64) (fun x => { x with notices := Tab.set x.notices (key % 64) owed })

/-! ### Stopping at a boundary -/

/-- The waits of a path withdrawn: its register claim and its places among capsule and record waiters (R113, R181,
R388). The claims behind its own are served (R112). -/
def State.withdraw (s : State) (key p : Nat) : State :=
  let node (n : Node) : Node := { n with waiters := n.waiters.filter (fun w => w.path ≠ key * 2 + p),
                                         served := n.served.filter (fun w => w.1 ≠ key * 2 + p) }
  let half (h : Half) : Half := { h with claims := h.claims.filter (fun q => !(q.1 = key && q.2.1 = p)) }
  let s1 : State := { s with capWaiters := s.capWaiters.map (fun w => (w.1, w.2.filter (· ≠ key * 2 + p))) }
  match s.caravan? key with
  | none => s1
  | some c =>
    let s2 := ((s1.modBlock c.block (fun b => { b with halves := b.halves.map half })).serveClaims c.block c.half 64).modCore
      (key / 64) (fun k => k.dropWalks (· = key * 2 + p))
    match (Tab.get? s.blocks c.block).bind (fun b => b.record) with
    | none => s2
    | some r => s2.modRun r.graph (fun g => { g with nodes := g.nodes.map (fun n => (n.1, node n.2)) })


/-- A caravan stops at its boundary, to be saved or halted (R375, R386 to R388, R393): running bursts are abandoned,
waits are withdrawn and the claims behind them served (R112), what a launcher had served is dropped (R324), the holder of a
capsule is reported and its buffered stores are discarded. -/
def State.stopAtBoundary (s : State) (key : Nat) : State :=
  match s.caravan? key with
  | none => s
  | some c =>
    let s1 := match c.capsule with
      | some r => if r.descheduled then s else s.orphanReport key r
      | none => s
    let s2 : State := { s1 with capWaiters := s1.capWaiters.map (fun w => (w.1, w.2.filter (fun x => x / 2 ≠ key))) }
    let half (h : Half) : Half := { h with claims := h.claims.filter (fun q => q.1 ≠ key) }
    let s3 := (s2.modBlock c.block (fun b => { b with halves := b.halves.map half })).serveClaims c.block c.half 64
    let s4 := (s3.dropWaits key).modCore (key / 64) (fun k => k.dropWalks (· / 2 = key))
    s4.modCaravan key (fun c =>
      { c with paths := c.paths.map (fun p => (p.1, { p.2 with burst := none })),
               capsule := c.capsule.map (fun r => { r with buffer := [], count := 0, descheduled := true }) })

/-- Bytes that the machine writes at their home in a form that the spec lays out no further: undefined values (DESIGN CHOICE, log entry 23). -/
def State.writeFree (s : State) (a n : Nat) : State :=
  { s with writes := byteWrites a ((List.range n).map (fun i => BitVec.ofNat 8 (Config.freeNat s.free i))) s.writes, free := s.free + 1 }

/-- The offset of a caravan slot in the save area of its core (R391). -/
def saveSlotOffset : Nat := 2555904

/-- A saved caravan in its save slot (R391): its scalar registers in bytes 0 to 511 of the slot, and the rest of its state in the
other 8,704, which the spec lays out no further. -/
def State.writeSaveSlot (s : State) (ctx key : Nat) (c : Caravan) : State :=
  match Tab.get? s.contexts ctx with
  | none => s
  | some x =>
    let at_ := x.save + 3145728 * (key / 64) + saveSlotOffset + 9216 * (key % 64)
    (s.homeStore at_ ((List.range 64).flatMap (fun n => leBytes 8 (c.sreg n).toNat)) true).writeFree (at_ + 512) 8704

/-- A caravan halted at its boundary (R388, R422): it stands still, and its state is in its save slot. -/
def State.haltCaravan (s : State) (key : Nat) : State :=
  let t := (s.stopAtBoundary key).modCaravan key (fun c => { c with halted := true })
  match t.caravan? key with
  | none => t
  | some c =>
    match Tab.get? t.blocks c.block with
    | none => t
    | some b => t.writeSaveSlot b.ctx key c

/-! ### Taking a trap -/

/-- The image of a lane-issue queue entry (R45). -/
def LaneEntry.image (e : LaneEntry) : Word :=
  BitVec.ofNat 64 (e.start.toNat % 2 ^ 48 + 2 ^ 52 * e.len + 2 ^ 56 * e.rep)

/-- The 64 bytes of a trap frame (R380). -/
def trapFrame (t : Trap) (em : Mask) (trapvec : Word) : List Byte :=
  let entries := (t.removed ++ [0, 0, 0, 0]).take 4
  (([t.resume, BitVec.ofNat 64 em.toNat] ++ entries ++ [trapvec, BitVec.ofNat 64 t.removed.length]).foldr
    (fun w bs => leBytes 8 w.toNat ++ bs) [])

/-- Poison consumed by a caravan that ends faulted, in the trail of its die (R416): the storage that held the poisoned
data is the machine's (DESIGN CHOICE, log entry 20). -/
def State.poisonTrail (s : State) (core ctx : Nat) (t : Trap) : State :=
  if t.code ≠ codePoison ∨ t.addr = 0 then s
  else
    match s.peek core ctx t.addr with
    | none => s
    | some a =>
      let (v, s1) := s.choose
      s1.trail (coreDie core) ctx (core % 48) 0x08 2 (v % 12) (some a)

/-- A caravan that ends faulted (R381): its trap records are written, a fault-log record of kind 0 and a trail record of
kind 1 are made, its block becomes a faulted block, and it ends. -/
def State.endFaulted (s : State) (key : Nat) (t : Trap) : State :=
  match s.caravan? key with
  | none => s
  | some c =>
    let core := key / 64
    match Tab.get? s.blocks c.block with
    | none => s.endCaravan key
    | some b =>
      let handle := match Tab.get? s.launches b.launch with
        | some l => l.handle
        | none => 0
      let s1 := s.logFault b.ctx [recordWord t.code t.cause 0 (s.tagOf key), t.pc, t.addr,
        BitVec.ofNat 64 (b.bid + 2 ^ 32 * handle), 0, 0, 0, 0]
      let cont := t.pc.toNat % 2 ^ 48 + 2 ^ 48 * (t.addr.toNat % 2 ^ 48)
      let s2 := s1.trail (coreDie core) b.ctx (core % 48) 0x01 t.code (2 ^ 16 * t.cause + key % 64) (some cont)
      let s3 := (s2.poisonTrail core b.ctx t).modBlock c.block (fun x => { x with faulted := some (match x.faulted with
        | some d => min d t.code
        | none => t.code) })
      s3.endCaravan key

/-- TAKING A TRAP, the one operation (R379 to R381, R393). The capsule body is left first; `trapcause`, `trapaddr` and
`trappc` are written; then the trap goes to the in-context handler (frame at `s61` − 64, `s61` lowered, `trapvec` saved
and cleared, SPC at the handler), or the caravan ends faulted. The pending faults and outcomes that the trap delivers end
(R173, R206). While the page of the frame is being served the trap stays pending; one whose frame cannot be written for another
reason ends the caravan (DEDUCED, log entry 25). -/
def State.takeTrap (s : State) (key p : Nat) (t0 : Trap) : State :=
  match s.caravan? key with
  | none => s
  | some c0 =>
    let settle (c : Caravan) : Caravan :=
      { c with engineFaults := c.engineFaults.filter (fun f => !t0.faults.contains f),
               matrixOutcomes := c.matrixOutcomes.filter (fun o => !t0.outcomes.contains o) }
    let s1 := ((s.withdraw key p).leaveCapsule key).modCaravan key settle
    let t : Trap :=
      match c0.capsule.bind (fun r => r.adopter) with
      | some at_ =>
        let spc := (s.adopterRecord key at_).2
        { t0 with pc := BitVec.ofNat 64 (spc.toNat % 2 ^ 48), resume := spc }
      | none => t0
    match s1.caravan? key with
    | none => s1
    | some c1 =>
      let c : Caravan := { c1 with trapcause := BitVec.ofNat 64 (t.code + 2 ^ 8 * t.cause + 2 ^ 16 * p),
                                   trapaddr := t.addr, trappc := t.pc }
      let sp := c.sreg 61
      let room : Bool := c.stklim.toNat + 64 ≤ sp.toNat
      match Tab.get? c.paths p with
      | none => s1
      | some x =>
        if c.trapvec ≠ 0 ∧ ¬ terminal t.code ∧ c.depth = 0 ∧ c.split.isNone ∧ room then
          let y : Path := { x with spc := c.trapvec, pending := none, stall := none, token := none, awaiting := none,
                                   handler := none, matchDone := false }
          let handler (d : Caravan) : Caravan :=
            { d.setSreg 61 (sp - 64) with trapvec := 0, paths := Tab.set d.paths p y }
          match (s1.setCaravan key c).putBytes key (sp - 64) (trapFrame t x.em c.trapvec) with
          | .done u => u.modCaravan key handler
          | .wait u => u.modPath key p (fun z => { z with pending := some t, stall := some .faultPending })
          | .fault _ _ u => u.endFaulted key t
        else (s1.setCaravan key c).endFaulted key t

/-- A trap raised on a path: delivered at once when the path has drained, and otherwise pending until it has (R377). -/
def State.raiseTrap (s : State) (key p : Nat) (t : Trap) : State :=
  match (s.caravan? key).bind (fun c => Tab.get? c.paths p) with
  | none => s
  | some x =>
    if x.drained then s.takeTrap key p t
    else s.modPath key p (fun y => { y with pending := some t, stall := some .faultPending })

/-! ### Logs of a recording -/

/-- An access at a home slice appended to the order log; in a re-execution it waits for the accesses logged before it for
the same sector (R428). -/
def logAccess (a : Nat) (value : Option Nat := none) : Act Unit := do
  let m ← me
  let s ← get
  let e : LogEntry := { sector := a / 64, tag := s.tagOf m.key, wkcnt := m.car.wkcnt.toNat, value := value }
  let handles := ((Tab.get? s.launches m.blk.launch).map Launch.handle).toList
  if value.isNone && s.logHolds handles e.sector e.tag then throw .hold
  else if value.isNone || s.monitor.replay.isNone then set (s.logHome handles e)

/-- What a core writes back in an instruction of the path in focus waits, in a re-execution, for what was logged before it (R428). -/
def holdPushes (core : Nat) (ks : List Nat) : Act Unit := do
  let s ← get
  if s.monitor.replay.isSome && ks.any (fun k => s.pushHeld core k) then throw .hold

/-- Whether a precise stop keeps a caravan from work that would raise its `wkcnt` by `n` (R427). -/
def State.goalReached (s : State) (key n : Nat) : Bool :=
  match s.monitor.replay, s.caravan? key with
  | some r, some c =>
    (match Tab.get? r.goals (s.tagOf key) with
    | some w => c.wkcnt.toNat + n > w
    | none => false)
  | _, _ => false

/-- A caravan that a precise stop stops at its boundary; the request is answered (R419, R427). -/
def State.stopAtGoal (s : State) (key : Nat) : State :=
  match s.monitor.replay with
  | none => s
  | some r =>
    let t := s.haltCaravan key
    let d : Debug := { t.monitor with replay := some { r with goals := Tab.erase r.goals (s.tagOf key) } }
    { t with monitor := d }.respond 12 r.request mailDone

/-! ### Addresses, loads and stores of a path -/

/-- The cached translation of an address for the path in focus (R371 to R375). A miss asks for a walk, or waits for the one that
is made; the fault that a walk found is raised in every path that has waited for it; a walk whose page is being served
abandons a burst. -/
def lookup (va : Word) (k : Access) : Act Translation := do
  let m ← me
  if ¬ canonical va then raise codePageFault 4 va
  let s ← get
  let c := s.core m.core
  match (Tab.get? c.tlb (pageOf va)).filter (fun t => t.ctx = m.blk.ctx) with
  | some t => pure t
  | none =>
    let me_ := m.key * 2 + m.p
    let ws := c.walks.filter (fun w => w.ctx = m.blk.ctx && w.page = pageOf va)
    match (ws.find? (fun w => w.waiters.contains me_)).bind (fun w => w.result) with
    | some (code, cause) => raise code (if code = codePageFault ∧ cause ≤ 2 then unmappedCause k else cause) va
    | none =>
      match ws.find? (fun w => w.result.isNone) with
      | some w =>
        let joined : Walk := { w with waiters := if w.waiters.contains me_ then w.waiters else w.waiters ++ [me_] }
        set (s.setCore m.core { c with walks := c.walks.map (fun v => if v = w then joined else v) })
        if w.service.isSome then throw .abandon else stall .data
      | none =>
        let (n, s1) := s.fresh
        let w : Walk := { ctx := m.blk.ctx, page := pageOf va, entry := 0, service := none, result := none, seq := n,
                          waiters := [me_] }
        set (s1.setCore m.core { c with walks := c.walks ++ [w] })
        stall .data

/-- The permission of an access to a translated address (R373). -/
def permit (t : Translation) (va : Word) (k : Access) : Act Unit :=
  match permission t k with
  | some p => raise codeProtection p va
  | none => pure ()

/-- The translation of an address for the path in focus, with the permission asked for (R371 to R375). -/
def translate (va : Word) (k : Access) : Act Translation := do
  let t ← lookup va k
  permit t va k
  pure t

/-- A request to another package (R361): outstanding, then answered or failed. A read waits until it is answered with a
value this package cannot know, which stands until the instruction completes, or raises POISON when it has failed
(R362). -/
def remoteRead (va : Word) (t : Translation) (n : Nat) (atomic : Bool) : Act (List Byte) := do
  let m ← me
  let s ← get
  let key := m.key * 2 + m.p
  let a := physical t va
  let value := fun f : Nat => (List.range n).map (fun i => BitVec.ofNat 8 (Config.freeNat f (i + 2)))
  match s.netin.outstanding.find? (fun o => o.2.path = key ∧ ¬ o.2.write ∧ o.2.addr = a) with
  | none =>
    let id ← freshUid
    let o := s.request key (t.package.getD 0) a false
    update (fun s => s.modNetin (fun x => { x with outstanding := Tab.set x.outstanding id o }))
    stall .data
  | some (id, o) =>
    if o.failed then raise codePoison (if atomic then 1 else 3) va
    else
      match o.answer with
      | some f => pure (value f)
      | none =>
        let f ← drawFree
        if Config.freeNat f 1 % 2 = 0 then stall .data
        else
          update (fun s => s.modNetin (fun x =>
            { x with outstanding := Tab.set x.outstanding id { o with answer := some f } }))
          pure (value f)

/-- The answered and failed reads of a path dropped, its instruction being over. -/
def State.dropReads (s : State) (key p : Nat) : State :=
  s.modNetin (fun x => { x with outstanding := x.outstanding.filter (fun o =>
    !(o.2.path = key * 2 + p && !o.2.write && (o.2.failed || o.2.answer.isSome))) })

/-- Bytes of a list replaced by those a function gives. -/
def overlay (bs : List Byte) (f : Nat → Option Byte) : List Byte := bs.mapIdx (fun i b => (f i).getD b)

/-- Whether a range overlaps records, or a record list, that its block has freed (R321). -/
def Block.hasFreed (b : Block) (va n : Nat) : Bool :=
  match b.record with
  | some r => r.freed.any (fun f => f.1 < va + n && va < f.1 + f.2)
  | none => false

/-- Undefined values (R3). -/
def freeBytes (n : Nat) : Act (List Byte) := do
  let f ← drawFree
  pure ((List.range n).map (fun i => BitVec.ofNat 8 (Config.freeNat f i)))

/-- `n` bytes at their home and in the L1 of the core in focus, as a load reads them (R254, R407); a context's own save area
reads as undefined values (R370). -/
def loadLocal (a : Nat) (va : Word) (n : Nat) : Act (List Byte) := do
  let m ← me
  let s ← get
  let saves : Bool := match Tab.get? s.contexts m.blk.ctx with
    | some c => c.saves a n
    | none => false
  if saves then freeBytes n
  else
    if (Tab.get? (s.core m.core).l1 (a / 64)).isNone then logAccess a
    if (List.range n).any (fun i => s.unsettled (a + i)) then
      let _ ← drawFree
    update (fun s => s.fillRange m.core a n)
    let s ← get
    if s.l1Poisoned m.core a n then
      raise codePoison 0 va
    pure ((List.range n).map (fun i => s.l1Byte m.core (a + i)))

/-- The address under which the releases of a translated location are recorded (R260, R361). -/
def recordAddress (t : Translation) (va : Word) : Nat :=
  match t.package with
  | some k => remoteAddress k (physical t va)
  | none => physical t va

/-- The place of a translated address that is in no stack area. -/
def placeOf (t : Translation) : Place :=
  match t.package with
  | some k => .remote k
  | none => .mem

/-- `n` bytes of memory as the path in focus loads them at a translated address (R95, R144): its own stack cache, its store
queue and the stores `held` first, then the L1 and the home, or the other package. A load of another caravan's stack area, or of
records that the block has freed, reads undefined values (R51, R321). The release records that stand at the location of a value
which is the home's are kept for a later fence (R161). -/
def loadWith (held : List StoreEntry) (t : Translation) (va : Word) (n : Nat) : Act (List Byte) := do
  let m ← me
  let s ← get
  if (s.stackOwner m.blk.ctx m.key va.toNat).isSome || m.blk.hasFreed va.toNat n then freeBytes n
  else
    let a := physical t va
    let bs ← if t.package.isSome then remoteRead va t n false else loadLocal a va n
    let s ← get
    let q := m.path.storeq ++ held
    let at_ := recordAddress t va
    let rs := if t.package.isSome || bs = s.homeBytes a n then s.releasesAt at_ n else []
    modMyPath (fun x => { x with loaded := Tab.set x.loaded at_ (n, rs) })
    pure (overlay (overlay bs (fun i => forward q (placeOf t) (a + i))) (fun i =>
      if inStack m.car m.blk.stackBytes (va.toNat + i) 1 then
        (forward held (.stack m.key) (va.toNat + i)).or (Tab.get? m.car.stack (va.toNat + i))
      else none))

/-- The stores that the running burst of a path holds (R121). -/
def Me.held (m : Me) : List StoreEntry :=
  match m.path.burst with
  | some b => b.stores
  | none => []

/-- A load of a lane word: it sees the stores that its burst holds (R120, R121). -/
def loadAt (t : Translation) (va : Word) (n : Nat) : Act (List Byte) := do
  loadWith (← me).held t va n

/-- `n` bytes of memory as the path in focus loads them (R95, R144). -/
def loadBytes (va : Word) (n : Nat) : Act (List Byte) := do
  loadAt (← translate va .read) va n

/-- Bytes that a load reads, those of them that a capsule step has stored taken from its buffer (R182). -/
def Me.buffered (m : Me) (t : Translation) (va : Word) (bs : List Byte) : List Byte :=
  match m.car.capsule with
  | some r => overlay bs (fun i => Tab.get? r.buffer (physical t va + i))
  | none => bs

/-- A load that a scalar instruction makes: it does not see the stores a running burst still holds (R121), and in a
capsule body it reads the bytes buffered for the step from the buffer (R182). -/
def scalarLoad (va : Word) (n : Nat) : Act (List Byte) := do
  let m ← me
  let t ← translate va .read
  pure (m.buffered t va (← loadWith [] t va n))

/-- A header of a capsule cell written as a release at package scope (R180, R184, R260), after the path's stores. Bursts of the
path that have not committed are covered too: who takes the cell waits for them. -/
def State.releaseCell (s : State) (m : Me) (a : Nat) (h : CellHeader) : State :=
  let owed := if m.path.laneq.isEmpty then none else some (m.car.uid, m.p, m.path.laneq.length)
  (s.drainStores m.key m.p).releaseBy m.core m.car.block a 64 4 owed (fun t => t.homeStore a (leBytes 64 h.image) true)

/-- Where the bytes of a store of the path in focus go. -/
def storeEntry (t : Translation) (va : Word) (bs : List Byte) : Act StoreEntry := do
  let m ← me
  let s ← get
  let (e, u) := s.storePlace m.key m.car m.blk t va.toNat bs
  set u
  pure e

/-- A store of the path in focus that is a release at a scope (R159, R160, R161): performed at once after the stores before it,
or behind the bursts before it in the store queue. -/
def storeRelease (e : StoreEntry) (scope bursts : Nat) : Act Unit := do
  let m ← me
  if bursts = 0 then
    if e.place = .mem then logAccess e.addr
    update (fun s => (s.drainStores m.key m.p).perform m.key m.p { e with release := some scope })
  else modMyPath (fun x => { x with storeq := x.storeq ++ [{ e with release := some scope, after := bursts }] })

/-- A store enters the path's store queue, or goes to a stack cache; after a release fence a store to memory is a release at the
fence's scope (R161). `bursts` counts the bursts before it that have not committed. -/
def commitStore (bursts : Nat) (e : StoreEntry) : Act Unit := do
  let m ← me
  let memory : Bool := match e.place with
    | .mem | .remote _ => true
    | _ => false
  match e.place with
  | .stack _ | .savedStack _ _ => update (fun s => s.perform m.key m.p e)
  | _ =>
    if memory && m.path.relScope > 0 then storeRelease e m.path.relScope bursts
    else modMyPath (fun x =>
      { x with storeq := if bursts = 0 then readyStores x.storeq ++ [e] ++ waitingStores x.storeq else x.storeq ++ [e] })

/-- Bytes stored by a scalar instruction at a translated address (R95). -/
def storeAt (t : Translation) (va : Word) (bs : List Byte) : Act Unit := do
  let e ← storeEntry t va bs
  commitStore (← me).path.laneq.length e

/-- Whether an acquire or a fence at a scope reaches beyond the core of the path in focus (R260). -/
def Me.wide (m : Me) (scope : Nat) : Bool := scope ≥ 2 || m.blk.halves.length > 1

/-- A wide acquire of a translated address (R159, R260, R265): it waits for what a release of the location covers, it reads the
location at its home after the pull, under the stores of its own path that wait for a burst, and no copy the core fetched before
stays valid. The value at an address of a stack area is that of a load (R51). -/
def acquireAt (t : Translation) (va : Word) (n scope : Nat) : Act (List Byte) := do
  let m ← me
  let s ← get
  let own := inStack m.car m.blk.stackBytes va.toNat n || (s.stackOwner m.blk.ctx m.key va.toNat).isSome
    || m.blk.hasFreed va.toNat n
  let a := physical t va
  let at_ := recordAddress t va
  if s.owes at_ n then stall .data
  let bs ← if own then loadWith [] t va n
    else if t.package.isSome then do
      let bs ← remoteRead va t n false
      update (fun s => s.pullFor m.core m.car.block scope at_ n)
      pure bs
    else do
      logAccess a
      (s.releasesAt a n).forM (fun r => holdPushes r.2.core r.2.sectors)
      update (fun s =>
        (((s.drainStores m.key m.p).releaseSectors m.core a n).recallLines a n).pullFor m.core m.car.block scope a n)
      let s ← get
      if s.poisoned a n then raise codePoison 0 va
      pure (s.homeBytes a n)
  update (fun s => { s.modCore m.core Core.dropClean with free := s.free + 1 })
  let q := (← me).path.storeq
  pure (if own then bs else overlay bs (fun i => forward q (placeOf t) (a + i)))

/-- `n` bytes of code of one page, read at their home (R65, R75). A poisoned sector raises POISON (R382). -/
def codePart (t : Translation) (va : Word) (n : Nat) : Act (List Byte) := do
  if t.package.isSome then remoteRead va t n false
  else
    let s ← get
    if s.poisoned (physical t va) n then raise codePoison 0 va
    pure (s.homeBytes (physical t va) n)

/-- An acquire load of the scalar stream; one that is not wide is a load, ordered by the core's total store order
(R159, R257). -/
def acquireLoad (va : Word) (n scope : Nat) : Act (List Byte) := do
  let m ← me
  if m.wide scope then
    let t ← translate va .read
    pure (m.buffered t va (← acquireAt t va n scope))
  else scalarLoad va n

/-! ### Scalar accesses -/

/-- A memory access of the scalar stream is held behind a fence that still waits for bursts; a release fence holds
stores only (R161, R162). -/
def memGate (store : Bool) : Act Unit := do
  if (← me).path.fences.any (fun f => store || f.2.1 ≠ fenceRel) then stall .data

/-- The bytes of a list as a word (R7). -/
def wordOf (bs : List Byte) : Word := BitVec.ofNat 64 (leNat bs)

/-- A load of `n` bytes as a number (R95). -/
def loadNat (va : Word) (n : Nat) : Act Nat := do
  memGate false
  pure (leNat (← scalarLoad va n))

/-- Whether a physical address is a guarded byte of a caravan's capsule (R176). -/
def State.guarded (s : State) (m : Me) (r : CapRole) (a : Nat) : Bool :=
  (r.cell + 256 ≤ a && a < r.cell + 512)
    || (match r.guardLine with
        | some g =>
          match s.peek m.core m.blk.ctx (BitVec.ofNat 64 g) with
          | some l => a / 512 = l / 512
          | none => false
        | none => false)

/-- A store that a scalar instruction makes (R95, R182): in a capsule body to guarded bytes only, buffered for the step. -/
def scalarStore (va : Word) (bs : List Byte) : Act Unit := do
  memGate true
  let t ← translate va .write
  match (← me).car.capsule with
  | none => storeAt t va bs
  | some _ =>
    let put := fun (b : List (Nat × Byte)) => (bs.zipIdx.foldl (fun b (v, i) => Tab.set b (physical t va + i) v) b)
    modCar (fun c => { c with capsule := c.capsule.map (fun r => { r with buffer := put r.buffer }) })

/-- A store in a capsule body reaches guarded bytes only (R182). -/
def guardStore (va : Word) (n : Nat) : Act Unit := do
  let m ← me
  let s ← get
  match m.car.capsule with
  | none => pure ()
  | some r =>
    check ((List.range n).all (fun i =>
      match s.peek m.core m.blk.ctx (va + BitVec.ofNat 64 i) with
      | some a => s.guarded m r a
      | none => false)) codeCapsuleScope 0 va

end Sys2Proof.Machine
end

