-- ==== Sys2Proof/Machine/Operands.lean ====
section
/-!
DEFINITION. Operands: what the wrapper of a scalar instruction knows of it (R86, R87, R119, R182, R425), and the operand
codes, results and latches of a lane word (R41 to R44, R71, R120 to R124).
-/

namespace Sys2Proof.Machine

/-! ### Scalar instructions -/

/-- Where the scalar stream goes on after an instruction. -/
inductive Flow where
  | seq
  | jump (target : Word)
  | stay
deriving DecidableEq, Repr, Inhabited

/-- What the limits of capsule bodies and of match handlers ask of an instruction: the registers its fields name, the
one it writes, whether it uses `s16` to `s63` without naming them, whether R119 or R182 lists it as one that waits or
drains, whether R182 lists it as one that writes, and whether R425 excludes its major. -/
structure Rule where
  regs : List (BitVec 6) := []
  dest : Option (BitVec 6) := none
  hidden : Bool := false
  waits : Bool := false
  writes : Bool := false
  excluded : Bool := false
deriving DecidableEq, Repr, Inhabited

/-- The `mtk` selectors that drain (R87). -/
def mtkDrains (sel : Nat) : Bool := sel = 0x00 || sel = 0x02 || sel = 0x18 || sel = 0x19

/-- The `mfk` selectors that drain (R87). -/
def mfkDrains (sel : Nat) : Bool := sel = 0x02 || sel = 0x18

/-- The rule of a scalar instruction. -/
def ruleOf : Instr → Rule
  | .add d a b | .sub d a b | .mul d a b | .mulh d a b | .mulhU d a b | .div d a b | .divU d a b | .rem d a b
  | .remU d a b | .and d a b | .or d a b | .xor d a b | .shl d a b | .shr d a b | .sra d a b | .min d a b
  | .minU d a b | .max d a b | .maxU d a b | .sel d a b | .bfx d a b | .bfi d a b | .aff d a b =>
    { regs := [d, a, b], dest := some d }
  | .clz d a | .popc d a => { regs := [d, a], dest := some d }
  | .cmp d a b _ => { regs := [d, a, b], dest := some d }
  | .addImm d a _ | .andImm d a _ | .orImm d a _ | .xorImm d a _ | .shlImm d a _ | .shrImm d a _ | .sraImm d a _ =>
    { regs := [d, a], dest := some d }
  | .cmpImm d a _ _ | .ld d a _ _ | .lpset d a _ => { regs := [d, a], dest := some d }
  | .lea d _ | .li d _ | .lui d _ | .lpend d _ | .cycl d | .mfem d => { regs := [d], dest := some d }
  | .st d a _ _ => { regs := [d, a] }
  | .ald _ a b _ => { regs := [a, b] }
  | .aldx _ _ a b _ => { regs := [a, b] }
  | .br _ => {}
  | .bc _ a _ => { regs := [a] }
  | .jmp a => { regs := [a] }
  | .ret => { hidden := true }
  | .call _ => { dest := some 63, waits := true }
  | .calli a => { regs := [a], dest := some 63, waits := true }
  | .brd _ _ _ _ | .join | .done => { waits := true }
  | .callv a _ => { regs := [a], dest := some 63, waits := true }
  | .lrun r _ _ => { regs := [r], waits := true, excluded := true }
  | .mtem a => { regs := [a], waits := true }
  | .voteAny d _ _ | .voteAll d _ _ | .voteBall d _ _ => { regs := [d], dest := some d, waits := true }
  | .lget d _ b _ => { regs := [d, b], dest := some d, waits := true }
  | .arrive d _ => { regs := [d], dest := some d, excluded := true }
  | .await d _ | .bar d _ => { regs := [d], dest := some d, waits := true, excluded := true }
  | .cbwait d _ => { regs := [d], dest := some d, waits := true, excluded := true }
  | .cbpoll d _ => { regs := [d], dest := some d, excluded := true }
  | .rgive _ | .rclaim _ => { waits := true, excluded := true }
  | .enter _ => { dest := some 61, hidden := true }
  | .leave _ => { dest := some 61, hidden := true }
  | .mfk d s => { regs := [d], dest := some d, waits := mfkDrains s.toNat }
  | .mtk a s => { regs := [a], waits := mtkDrains s.toNat, excluded := true }
  | .nop | .trap _ | .brk | .ifence => {}
  | .cflush a b | .phint a b => { regs := [a, b] }
  | .ldacq d a _ _ _ => { regs := [d, a], dest := some d, excluded := true }
  | .strel d a _ _ _ => { regs := [d, a], writes := true, excluded := true }
  | .fence _ s => { waits := s = 0, excluded := true }
  | .relflush => { excluded := true }
  | .xcopy d a b _ _ => { regs := [d, a, b], writes := true, excluded := true }
  | .xseal d => { regs := [d], dest := some d, waits := true, excluded := true }
  | .xwait _ => { waits := true, excluded := true }
  | .xpoll d _ => { regs := [d], dest := some d, excluded := true }
  | .tfill _ a b _ | .tfillOb _ a b _ | .tdrain _ a b _ => { regs := [a, b], writes := true, excluded := true }
  | .tstate d _ => { regs := [d], dest := some d, excluded := true }
  | .tfree _ => { writes := true, excluded := true }
  | .capinit a b => { regs := [a, b], waits := true, excluded := true }
  | .capin a => { regs := [a], waits := true, excluded := true }
  | .capstep | .capout => { excluded := true }
  | .capres d a => { regs := [d, a], dest := some d, waits := true, excluded := true }
  | .obres _ a b => { regs := [a, b], writes := true, excluded := true }
  | .obrel _ => { writes := true, excluded := true }
  | .obfmt _ b => { regs := [b], writes := true, excluded := true }
  | .mma _ a _ _ | .mmaBm _ a _ _ | .mmaPair _ a _ _ | .mmaPairBm _ a _ _ => { regs := [a], writes := true, excluded := true }
  | .mzero _ _ => { writes := true, excluded := true }
  | .maccLd _ a b _ | .maccSt _ a b _ => { regs := [a, b], writes := true, excluded := true }
  | .mwait d => { regs := [d], waits := true, excluded := true }
  | .mstat d _ => { regs := [d], dest := some d, excluded := true }
  | .dcfg a _ | .dloadPairs a _ | .dclamp a _ | .dinit a _ | .dlink a _ | .dsweep a _ =>
    { regs := [a], writes := true, excluded := true }
  | .dload a b _ | .dstream a b _ | .dbias a b _ => { regs := [a, b], writes := true, excluded := true }
  | .dread a _ _ => { regs := [a], writes := true, excluded := true }
  | .dclr _ _ => { writes := true, excluded := true }
  | .dmon d _ => { regs := [d], dest := some d, excluded := true }
  | .dmonClr d _ => { regs := [d], dest := some d, writes := true, excluded := true }
  | .remit d a b | .remitj d a b => { regs := [d, a, b], writes := true, excluded := true }
  | .remitW a b => { regs := [a, b], waits := true, excluded := true }
  | .rdone => { writes := true, excluded := true }
  | .gquery d _ | .gcount d _ => { regs := [d], dest := some d, excluded := true }
  | _ => {}

/-- The path in focus waits, with its stall reason (R88, R245). -/
def State.waits (s : State) (m : Me) (r : Stall) : State :=
  s.modPath m.key m.p (fun x => { x with stall := some r })

/-- The burst of the path in focus waits, with its stall reason (R245). -/
def State.laneWaits (s : State) (m : Me) (r : Stall) : State :=
  s.modPath m.key m.p (fun x => { x with laneStall := some r })

/-- What stays of an instruction that trapped: the numbers and the undefined values it drew, its page walks and its requests to
other packages (R362, R374). -/
def State.keep (s t : State) (m : Me) : State :=
  let s1 := State.modCore { s with free := t.free, nextUid := t.nextUid, netin := t.netin } m.core
    (fun x => { x with walks := (t.core m.core).walks })
  s1.dropReads m.key m.p

/-- The `trappc` image of a scalar instruction (R379). -/
def scalarPc (spc : Word) : Word := BitVec.ofNat 64 (spc.toNat % 2 ^ 48 / 4 * 4)

/-- The trap of a scalar instruction (R379, R380, R425): one raised in a match handler stands at the matched
instruction, and a software trap resumes after its instruction (R117). -/
def Me.trap (m : Me) (code cause : Nat) (addr : Word) : Trap :=
  let spc := match m.path.handler with
    | some h => h.matched
    | none => m.path.spc
  { code := code, cause := cause, addr := addr, pc := scalarPc spc,
    resume := if code = codeSoftware then spc + 4 else spc, removed := [] }

/-- The trap of a scalar instruction that ended in a state: the pending faults and matrix outcomes it took out are raised by it, and
end when it is delivered (R173, R206, R377). -/
def Me.trapIn (m : Me) (t : State) (code cause : Nat) (addr : Word) : Trap :=
  let c := (t.caravan? m.key).getD m.car
  { m.trap code cause addr with
    faults := m.car.engineFaults.filter (fun f => !c.engineFaults.contains f),
    outcomes := m.car.matrixOutcomes.filter (fun o => !c.matrixOutcomes.contains o) }

/-- The limits of a match handler on an instruction (R425). -/
def checkHandler (m : Me) (r : Rule) : Act Unit :=
  match m.path.handler with
  | none => pure ()
  | some h =>
    check (!(r.excluded || r.waits || h.count ≥ 64 || (match r.dest with
      | some d => 16 ≤ d.toNat
      | none => false))) codeIllegal 5

/-- The limits of a capsule body on an instruction (R119, R182), in the order of R182. -/
def checkCapsule (i : Instr) (m : Me) (r : Rule) : Act Unit :=
  match m.car.capsule with
  | none => pure ()
  | some c => do
    check (c.count < 16) codeCapsuleLimit 0
    check (¬ (i = .capstep ∧ c.step ≥ 15)) codeCapsuleLimit 1
    check (!(r.hidden || r.waits || r.regs.any (fun d => 16 ≤ d.toNat))) codeCapsuleLimit 2
    check (!r.writes) codeCapsuleScope 0

/-- A scalar instruction that has completed: SPC moves, `wkcnt` counts it unless a match handler ran it, and the counts
of a capsule step and of a handler rise (R182, R425, R427). -/
def State.retire (s : State) (m : Me) (i : Instr) (target : Word) : State :=
  let inBody := m.car.capsule.isSome && i ≠ .capstep
  let s1 := s.modCaravan m.key (fun c =>
    { c with wkcnt := if m.path.handler.isSome then c.wkcnt else c.wkcnt + 1,
             capsule := c.capsule.map (fun r => { r with count := if inBody then r.count + 1 else r.count }) })
  (s1.dropReads m.key m.p).modPath m.key m.p (fun x =>
    { x with spc := target, stall := none, token := none, awaiting := none,
             matchDone := m.path.handler.isSome && x.handler.isNone,
             handler := x.handler.map (fun h => { h with count := h.count + 1 }) })

/-- The outcome of an action of the path in focus: it completed, it raised a fault (R377), or it waits (R88). -/
def scalarResult (i : Instr) (s : State) (m : Me) : EStateM.Result Stop State Flow →
    Host.Outcome State Fault Refusal
  | .ok .seq t => .next (t.retire m i (m.path.spc + 4))
  | .ok (.jump a) t => .next (t.retire m i a)
  | .ok .stay t => .next t
  | .error (.trap code cause addr) t => .next ((s.keep t m).raiseTrap m.key m.p (m.trapIn t code cause addr))
  | .error (.stall r) t => .next (t.waits m r)
  | .error .abandon t => .next (t.waits m .data)
  | .error .hold _ => .next (s.waits m .data)
  | .error (.fault f) _ => .fault f

/-- A scalar instruction of the path in focus (R86): ILLEGAL_OP of its fields and of the state (`illegal`), the limits of
handlers and capsule bodies, then its effect. A path with a pending trap, a halted caravan and a caravan at its save
point execute nothing. -/
def scalarOp (i : Instr) (illegal : Act Unit) (effect : Act Flow) (s : State) : Host.Outcome State Fault Refusal :=
  match s.me? with
  | none => .fault .noAgent
  | some m =>
    if m.car.halted || m.car.savePoint.isSome then .next s
    else if m.path.pending.isSome then .next (s.waits m .faultPending)
    else if s.goalReached m.key 1 then .next (s.stopAtGoal m.key)
    else
      let body : Act Flow := do
        match i.check with
        | some e => raise codeIllegal e.code
        | none => pure ()
        checkHandler m (ruleOf i)
        illegal
        checkCapsule i m (ruleOf i)
        effect
      scalarResult i s m (body.run s)

/-- A scalar instruction whose result goes to a register and that goes on in sequence. -/
def writes (d : BitVec 6) (v : Act Word) : Act Flow := do
  let x ← v
  setReg d x
  pure .seq

/-! ### Lane words -/

/-- A lane word in execution: the path, its burst, the word, and the active set (R41). -/
structure Lane where
  m : Me
  b : Burst
  i : Instr
  f : LaneFields
  active : Mask

/-- The active lanes of a path (R40, R41): lanes that have exited are in no mask. -/
def Me.activeLanes (m : Me) : Mask := m.path.em &&& ~~~ m.car.xm

/-- Whether lane `l` is in a mask. -/
def hasLane (x : Mask) (l : Nat) : Bool := x.toNat / 2 ^ l % 2 = 1

/-- The mask of the lanes that meet a condition. -/
def maskOf (p : Nat → Bool) : Mask :=
  BitVec.ofNat 32 ((List.range 32).foldl (fun n l => if p l then n + 2 ^ l else n) 0)

/-- The lanes of a mask in ascending order. -/
def lanesOf (x : Mask) : List Nat := (List.range 32).filter (hasLane x)

/-- A lane of a lane register as the burst sees it (R120). -/
def Lane.reg (x : Lane) (r l : Nat) : LaneWord :=
  match Tab.get? x.b.regs (r * 32 + l) with
  | some v => v
  | none => x.m.car.lane r l

/-- A predicate as a burst of a caravan sees it (R120). -/
def burstPred (c : Caravan) (b : Burst) (n : Nat) : Mask :=
  if n = 0 then BitVec.allOnes 32
  else
    match Tab.get? b.preds n with
    | some (k, v) => (c.pred n &&& ~~~ k) ||| (v &&& k)
    | none => c.pred n

/-- A predicate as the burst sees it. -/
def Lane.pred (x : Lane) (n : Nat) : Mask := burstPred x.m.car x.b n

/-- The entry of an operand queue that the next pop takes, after the pops the burst holds (R44, R121). -/
def queueHead (c : Caravan) (b : Burst) (q : Nat) : Option (List LaneWord) :=
  (Tab.getD c.queues q [])[Tab.getD b.pops q 0]?

/-- Whether the burst of a path's sibling holds a pop of an operand queue: which of the two pops an entry is decided when
that burst has ended (R44, R101). -/
def siblingPops (m : Me) (q : Nat) : Bool :=
  m.car.paths.any (fun x => x.1 ≠ m.p && (match x.2.burst with
    | some b => Tab.getD b.pops q 0 > 0
    | none => false))

/-- The value of a 32-bit operand code in a lane (R42). -/
def Lane.code (x : Lane) (code l : Nat) : LaneWord :=
  if code < 256 then x.reg code l
  else if code < 264 then (Tab.getD x.b.latches (code - 256) []).getD l 0
  else if code < 272 then ((queueHead x.m.car x.b (code - 264)).getD []).getD l 0
  else if code = 272 then BitVec.ofNat 32 l
  else if code = 274 then 1
  else if code = 275 then 0x3f800000
  else if code = 276 then 0xffffffff
  else if code = 277 then BitVec.ofNat 32 x.m.blk.bid
  else if code = 278 then BitVec.ofNat 32 (x.m.car.index % 32)
  else if code = 279 then BitVec.ofNat 32 (slotQuad x.m.slot)
  else if code = 280 then (if hasLane x.m.activeLanes l then 1 else 0)
  else 0

/-- A 64-bit operand in a lane: an even register and the next one (R39). -/
def Lane.pair (x : Lane) (r l : Nat) : Nat := (x.reg r l).toNat + 2 ^ 32 * (x.reg (r + 1) l).toNat

/-- A source in a lane as a number, of 64 bits where the word's plain sources are (R122, R125). -/
def Lane.src (x : Lane) (code l : Nat) : Nat :=
  if wideSource x.i x.f then x.pair code l else (x.code code l).toNat

/-- Source a of a lane. -/
def Lane.a (x : Lane) (l : Nat) : Nat := x.src x.f.a.toNat l

/-- Source b of a lane. -/
def Lane.bsrc (x : Lane) (l : Nat) : Nat := x.src x.f.b.toNat l

/-- Source c of a lane. -/
def Lane.c (x : Lane) (l : Nat) : Nat := x.src x.f.c.toNat l

/-- The operand codes of 32 bits that a word names. -/
def codesOf (i : Instr) (f : LaneFields) : List Nat :=
  let u := laneUse i
  let one := fun (k : OperandUse) (v : Nat) =>
    match k with
    | .src => if wideSource i f then [] else [v]
    | .src32 | .reg1 => [v]
    | .place => if f.immBit 20 then [v] else []
    | .casOnly => if f.opx / 4 = 7 ∧ ¬ wideSource i f then [v] else []
    | _ => []
  one u.a f.a.toNat ++ one u.b f.b.toNat ++ one u.c f.c.toNat

/-- The highest lane register that each field of a word names (R39). -/
def highestRegs (i : Instr) (f : LaneFields) : List Nat :=
  let u := laneUse i
  let one := fun (k : OperandUse) (v : Nat) =>
    match k with
    | .src => if wideSource i f then [v + 1] else [v]
    | .src32 | .reg1 => [v]
    | .reg3 => [v + 2]
    | .addr => [v + 1]
    | .place => if f.immBit 20 then [v] else [v + 1]
    | .casOnly => if f.opx / 4 ≠ 7 then [] else if wideSource i f then [v + 1] else [v]
    | _ => []
  let d := match u.d with
    | .reg => if f.nw = 1 then [] else if wideDest i f || wideFold i f then [f.d.toNat + 1] else [f.d.toNat]
    | _ => []
  (d ++ one u.a f.a.toNat ++ one u.b f.b.toNat ++ one u.c f.c.toNat).filter (· < 256)

/-- The operand queues a word names (R44). -/
def queuesOf (i : Instr) (f : LaneFields) : List Nat :=
  ((codesOf i f).filter (fun v => 264 ≤ v && v < 272)).map (· - 264) |>.eraseDups

/-- The latches a word reads (R43). -/
def latchesOf (i : Instr) (f : LaneFields) : List Nat :=
  ((codesOf i f).filter (fun v => 256 ≤ v && v < 264)).map (· - 256)

/-- Whether a word is performed when its burst commits (R152). -/
def atCommit : Instr → Bool
  | .vatom _ | .vredM _ | .vldacq _ | .vstrel _ => true
  | _ => false

/-- The result of a lane word: values for the lanes of a mask, 64-bit values, a predicate, or nothing (R71). -/
inductive LaneResult where
  | none
  | lanes (mask : Mask) (vals : List LaneWord)
  | pairs (mask : Mask) (vals : List Nat)
  | pred (mask value : Mask)
deriving DecidableEq, Repr, Inhabited

/-- What a lane word does beside its result: a status predicate (R139), flags and draws. -/
structure LaneOut where
  res : LaneResult := .none
  status : Option (Nat × Mask) := .none
  flags : BitVec 5 := 0
  draws : Nat := 0
deriving DecidableEq, Repr, Inhabited

/-- A 32-bit result in every active lane. -/
def Lane.out (x : Lane) (v : Nat → LaneWord) : LaneOut := { res := .lanes x.active ((List.range 32).map v) }

/-- A result of the width of the word's destination in every active lane. -/
def Lane.outWide (x : Lane) (v : Nat → Nat) : LaneOut :=
  if wideDest x.i x.f then { res := .pairs x.active ((List.range 32).map v) }
  else x.out (fun l => BitVec.ofNat 32 (v l))

/-- A predicate result in every active lane. -/
def Lane.outPred (x : Lane) (v : Nat → Bool) : LaneOut := { res := .pred x.active (maskOf v) }

/-- Flags of several lanes joined (R25). -/
def joinFlags (fs : List (BitVec 5)) : BitVec 5 := fs.foldl (· ||| ·) 0

/-- A burst with a lane register written in the lanes of a mask (R120). -/
def Burst.setReg (b : Burst) (r : Nat) (mask : Mask) (vals : List LaneWord) : Burst :=
  { b with regs := (lanesOf mask).foldl (fun t l => Tab.set t (r * 32 + l) (vals.getD l 0)) b.regs }

/-- A burst with a predicate written in the lanes of a mask; a write to `p0` is discarded (R40, R123). -/
def Burst.setPred (b : Burst) (n : Nat) (mask value : Mask) : Burst :=
  if n = 0 then b
  else
    let old := Tab.getD b.preds n (0, 0)
    let new : Mask × Mask := (old.1 ||| mask, (old.2 &&& ~~~ mask) ||| (value &&& mask))
    { b with preds := Tab.set b.preds n new }

/-- The burst in focus. -/
def myBurst : Act Burst := do
  match (← me).path.burst with
  | some b => pure b
  | none => throw (.fault .noAgent)

/-- The burst in focus changed. -/
def modBurst (f : Burst → Burst) : Act Unit := modMyPath (fun x => { x with burst := x.burst.map f })

/-- A burst after one of its words: the position and the repetition move on (R74). -/
def Burst.advance (b : Burst) : Burst :=
  if b.pos < b.entry.len then { b with pos := b.pos + 1 }
  else if b.rep < b.entry.rep then { b with pos := 0, rep := b.rep + 1 }
  else { b with issued := true }

/-- The latch of a word (R43): its result in the lanes that receive it, elsewhere the destination register's value, or
an undefined value where write-back is suppressed. -/
def latchValue (x : Lane) (mask : Mask) (vals : List LaneWord) : Act (List LaneWord) := do
  let n ← drawFree
  pure ((List.range 32).map (fun l =>
    if hasLane mask l then vals.getD l 0
    else if x.f.nw = 0 then x.reg x.f.d.toNat l
    else BitVec.ofNat 32 (Config.freeNat n l)))

/-- The effects of a lane word recorded in its burst (R43, R44, R120, R121). -/
def finishLane (x : Lane) (o : LaneOut) : Act Unit := do
  let slot := x.b.pos % 8
  match o.res with
  | .none => modBurst (fun b => { b with latches := Tab.erase b.latches slot })
  | .pred mask v =>
    modBurst (fun b => { (b.setPred x.f.d.toNat mask v) with latches := Tab.erase b.latches slot })
  | .lanes mask vals =>
    let latch ← latchValue x mask vals
    modBurst (fun b =>
      { (if x.f.nw = 0 then b.setReg x.f.d.toNat mask vals else b) with latches := Tab.set b.latches slot latch })
  | .pairs mask vals =>
    let lo := vals.map (fun v => (BitVec.ofNat 32 v : LaneWord))
    let hi := vals.map (fun v => (BitVec.ofNat 32 (v / 2 ^ 32) : LaneWord))
    let latch ← latchValue x mask lo
    modBurst (fun b =>
      { (if x.f.nw = 0 then (b.setReg x.f.d.toNat mask lo).setReg (x.f.d.toNat + 1) mask hi else b) with
        latches := Tab.set b.latches slot latch })
  match o.status with
  | some (n, v) => modBurst (fun b => b.setPred n x.active v)
  | none => pure ()
  let pop (t : Tab Nat) (q : Nat) : Tab Nat := Tab.set t q (Tab.getD t q 0 + 1)
  modBurst (fun b => Burst.advance { b with pops := (queuesOf x.i x.f).foldl pop b.pops, flags := b.flags ||| o.flags,
                                            draws := b.draws + o.draws })
  modMyPath (fun y => { y with laneStall := none })
  update (fun s => s.dropReads x.m.key x.m.p)

/-- The `trappc` image of a lane word (R379). -/
def lanePc (b : Burst) : Word :=
  BitVec.ofNat 64 (1 + b.entry.lrun.toNat % 2 ^ 48 / 4 * 4 + 2 ^ 48 * b.pos + 2 ^ 52 * b.rep)

/-- A core with the hit bit of a bound register set (R59). -/
def Core.hitBound (c : Core) (j : Nat) : Core := { c with bndc := Tab.set c.bndc j (Tab.getD c.bndc j 0 ||| 8) }

/-- A fault of a lane word or of a burst's commit (R378): the burst commits nothing, the entries behind it are removed,
and the trap replaces a scalar fault that waits for the drain (R377). A BOUND_TRAP leaves the hit bit of its register set (R59;
DEDUCED, log entry 50). -/
def State.raiseLane (s : State) (m : Me) (b : Burst) (code cause : Nat) (addr : Word) : State :=
  let t : Trap := { code := code, cause := cause, addr := addr, pc := lanePc b, resume := m.path.spc,
                    removed := (m.path.laneq.drop 1).map LaneEntry.image }
  let hit (c : Core) : Core := if code = codeBound then c.hitBound cause else c
  let s1 := (s.modCore m.core hit).modPath m.key m.p (fun x =>
    { x with burst := none, laneq := [], pending := none, laneStall := none })
  (s1.afterBursts m.key m.p m.path.laneq.length).raiseTrap m.key m.p t

/-- The outcome of an action of a burst: it went on, raised a fault (R378), waits, or is abandoned (R375). -/
def laneResult (s : State) (m : Me) (b : Burst) : EStateM.Result Stop State Unit → Host.Outcome State Fault Refusal
  | .ok () t => .next t
  | .error (.trap code cause addr) t => .next ((s.keep t m).raiseLane m b code cause addr)
  | .error (.stall r) t => .next (t.laneWaits m r)
  | .error .abandon t => .next ((t.modPath m.key m.p (fun x => { x with burst := none })).laneWaits m .data)
  | .error .hold _ => .next (s.laneWaits m .data)
  | .error (.fault f) _ => .fault f

/-- A lane word of the burst of the path in focus (R73, R120, R124): ILLEGAL_OP, with what the word's own entry adds to it
(`illegal`), LATCH_INVALID, an empty queue, then its effect. -/
def laneOpWith (i : Instr) (f : LaneFields) (illegal : Lane → Act Unit) (effect : Lane → Act LaneOut) (s : State) :
    Host.Outcome State Fault Refusal :=
  match s.me? with
  | none => .fault .noAgent
  | some m =>
    match m.path.burst with
    | none => .fault .noAgent
    | some b =>
      if b.issued then .next s
      else
        let pr := burstPred m.car b f.pred.toNat
        let x : Lane := { m := m, b := b, i := i, f := f,
                          active := m.path.em &&& ~~~ m.car.xm &&& (if f.neg = 1 then ~~~ pr else pr) }
        let body : Act Unit := do
          match i.check with
          | some e => raise codeIllegal e.code
          | none => pure ()
          check ((highestRegs i f).all (· < m.car.lbud)) codeIllegal 2
          check (!(atCommit i && (b.pos < b.entry.len || b.entry.rep > 0))) codeIllegal 5
          illegal x
          check ((latchesOf i f).all (fun k => (Tab.get? b.latches k).isSome)) codeLatch 0
          if (queuesOf i f).any (fun q => (queueHead m.car b q).isNone || siblingPops m q) then stall .queueEmpty
          finishLane x (← effect x)
        laneResult s m b (body.run s)

/-- A lane word whose entry adds nothing to ILLEGAL_OP. -/
def laneOp (i : Instr) (f : LaneFields) (effect : Lane → Act LaneOut) (s : State) : Host.Outcome State Fault Refusal :=
  laneOpWith i f (fun _ => pure ()) effect s

/-- A lane word whose effect is its result alone. -/
def lanePure (i : Instr) (f : LaneFields) (r : Lane → LaneOut) (s : State) : Host.Outcome State Fault Refusal :=
  laneOp i f (fun x => pure (r x)) s

end Sys2Proof.Machine
end

