-- ==== Sys2Proof/Machine/Flags.lean ====
section
/-!
DEFINITION. Condition codes, the fields of `fpm`, and the integer results that both streams use (R47, R89 to R93, R126).
-/

namespace Sys2Proof.Machine

/-- Whether a condition code holds between two values (R91). -/
def condHolds {n : Nat} (cc : Nat) (x y : BitVec n) : Bool :=
  match cc with
  | 0 => x = y
  | 1 => x ≠ y
  | 2 => x.toInt < y.toInt
  | 3 => x.toInt ≥ y.toInt
  | 4 => x.toNat < y.toNat
  | 5 => x.toNat ≥ y.toNat
  | 6 => x.toInt ≤ y.toInt
  | 7 => x.toInt > y.toInt
  | 8 => x.toNat ≤ y.toNat
  | 9 => x.toNat > y.toNat
  | _ => false

/-- A truth value as a word. -/
def ofBool (b : Bool) : Word := if b then 1 else 0

/-- `fpm`.rm (R47). -/
def fpmRounding (fpm : Word) : Rounding := Rounding.ofCode (fpm.toNat % 4)

/-- `fpm`.ftz (R47). -/
def fpmFtz (fpm : Word) : Bool := fpm.toNat / 4 % 2 = 1

/-- `fpm` with flags accrued (R25, R47): nv, dz, of, uf, nx in bits 7 to 3. -/
def fpmAccrue (fpm : Word) (fl : BitVec 5) : Word := fpm ||| BitVec.ofNat 64 (fl.toNat * 8)

/-- The rounding mode of a layout-A word: its suffix, or `fpm`.rm (R69). -/
def wordRounding (rnd : Nat) (fpm : Word) : Rounding :=
  if rnd ≥ 4 then Rounding.ofCode (rnd % 4) else fpmRounding fpm

/-- A signed quotient, truncated towards zero; by zero it is −1 (R90). -/
def quotS {n : Nat} (x y : BitVec n) : BitVec n := if y = 0 then BitVec.allOnes n else x.sdiv y

/-- An unsigned quotient; by zero it is all ones (R90). -/
def quotU {n : Nat} (x y : BitVec n) : BitVec n := if y = 0 then BitVec.allOnes n else x.udiv y

/-- A signed remainder with the sign of the dividend; by zero it is the dividend (R90). -/
def remS {n : Nat} (x y : BitVec n) : BitVec n := if y = 0 then x else x.srem y

/-- An unsigned remainder; by zero it is the dividend (R90). -/
def remU {n : Nat} (x y : BitVec n) : BitVec n := if y = 0 then x else x.umod y

/-- The high half of a signed product (R89, R126). -/
def mulHighS {n : Nat} (x y : BitVec n) : BitVec n := BitVec.ofInt n (x.toInt * y.toInt / 2 ^ n)

/-- The high half of an unsigned product (R89, R126). -/
def mulHighU {n : Nat} (x y : BitVec n) : BitVec n := BitVec.ofNat n (x.toNat * y.toNat / 2 ^ n)

/-- A bit field of a value, sign- or zero-extended; bits above the top read as zero (R93, R126). -/
def extractField {n : Nat} (x : BitVec n) (pos len : Nat) (signed : Bool) : BitVec n :=
  let f := x.toNat / 2 ^ pos % 2 ^ len
  if signed && f ≥ 2 ^ (len - 1) then BitVec.ofInt n ((f : Int) - 2 ^ len) else BitVec.ofNat n f

/-- A bit field of a value replaced; bits that would land above the top are dropped (R93, R126). -/
def insertField {n : Nat} (x f : BitVec n) (pos len : Nat) : BitVec n :=
  let mask := BitVec.ofNat n ((2 ^ len - 1) * 2 ^ pos)
  (x &&& ~~~ mask) ||| (BitVec.ofNat n (f.toNat % 2 ^ len * 2 ^ pos))

/-- `bfx` under a control word (R93). -/
def bfxWord (x c : Word) : Word :=
  extractField x (c.toNat % 64) (c.toNat / 64 % 64 + 1) (c.toNat / 4096 % 2 = 1)

end Sys2Proof.Machine
end

