-- ==== Sys2Proof/Machine/LaneFloat.lean ====
section
/-!
DEFINITION. The floating-point lane words and the function instructions (R127 to R131).
-/

namespace Sys2Proof.Machine

/-! ### Arithmetic -/

/-- The operand of a formatted source: the low bits of its format (R122). -/
def formatted (fmt v : Nat) : Nat := v % 2 ^ formatBits fmt

/-- The rounding mode of a lane word (R69). -/
def Lane.rounding (x : Lane) : Rounding := wordRounding x.f.rnd x.m.car.fpm

/-- `fpm`.ftz as a burst sees it (R47). -/
def Lane.ftz (x : Lane) : Bool := fpmFtz x.m.car.fpm

/-- A word that gives a code with flags in each active lane (R25, R122). -/
def Lane.outCoded (x : Lane) (v : Nat → Coded) : LaneOut :=
  { x.out (fun l => BitVec.ofNat 32 (v l).1) with flags := joinFlags ((lanesOf x.active).map (fun l => (v l).2)) }

/-- A floating-point word of up to three operands of its format. -/
def laneFp (i : Instr) (f : LaneFields) (op : Bool → Rounding → Bool → Nat → Nat → Nat → Coded) (s : State) :
    Host.Outcome State Fault Refusal :=
  lanePure i f (fun x => x.outCoded (fun l =>
    op x.ftz x.rounding f.sat (formatted f.fmt (x.a l)) (formatted f.fmt (x.bsrc l)) (formatted f.fmt (x.c l)))) s

/-- `vfadd` (R127). -/
def execVfadd (f : LaneFields) (s : State) : Host.Outcome State Fault Refusal :=
  laneFp (.vfadd f) f (fun ftz rm sat a b _ => fpAdd f.fmt ftz rm sat a b) s

/-- `vfsub` (R127). -/
def execVfsub (f : LaneFields) (s : State) : Host.Outcome State Fault Refusal :=
  laneFp (.vfsub f) f (fun ftz rm sat a b _ => fpSub f.fmt ftz rm sat a b) s

/-- `vfmul` (R127). -/
def execVfmul (f : LaneFields) (s : State) : Host.Outcome State Fault Refusal :=
  laneFp (.vfmul f) f (fun ftz rm sat a b _ => fpMul f.fmt ftz rm sat a b) s

/-- `vfma` (R127): one rounding. -/
def execVfma (f : LaneFields) (s : State) : Host.Outcome State Fault Refusal :=
  laneFp (.vfma f) f (fun ftz rm sat a b c => fpFma f.fmt ftz rm sat a b c) s

/-- `vfmin` (R128). -/
def execVfmin (f : LaneFields) (s : State) : Host.Outcome State Fault Refusal :=
  laneFp (.vfmin f) f (fun ftz _ _ a b _ => fpMinMax f.fmt ftz false a b) s

/-- `vfmax` (R128). -/
def execVfmax (f : LaneFields) (s : State) : Host.Outcome State Fault Refusal :=
  laneFp (.vfmax f) f (fun ftz _ _ a b _ => fpMinMax f.fmt ftz true a b) s

/-- `vfcmp` (R130). -/
def execVfcmp (f : LaneFields) (s : State) : Host.Outcome State Fault Refusal :=
  lanePure (.vfcmp f) f (fun x =>
    let r := fun l => fpCompare f.fmt x.ftz (f.immField 0 4) (formatted f.fmt (x.a l)) (formatted f.fmt (x.bsrc l))
    { x.outPred (fun l => (r l).1) with flags := joinFlags ((lanesOf x.active).map (fun l => (r l).2)) }) s

/-- `vfclass` (R131). -/
def execVfclass (f : LaneFields) (s : State) : Host.Outcome State Fault Refusal :=
  lanePure (.vfclass f) f (fun x => x.out (fun l => BitVec.ofNat 32 (fpClass f.fmt (formatted f.fmt (x.a l))))) s

/-! ### Function instructions -/

/-- The function instructions of R129. -/
inductive LaneFunction where
  | rcp | rsqrt | exp2 | log2 | tanh
deriving DecidableEq, Repr

/-- The lane opcode of a function (R72). -/
def LaneFunction.opcode : LaneFunction → Nat
  | .rcp => 0x28
  | .rsqrt => 0x29
  | .exp2 => 0x2a
  | .log2 => 0x2b
  | .tanh => 0x2c

/-- Fraction bits of the fixed-point values below. -/
def fixBits : Nat := 160

/-- One in fixed point. -/
def fixOne : Nat := 2 ^ fixBits

/-- The integer square root of a number, bit by bit from bit `k`. -/
def isqrt (n : Nat) : Nat → Nat → Nat
  | 0, r => r
  | k + 1, r => isqrt n k (if (r + 2 ^ k) * (r + 2 ^ k) ≤ n then r + 2 ^ k else r)

/-- ln 2 in fixed point: the sum of 1 / (k × 2^k). -/
def fixLn2 : Nat := ((List.range 170).map (fun k => fixOne / ((k + 1) * 2 ^ (k + 1)))).sum

/-- e^y in fixed point for y in [0, 1), `n` terms of its series. -/
def fixExp (y : Nat) : Nat → Nat → Nat → Nat
  | 0, _, _ => 0
  | n + 1, k, t => t + fixExp y n (k + 1) (t * y / fixOne / (k + 1))

/-- ln m in fixed point for a fixed-point m in [1, 2], by the series of 2 artanh((m − 1) / (m + 1)). -/
def fixLn (m : Nat) : Nat :=
  let z := (m - fixOne) * fixOne / (m + fixOne)
  let z2 := z * z / fixOne
  2 * ((List.range 60).foldl (fun (p : Nat × Nat) k => (p.1 + p.2 / (2 * k + 1), p.2 * z2 / fixOne)) (0, z)).1

/-- 2^v for a fixed-point v, as a dyadic value near it. -/
def dyadicExp2 (v : Int) : Dyadic :=
  let i := v / (fixOne : Int)
  let f := (v % (fixOne : Int)).toNat
  ⟨fixExp (f * fixLn2 / fixOne) 60 0 fixOne, i - fixBits⟩

/-- A dyadic value in fixed point, cut. -/
def Dyadic.fixed (d : Dyadic) : Int :=
  let k := d.e + fixBits
  if k ≥ 0 then d.m * 2 ^ k.toNat else d.m / 2 ^ (-k).toNat

/-- Whether a number is a power of two. -/
def isPowerOfTwo (m : Nat) : Bool := m = 2 ^ (bitLength m - 1)

/-- The result of a function of a non-zero finite operand: a dyadic value within 2^−100 of it, relative to it or to one,
and whether it is exact (R129). -/
def functionValue (fn : LaneFunction) (neg : Bool) (m : Nat) (e : Int) : Dyadic × Bool :=
  match fn with
  | .rcp =>
    let q : Int := (2 ^ (bitLength m + fixBits) / m : Nat)
    (⟨if neg then -q else q, -e - (bitLength m + fixBits : Nat)⟩, isPowerOfTwo m)
  | .rsqrt =>
    -- an even exponent, so that its half is exact
    let n := if e % 2 = 0 then m else 2 * m
    let h := (if e % 2 = 0 then e else e - 1) / 2
    let r := isqrt (2 ^ (4 * fixBits) / n) (2 * fixBits + 1) 0
    (⟨r, -h - 2 * fixBits⟩, isPowerOfTwo m && (e + bitLength m - 1) % 2 = 0)
  | .exp2 =>
    let v : Dyadic := ⟨if neg then -(m : Int) else m, e⟩
    -- beyond ±1024 the result is past every finite value, or below every non-zero one
    if e + bitLength m > 10 then (⟨1, if neg then -2000 else 2000⟩, false)
    else (dyadicExp2 v.fixed, e ≥ 0 || m % 2 ^ (-e).toNat = 0)
  | .log2 =>
    let k : Int := e + bitLength m - 1
    let ln := fixLn (m * fixOne / 2 ^ (bitLength m - 1))
    (⟨k * (fixOne : Int) + (ln * fixOne / fixLn2 : Nat), -(fixBits : Int)⟩, isPowerOfTwo m)
  | .tanh =>
    let v : Dyadic := ⟨2 * m, e⟩
    -- e^(−2x) = 2^(−2x / ln 2)
    let w := if e + bitLength m > 8 then ⟨0, 0⟩
      else dyadicExp2 (-(v.fixed * (fixOne : Int) / (fixLn2 : Int)))
    let q := w.fixed.toNat
    let t : Int := ((fixOne - q) * fixOne / (fixOne + q) : Nat)
    (⟨if neg then -t else t, -(fixBits : Int)⟩, false)

/-- The error bound of a function's result (R129), as a dyadic value. -/
def functionBound (fn : LaneFunction) (fmt : Nat) (v : Dyadic) (inUnit : Bool) : Dyadic :=
  let f := formatOf fmt
  let wide : Bool := fmt = 0
  let top : Int := v.e + bitLength v.m.natAbs - 1
  let ulp : Int := max top (1 - f.bias) - f.man
  let ulps : Dyadic :=
    match fn with
    | .rcp => ⟨1, ulp⟩
    | _ => if wide then ⟨2, ulp⟩ else ⟨1, ulp⟩
  match fn with
  | .log2 => if inUnit then ⟨1, if wide then -22 else -10⟩ else ulps
  | .tanh =>
    let abs : Dyadic := ⟨1, if wide then -23 else -11⟩
    if ulps.lt abs then abs else ulps
  | _ => ulps

/-- Whether a code is finite, carries the sign of a value where it is zero, and lies within a bound of the value. -/
def withinBound (f : Format) (x : Nat) (v bound : Dyadic) : Bool :=
  match decode f x with
  | .nan => false
  | .inf _ => false
  | .zero s => s = (v.m < 0) && !(bound.lt ⟨v.m.natAbs, v.e⟩)
  | r =>
    let d := r.dyadic.add v.neg
    !(bound.lt ⟨d.m.natAbs, d.e⟩)

/-- The result of a function of a non-zero finite operand (R129): an overflow, an exact result, or a code that the
implementation chooses within the bound. -/
def functionFinite (fn : LaneFunction) (fmt x : Nat) (ftz sat neg : Bool) (m : Nat) (e : Int) : Coded :=
  let f := formatOf fmt
  let (v, exact) := functionValue fn neg m e
  let top := (decode f (maxFinite f)).dyadic
  let vneg : Bool := v.m < 0
  if v.m ≠ 0 ∧ top.lt ⟨v.m.natAbs, v.e⟩ then
    (if sat then withSign f vneg (maxFinite f) else infCode f vneg, flagOF ||| flagNX)
  else
    let near := if v.m = 0 then (0, 0) else roundFinite f .rne false vneg v.m.natAbs v.e
    if exact ∧ near.2 = 0 then flushResult ftz fmt near
    else
      let top' : Int := e + bitLength m - 1
      let inUnit : Bool := top' = -1 || top' = 0 || (top' = 1 && isPowerOfTwo m)
      let own := Config.laneFunction fn.opcode fmt x % 2 ^ formatBits fmt
      let chosen := if ¬ (fn = .rcp ∧ fmt ≠ 0) ∧ withinBound f own v (functionBound fn fmt v inUnit) then own else near.1
      let tiny : Bool := chosen % 2 ^ (f.exp + f.man) < 2 ^ f.man
      flushResult ftz fmt (chosen, if tiny then flagUF ||| flagNX else flagNX)

/-- A function of an operand code (R129). -/
def functionResult (fn : LaneFunction) (fmt : Nat) (ftz sat : Bool) (a : Nat) : Coded :=
  let f := formatOf fmt
  let x := flushOperand ftz fmt a
  let invalid : Coded := (canonicalNaN f, flagNV)
  match decode f x with
  | .nan => (quieten f x, signalFlag f [x])
  | .inf neg =>
    match fn with
    | .rcp => (withSign f neg 0, 0)
    | .rsqrt => if neg then invalid else (0, 0)
    | .exp2 => if neg then (0, 0) else (infCode f false, 0)
    | .log2 => if neg then invalid else (infCode f false, 0)
    | .tanh => (withSign f neg (f.bias.toNat * 2 ^ f.man), 0)
  | .zero neg =>
    match fn with
    | .rcp => (infCode f neg, flagDZ)
    | .rsqrt => (infCode f neg, flagDZ)
    | .exp2 => (f.bias.toNat * 2 ^ f.man, 0)
    | .log2 => (infCode f true, flagDZ)
    | .tanh => (x, 0)
  | .fin neg m e =>
    if neg ∧ (fn = .rsqrt ∨ fn = .log2) then invalid
    else functionFinite fn fmt x ftz sat neg m e

/-- A function instruction (R129). -/
def laneFunction (i : Instr) (f : LaneFields) (fn : LaneFunction) (s : State) : Host.Outcome State Fault Refusal :=
  laneFp i f (fun ftz _ sat a _ _ => functionResult fn f.fmt ftz sat a) s

/-- `vrcp` (R129). -/
def execVrcp (f : LaneFields) (s : State) : Host.Outcome State Fault Refusal := laneFunction (.vrcp f) f .rcp s

/-- `vrsqrt` (R129). -/
def execVrsqrt (f : LaneFields) (s : State) : Host.Outcome State Fault Refusal := laneFunction (.vrsqrt f) f .rsqrt s

/-- `vexp2` (R129). -/
def execVexp2 (f : LaneFields) (s : State) : Host.Outcome State Fault Refusal := laneFunction (.vexp2 f) f .exp2 s

/-- `vlog2` (R129). -/
def execVlog2 (f : LaneFields) (s : State) : Host.Outcome State Fault Refusal := laneFunction (.vlog2 f) f .log2 s

/-- `vtanh` (R129). -/
def execVtanh (f : LaneFields) (s : State) : Host.Outcome State Fault Refusal := laneFunction (.vtanh f) f .tanh s

end Sys2Proof.Machine
end

