-- ==== Sys2Proof/Machine/LaneInt.lean ====
section
/-!
DEFINITION. The integer lane words (R126).
-/

namespace Sys2Proof.Machine

/-- The width of an integer lane word (R126): 32, or 64 for `.i64`. -/
def Lane.width (x : Lane) : Nat := if x.f.fmt = 10 then 64 else 32

/-- The u bit of an integer lane word. -/
def Lane.uns (x : Lane) : Bool := x.f.immBit 0

/-- Source a as a value of the word's width. -/
def Lane.av (x : Lane) (l : Nat) : BitVec x.width := BitVec.ofNat _ (x.a l)

/-- Source b as a value of the word's width. -/
def Lane.bv (x : Lane) (l : Nat) : BitVec x.width := BitVec.ofNat _ (x.bsrc l)

/-- Source c as a value of the word's width. -/
def Lane.cv (x : Lane) (l : Nat) : BitVec x.width := BitVec.ofNat _ (x.c l)

/-- A value as the integer the word reads: signed, or unsigned where the u bit is set. -/
def asInt {n : Nat} (u : Bool) (v : BitVec n) : Int := if u then v.toNat else v.toInt

/-- The narrowing of R126: wrapped, or saturated as signed or unsigned. -/
def narrow (n : Nat) (sat u : Bool) (v : Int) : BitVec n :=
  if sat then (if u then satU n v else satS n v) else wrapInt n v

/-- An integer word whose result is a value of its width for each lane. -/
def laneInt (i : Instr) (f : LaneFields) (v : (x : Lane) → Nat → BitVec x.width) (s : State) : Host.Outcome State Fault Refusal :=
  lanePure i f (fun x => x.outWide (fun l => (v x l).toNat)) s

/-- An integer word that computes exactly and narrows once (R126). -/
def laneArith (i : Instr) (f : LaneFields) (v : Int → Int → Int → Int) (s : State) : Host.Outcome State Fault Refusal :=
  laneInt i f (fun x l => narrow x.width f.sat x.uns
    (v (asInt x.uns (x.av l)) (asInt x.uns (x.bv l)) (asInt x.uns (x.cv l)))) s

/-- `vadd` (R126): the sum, narrowed. -/
def execVadd (f : LaneFields) (s : State) : Host.Outcome State Fault Refusal :=
  laneArith (.vadd f) f (fun a b _ => a + b) s

/-- `vsub` (R126): the difference, narrowed. -/
def execVsub (f : LaneFields) (s : State) : Host.Outcome State Fault Refusal :=
  laneArith (.vsub f) f (fun a b _ => a - b) s

/-- `vmul` (R126): the product, narrowed. -/
def execVmul (f : LaneFields) (s : State) : Host.Outcome State Fault Refusal :=
  laneArith (.vmul f) f (fun a b _ => a * b) s

/-- `vmulh` (R126): the high half of the product. -/
def execVmulh (f : LaneFields) (s : State) : Host.Outcome State Fault Refusal :=
  laneInt (.vmulh f) f (fun x l => if x.uns then mulHighU (x.av l) (x.bv l) else mulHighS (x.av l) (x.bv l)) s

/-- `vmad` (R126): a product and a sum, narrowed once. -/
def execVmad (f : LaneFields) (s : State) : Host.Outcome State Fault Refusal :=
  laneArith (.vmad f) f (fun a b c => a * b + c) s

/-- `vmin` (R126): the smaller value. -/
def execVmin (f : LaneFields) (s : State) : Host.Outcome State Fault Refusal :=
  laneInt (.vmin f) f (fun x l => if asInt x.uns (x.av l) ≤ asInt x.uns (x.bv l) then x.av l else x.bv l) s

/-- `vmax` (R126): the larger value. -/
def execVmax (f : LaneFields) (s : State) : Host.Outcome State Fault Refusal :=
  laneInt (.vmax f) f (fun x l => if asInt x.uns (x.av l) ≤ asInt x.uns (x.bv l) then x.bv l else x.av l) s

/-- `vabs` (R126): the magnitude, wrapped. -/
def execVabs (f : LaneFields) (s : State) : Host.Outcome State Fault Refusal :=
  laneInt (.vabs f) f (fun x l => wrapInt x.width (x.av l).toInt.natAbs) s

/-- `vand` (R126): the bitwise and. -/
def execVand (f : LaneFields) (s : State) : Host.Outcome State Fault Refusal :=
  laneInt (.vand f) f (fun x l => x.av l &&& x.bv l) s

/-- `vor` (R126): the bitwise or. -/
def execVor (f : LaneFields) (s : State) : Host.Outcome State Fault Refusal :=
  laneInt (.vor f) f (fun x l => x.av l ||| x.bv l) s

/-- `vxor` (R126): the bitwise exclusive or. -/
def execVxor (f : LaneFields) (s : State) : Host.Outcome State Fault Refusal :=
  laneInt (.vxor f) f (fun x l => x.av l ^^^ x.bv l) s

/-- `vnot` (R126): the bits inverted. -/
def execVnot (f : LaneFields) (s : State) : Host.Outcome State Fault Refusal :=
  laneInt (.vnot f) f (fun x l => ~~~ x.av l) s

/-- The shift amount of a lane shift: the low bits of a 32-bit source (R126). -/
def Lane.shift (x : Lane) (l : Nat) : Nat := (x.code x.f.b.toNat l).toNat % x.width

/-- `vshl` (R126): a shift to the left. -/
def execVshl (f : LaneFields) (s : State) : Host.Outcome State Fault Refusal :=
  laneInt (.vshl f) f (fun x l => x.av l <<< x.shift l) s

/-- `vshr` (R126): an unsigned shift to the right. -/
def execVshr (f : LaneFields) (s : State) : Host.Outcome State Fault Refusal :=
  laneInt (.vshr f) f (fun x l => x.av l >>> x.shift l) s

/-- `vsra` (R126): a signed shift to the right. -/
def execVsra (f : LaneFields) (s : State) : Host.Outcome State Fault Refusal :=
  laneInt (.vsra f) f (fun x l => (x.av l).sshiftRight (x.shift l)) s

/-- `vclz` (R126): leading zero bits, the width for zero. -/
def execVclz (f : LaneFields) (s : State) : Host.Outcome State Fault Refusal :=
  laneInt (.vclz f) f (fun x l => BitVec.ofNat _ (leadingZeros (x.av l))) s

/-- `vpopc` (R126): one bits. -/
def execVpopc (f : LaneFields) (s : State) : Host.Outcome State Fault Refusal :=
  laneInt (.vpopc f) f (fun x l => BitVec.ofNat _ (popCount (x.av l))) s

/-- `vbfx` (R126): a bit field of a. -/
def execVbfx (f : LaneFields) (s : State) : Host.Outcome State Fault Refusal :=
  laneInt (.vbfx f) f
    (fun x l => extractField (x.av l) (f.immField 0 5) (f.immField 5 5 + 1) (f.immBit 10)) s

/-- `vbfi` (R126): b with a bit field replaced by the low bits of a. -/
def execVbfi (f : LaneFields) (s : State) : Host.Outcome State Fault Refusal :=
  laneInt (.vbfi f) f
    (fun x l => insertField (x.bv l) (x.av l) (f.immField 0 5) (f.immField 5 5 + 1)) s

/-- `vsel` (R126): a where the predicate of imm holds, else b. -/
def execVsel (f : LaneFields) (s : State) : Host.Outcome State Fault Refusal :=
  laneInt (.vsel f) f
    (fun x l => if hasLane (x.pred (f.immField 0 3)) l != f.immBit 3 then x.av l else x.bv l) s

/-- `vcmp` (R126): a predicate from a condition of R91. -/
def execVcmp (f : LaneFields) (s : State) : Host.Outcome State Fault Refusal :=
  lanePure (.vcmp f) f (fun x => x.outPred (fun l => condHolds (f.immField 0 4) (x.av l) (x.bv l))) s

/-- `vmov` (R126): a. -/
def execVmov (f : LaneFields) (s : State) : Host.Outcome State Fault Refusal :=
  laneInt (.vmov f) f (fun x l => x.av l) s

/-- `vli` (R126): the immediate, sign-extended in a pair. -/
def execVli (f : LaneFields) (s : State) : Host.Outcome State Fault Refusal :=
  laneInt (.vli f) f (fun x _ => f.imm.signExtend x.width) s

end Sys2Proof.Machine
end

