-- ==== Sys2Proof/Machine/LaneCross.lean ====
section
/-!
DEFINITION. The lane words across lanes, on predicates and for keyed draws (R138 to R143).
-/

namespace Sys2Proof.Machine

/-! ### Moves between lanes -/

/-- A move between lanes (R139): the value of a in the source lane of each lane, 0 and the EXITED status where that lane
has exited, and a's own value where there is no source lane. -/
def moveLanes (x : Lane) (st : Nat) (source : Nat → Option Nat) : LaneOut :=
  let exited := fun l => match source l with
    | some k => hasLane x.m.car.xm k
    | none => false
  { x.out (fun l => BitVec.ofNat 32 (match source l with
      | some k => if hasLane x.m.car.xm k then 0 else x.a k
      | none => x.a l)) with
    status := if st = 0 then none else some (st, maskOf exited) }

/-- `vperm` (R139): the source lane from b. -/
def execVperm (f : LaneFields) (s : State) : Host.Outcome State Fault Refusal :=
  lanePure (.vperm f) f (fun x => moveLanes x (f.immField 0 3) (fun l => some (x.bsrc l % 32))) s

/-- The source lane of a shuffle (R139). -/
def shuffleSource (mode n l : Nat) : Option Nat :=
  match mode with
  | 0 => if l < n then none else some (l - n)
  | 1 => if l + n > 31 then none else some (l + n)
  | 2 => some (l ^^^ n)
  | _ => some ((l + n) % 32)

/-- `vshfl` (R139). -/
def execVshfl (f : LaneFields) (s : State) : Host.Outcome State Fault Refusal :=
  lanePure (.vshfl f) f (fun x =>
    moveLanes x (f.immField 0 3) (shuffleSource (f.immField 3 2) (f.immField 5 5))) s

/-- `vbcast` (R139): one source lane for all. -/
def execVbcast (f : LaneFields) (s : State) : Host.Outcome State Fault Refusal :=
  lanePure (.vbcast f) f (fun x => moveLanes x (f.immField 5 3) (fun _ => some (f.immField 0 5))) s

/-! ### Folds -/

/-- The member set of a cross-lane word (R138). -/
def Lane.members (x : Lane) : Mask := x.active &&& x.f.imm

/-- An integer fold operation of R140 on values of `n` bits. -/
def foldInteger (n op a b : Nat) : Nat :=
  let x := BitVec.ofNat n a
  let y := BitVec.ofNat n b
  match op with
  | 0 => (x + y).toNat
  | 1 => if x.toInt ≤ y.toInt then a else b
  | 2 => if x.toInt ≤ y.toInt then b else a
  | 3 => min a b
  | 4 => max a b
  | 5 => (x &&& y).toNat
  | 6 => (x ||| y).toNat
  | _ => (x ^^^ y).toNat

/-- A node of a fold (R140): a value with the flags raised on its way. -/
def foldNode (fmt op : Nat) (ftz : Bool) (rm : Rounding) (p q : Coded) : Coded :=
  let r : Coded :=
    if fmt ≥ 9 then (foldInteger (formatBits fmt) op p.1 q.1, 0)
    else if op = 0 then fpAdd fmt ftz rm false p.1 q.1
    else fpMinMax fmt ftz (op = 2) p.1 q.1
  (r.1, p.2 ||| q.2 ||| r.2)
/-- The identity of a fold (R140). -/
def foldIdentity (fmt op : Nat) : Nat :=
  let n := formatBits fmt
  if fmt ≥ 9 then
    match op with
    | 1 => 2 ^ (n - 1) - 1
    | 2 => 2 ^ (n - 1)
    | 3 => 2 ^ n - 1
    | 5 => 2 ^ n - 1
    | _ => 0
  else
    match op with
    | 1 => infCode (formatOf fmt) false
    | 2 => infCode (formatOf fmt) true
    | _ => 0

/-- The op code of `vred` and `vscan` (R125). -/
def foldOpOf (f : LaneFields) : Nat := f.mod.toNat / 2 % 8

/-- A member's value as it enters a fold: subnormals are read as zero under `ftz` (R140). -/
def Lane.foldValue (x : Lane) (l : Nat) : Coded :=
  if x.f.fmt ≥ 9 then (x.a l, 0) else (flushOperand x.ftz x.f.fmt (formatted x.f.fmt (x.a l)), 0)

/-- A fold's results in the member lanes, of the fold's width, with the flags of all of them. -/
def Lane.outFold (x : Lane) (r : Nat → Coded) : LaneOut :=
  let vals := (List.range 32).map r
  let res : LaneResult :=
    if x.f.fmt = 10 then .pairs x.members (vals.map Prod.fst)
    else .lanes x.members (vals.map (fun v => BitVec.ofNat 32 v.1))
  { res := res, flags := joinFlags ((lanesOf x.members).map (fun l => (r l).2)) }

/-- `vred` (R140): the tree fold of the members, to every member. -/
def execVred (f : LaneFields) (s : State) : Host.Outcome State Fault Refusal :=
  lanePure (.vred f) f (fun x =>
    let op := foldNode f.fmt (foldOpOf f) x.ftz (fpmRounding x.m.car.fpm)
    let vs := (List.range 32).map (fun l => if hasLane x.members l then some (x.foldValue l) else none)
    let r := (treeFold op vs).getD (0, 0)
    x.outFold (fun _ => r)) s

/-- `vscan` (R140): the rank fold of the members up to each member, or below it with `.ex`. -/
def execVscan (f : LaneFields) (s : State) : Host.Outcome State Fault Refusal :=
  lanePure (.vscan f) f (fun x =>
    let op := foldNode f.fmt (foldOpOf f) x.ftz (fpmRounding x.m.car.fpm)
    let ex : Bool := f.mod.toNat % 2 = 1
    x.outFold (fun l =>
      let before := (lanesOf x.members).filter (fun k => if ex then k < l else k ≤ l)
      (rankFold op (before.map x.foldValue)).getD (foldIdentity f.fmt (foldOpOf f), 0))) s

/-- A 32-bit result in the member lanes. -/
def Lane.outMembers (x : Lane) (v : Nat → LaneWord) : LaneOut := { res := .lanes x.members ((List.range 32).map v) }

/-- A predicate source, inverted where mod bit 80 says so (R125). -/
def Lane.testPred (x : Lane) (p : Nat) : Mask := if x.f.mod.toNat % 2 = 1 then ~~~ x.pred p else x.pred p

/-- `vballot` (R141). -/
def execVballot (f : LaneFields) (s : State) : Host.Outcome State Fault Refusal :=
  lanePure (.vballot f) f (fun x => x.outMembers (fun _ => x.members &&& x.testPred f.a.toNat)) s

/-- `vcompact` (R141): the values of the members with the predicate, packed to the first members. -/
def execVcompact (f : LaneFields) (s : State) : Host.Outcome State Fault Refusal :=
  lanePure (.vcompact f) f (fun x =>
    let chosen := (lanesOf x.members).filter (hasLane (x.testPred f.b.toNat))
    let rank := fun l => ((lanesOf x.members).filter (· < l)).length
    x.outMembers (fun l => match chosen[rank l]? with
      | some k => BitVec.ofNat 32 (x.a k)
      | none => 0)) s

/-! ### Predicates -/

/-- `pand` (R142). -/
def execPand (f : LaneFields) (s : State) : Host.Outcome State Fault Refusal :=
  lanePure (.pand f) f (fun x => { res := .pred x.active (x.pred f.a.toNat &&& x.pred f.b.toNat) }) s

/-- `por` (R142). -/
def execPor (f : LaneFields) (s : State) : Host.Outcome State Fault Refusal :=
  lanePure (.por f) f (fun x => { res := .pred x.active (x.pred f.a.toNat ||| x.pred f.b.toNat) }) s

/-- `pnot` (R142). -/
def execPnot (f : LaneFields) (s : State) : Host.Outcome State Fault Refusal :=
  lanePure (.pnot f) f (fun x => { res := .pred x.active (~~~ x.pred f.a.toNat) }) s

/-- `pmov` (R142). -/
def execPmov (f : LaneFields) (s : State) : Host.Outcome State Fault Refusal :=
  lanePure (.pmov f) f (fun x => { res := .pred x.active (x.pred f.a.toNat) }) s

/-- `pmov.v` (R142). -/
def execPmovV (f : LaneFields) (s : State) : Host.Outcome State Fault Refusal :=
  lanePure (.pmovV f) f (fun x => x.outPred (fun l => x.a l ≠ 0)) s

/-- `pmov.i` (R142). -/
def execPmovI (f : LaneFields) (s : State) : Host.Outcome State Fault Refusal :=
  lanePure (.pmovI f) f (fun x => { res := .pred x.active f.imm }) s

/-! ### Keyed draws -/

/-- The draw counter as the burst sees it (R121, R143). -/
def Lane.drawctr (x : Lane) : Word := x.m.car.drawctr + BitVec.ofNat 64 x.b.draws

/-- `vrand` (R143). -/
def execVrand (f : LaneFields) (s : State) : Host.Outcome State Fault Refusal :=
  lanePure (.vrand f) f (fun x => { x.out (draw x.m.car.rkey x.drawctr) with draws := 1 }) s

/-- `vrandf` (R143). -/
def execVrandf (f : LaneFields) (s : State) : Host.Outcome State Fault Refusal :=
  lanePure (.vrandf f) f (fun x => { x.out (drawF x.m.car.rkey x.drawctr) with draws := 1 }) s

end Sys2Proof.Machine
end

