-- ==== Sys2Proof/Machine/LaneMem.lean ====
section
/-!
DEFINITION. The lane memory words (R59, R144 to R147).
-/

namespace Sys2Proof.Machine

/-- Bytes of a lane access width code (R144). -/
def laneSize (w : Nat) : Nat := [1, 2, 4, 8, 1, 2].getD w 4

/-- A loaded value extended under a lane width code (R144). -/
def laneExtend (w n : Nat) : Nat :=
  match w with
  | 4 => ((BitVec.ofNat 8 n).signExtend 32).toNat
  | 5 => ((BitVec.ofNat 16 n).signExtend 32).toNat
  | _ => n

/-- The values of the active lanes as a result of the word's width (R144). -/
def Lane.outLoaded (x : Lane) (vals : List (Nat × Nat)) : LaneOut :=
  x.outWide (fun l => laneExtend x.f.opx (Tab.getD vals l 0))

/-- The lanes' addresses are naturally aligned (R144); the lowest lane that breaks this gives the fault (R124). -/
def checkAligned (size : Nat) (vas : List (Nat × Word)) : Act Unit :=
  vas.forM (fun v => check (v.2.toNat % size = 0) codeMisaligned 0 v.2)

/-- The translations of the lanes' addresses: PAGE_FAULT comes before PROTECTION (R124). -/
def translateLanes (k : Access) (vas : List (Nat × Word)) : Act (List (Nat × Word × Translation)) := do
  let ts ← vas.mapM (fun v => do pure (v.1, v.2, ← lookup v.2 k))
  ts.forM (fun t => permit t.2.2 t.2.1 k)
  pure ts

/-- The address of a lane in virtual memory: a pair and a signed offset (R145). -/
def Lane.address (x : Lane) (l : Nat) : Word := BitVec.ofNat 64 (x.pair x.f.a.toNat l) + x.f.imm.signExtend 64

/-- `bnd_check(j, x)` (R59) under the words of a bound register: whether it hits, and the value stored, none for a
trap. -/
def boundVerdict (bounds control : Word) (v : LaneWord) : Bool × Option LaneWord :=
  let lo : LaneWord := bounds.truncate 32
  let hi : LaneWord := (bounds >>> 32).truncate 32
  let action := control.toNat % 4
  let ints : Bool := control.toNat / 4 % 2 = 1
  let nan : Bool := !ints && decode (formatOf 0) v.toNat = .nan
  let less := fun (a b : LaneWord) =>
    if ints then decide (a.toInt < b.toInt)
    else
      let x := decode (formatOf 0) a.toNat
      let y := decode (formatOf 0) b.toNat
      x ≠ .nan && y ≠ .nan && valueLess x y
  if action = 0 ∨ ¬ (nan ∨ less v lo ∨ less hi v) then (false, some v)
  else (true, if action = 1 then some v else if action = 2 then some (if nan || less v lo then lo else hi) else none)

/-- `bnd_check(j, x)` (R59) on one stored value of a lane; the burst holds the hit (R121). -/
def boundCheck (j : Nat) (v : LaneWord) (at_ : Word) : Act LaneWord := do
  let m ← me
  let c := (← get).core m.core
  let r := boundVerdict (Tab.getD c.bndv j 0) (Tab.getD c.bndc j 0) v
  if r.1 then modBurst (fun b => { b with hits := if b.hits.contains j then b.hits else b.hits ++ [j] })
  match r.2 with
  | some x => pure x
  | none => raise codeBound j at_

/-- The stored values of the active lanes, passed through the bound register that ctl names (R59, R145). -/
def Lane.stored (x : Lane) (vas : List (Nat × Word)) : Act (List (List Byte)) :=
  vas.mapM (fun v => do
    let n := x.bsrc v.1
    match x.f.bound with
    | some j => pure (leBytes 4 (← boundCheck j (BitVec.ofNat 32 n) v.2).toNat)
    | none => pure (leBytes (laneSize x.f.opx) n))

/-- Stores held in the burst, in ascending lane order (R121, R144). -/
def holdStores (es : List StoreEntry) : Act Unit := modBurst (fun b => { b with stores := b.stores ++ es })

/-- `vld` (R145). -/
def execVld (f : LaneFields) (s : State) : Host.Outcome State Fault Refusal :=
  laneOp (.vld f) f (fun x => do
    let vas := (lanesOf x.active).map (fun l => (l, x.address l))
    checkAligned (laneSize f.opx) vas
    let ts ← translateLanes .read vas
    let vals ← ts.mapM (fun t => do pure (t.1, leNat (← loadAt t.2.2 t.2.1 (laneSize f.opx))))
    pure (x.outLoaded vals)) s

/-- `vst` (R145). -/
def execVst (f : LaneFields) (s : State) : Host.Outcome State Fault Refusal :=
  laneOp (.vst f) f (fun x => do
    let vas := (lanesOf x.active).map (fun l => (l, x.address l))
    checkAligned (laneSize f.opx) vas
    let ts ← translateLanes .write vas
    let vals ← x.stored vas
    let es ← (ts.zip vals).mapM (fun e => storeEntry e.1.2.2 e.1.2.1 e.2)
    holdStores es
    pure {}) s

/-! ### Scratchpad -/

/-- The half whose scratchpad a word reaches: its own, or the other one of a paired block, for the offsets of its active
lanes (R146). -/
def reachHalf (partner : Bool) (os : List (Nat × Word)) : Act Nat := do
  let m ← me
  if ¬ partner then pure m.car.half
  else if m.blk.halves.length > 1 then pure (1 - m.car.half)
  else
    os.forM (fun o => raise codeScratch 1 o.2)
    pure m.car.half

/-- The lanes' scratchpad accesses lie within the claim (R146). -/
def checkClaim (size : Nat) (os : List (Nat × Word)) : Act Unit := do
  let m ← me
  os.forM (fun o => check (o.2.toNat + size ≤ m.blk.scratchBytes) codeScratch 0 o.2)

/-- Whether a chunk of 8 KiB of a range is poisoned (R405). -/
def chunkPoisoned {w : Nat} (p : BitVec w) (o n : Nat) : Bool :=
  (List.range ((o + n - 1) / 8192 - o / 8192 + 1)).any (fun i => p.toNat / 2 ^ (o / 8192 + i) % 2 = 1)

/-- Bytes of a half's scratchpad as the path in focus loads them: its own stores first (R146, R266). -/
def loadScratch (h o n : Nat) (at_ : Word) : Act (List Byte) := do
  let m ← me
  let s ← get
  match (Tab.get? s.blocks m.car.block).bind (fun b => b.half? h) with
  | none => raise codeScratch 1 at_
  | some x =>
    if chunkPoisoned x.scratchPoison o n then raise codePoison 0 at_
    let held := match m.path.burst with
      | some b => b.stores
      | none => []
    let q := m.path.storeq ++ held
    pure (overlay (x.scratch.readList o n) (fun i => forward q (.scratch m.car.block h) (o + i)))

/-- The scratchpad offset of a lane (R146). -/
def Lane.offset (x : Lane) (l bits : Nat) : Word :=
  BitVec.ofNat 64 ((x.code x.f.a.toNat l).toNat + x.f.immField 0 bits)

/-- `vlds` (R146). -/
def execVlds (f : LaneFields) (s : State) : Host.Outcome State Fault Refusal :=
  laneOp (.vlds f) f (fun x => do
    let os := (lanesOf x.active).map (fun l => (l, x.offset l 19))
    let h ← reachHalf (f.immBit 19) os
    let size := laneSize f.opx
    checkClaim size os
    checkAligned size os
    let vals ← os.mapM (fun o => do pure (o.1, leNat (← loadScratch h o.2.toNat size o.2)))
    pure (x.outLoaded vals)) s

/-- `vsts` (R146). -/
def execVsts (f : LaneFields) (s : State) : Host.Outcome State Fault Refusal :=
  laneOp (.vsts f) f (fun x => do
    let os := (lanesOf x.active).map (fun l => (l, x.offset l 19))
    let h ← reachHalf (f.immBit 19) os
    let size := laneSize f.opx
    checkClaim size os
    checkAligned size os
    let vals ← x.stored os
    holdStores ((os.zip vals).map (fun e =>
      { place := .scratch x.m.car.block h, addr := e.1.2.toNat, bytes := e.2 }))
    pure {}) s

/-! ### Tiles -/

/-- A tile that an instruction names is not another block's (R172). -/
def ownTile (t : Nat) : Act Tile := do
  let m ← me
  let x := ((← get).core m.core).tile t
  check (x.state = tileEmpty ∨ x.block = m.car.block) codeTile 0
  pure x

/-- The READY tile that an instruction reads (R172, R173). -/
def readyTile (t : Nat) : Act Tile := do
  let x ← ownTile t
  if x.state ≠ tileReady then stall .tile
  pure x

/-- Bytes of a tile's space from an offset (R55, R147). -/
def loadTile (t : Tile) (o n : Nat) (at_ : Word) : Act (List Byte) := do
  let m ← me
  if t.buffer then
    let mat := ((← get).core m.core).mat
    if obPoisoned mat.obPoison o n then raise codePoison 0 at_
    pure (overlay (mat.ob.readList o n) (fun i => forward m.path.storeq (.buffer m.core) (o + i)))
  else loadScratch m.car.half o n at_

/-- `vldt` (R147). -/
def execVldt (f : LaneFields) (s : State) : Host.Outcome State Fault Refusal :=
  laneOp (.vldt f) f (fun x => do
    let t ← readyTile ((f.tile).getD 0)
    let size := laneSize f.opx
    let os := (lanesOf x.active).map (fun l => (l, x.offset l 19))
    let as := os.map (fun o => (o.1, BitVec.ofNat 64 t.offset + o.2))
    as.forM (fun a => check (a.2.toNat + size ≤ t.offset + t.bytes) codeScratch 3 a.2)
    checkAligned size as
    let vals ← as.mapM (fun a => do pure (a.1, leNat (← loadTile t a.2.toNat size a.2)))
    pure (x.outLoaded vals)) s

end Sys2Proof.Machine
end

