-- ==== Sys2Proof/Machine/Atomics.lean ====
section
/-!
DEFINITION. The lane words performed at the commit of their burst: atomics, reductions, acquires and releases (R149 to
R160, R267 to R269).
-/

namespace Sys2Proof.Machine

/-! ### Issue -/

/-- A word left to its burst's commit, with the address and the values that its active lanes read at issue (R120, R152). -/
def Lane.defer (x : Lane) (addr : Nat → Nat) : Act LaneOut := do
  let ops : Tab (Nat × Nat × Nat) := (lanesOf x.active).map (fun l => (l, addr l, x.bsrc l, x.c l))
  modBurst (fun b => { b with deferred := some x.i, deferOps := ops })
  pure {}

/-- The address of a lane of an atomic or a reduction: virtual, or a scratchpad offset (R154). -/
def Lane.atomAddress (x : Lane) (l : Nat) : Nat :=
  if x.f.immBit 20 then (x.offset l 19).toNat
  else (BitVec.ofNat 64 (x.pair x.f.a.toNat l) + (BitVec.ofNat 19 (x.f.immField 0 19)).signExtend 64 : Word).toNat

/-- Whether a reduction is an update of the ordered unit (R157): `.det`, or what a deterministic launch makes one. -/
def isOrdered (f : LaneFields) (det : Bool) : Bool :=
  f.immBit 28 ||
    (det && f.immField 24 4 = 0 && f.opx = 0 && (f.scope = 3 || f.scope = 4) && !f.immBit 20)

/-- What R157 asks of a reduction in its launch: ILLEGAL_OP with cause 5 otherwise. -/
def checkReduction (x : Lane) : Act Unit := do
  let f := x.f
  let det := x.m.blk.pk.det
  let fp : Bool := f.immField 24 4 < 9
  let there : Bool := (f.scope = 3 || f.scope = 4) && !f.immBit 20
  if isOrdered f det then
    check (!f.immBit 21) codeIllegal 5
    check (!(f.immBit 28 && x.m.blk.record.isSome)) codeIllegal 5
  else check (!(det && fp && there && (f.opx / 4 = 0 || !f.immBit 22))) codeIllegal 5

/-- `vatom` (R155), performed at the commit. -/
def execVatom (f : LaneFields) (s : State) : Host.Outcome State Fault Refusal :=
  laneOp (.vatom f) f (fun x => x.defer x.atomAddress) s

/-- `vred.m` (R156, R157), performed at the commit. -/
def execVredM (f : LaneFields) (s : State) : Host.Outcome State Fault Refusal :=
  laneOpWith (.vredM f) f checkReduction (fun x => x.defer x.atomAddress) s

/-- `vldacq` (R160), performed at the commit. -/
def execVldacq (f : LaneFields) (s : State) : Host.Outcome State Fault Refusal :=
  laneOp (.vldacq f) f (fun x => x.defer (fun l => (x.address l).toNat)) s

/-- `vstrel` (R160), performed at the commit. -/
def execVstrel (f : LaneFields) (s : State) : Host.Outcome State Fault Refusal :=
  laneOp (.vstrel f) f (fun x => x.defer (fun l => (x.address l).toNat)) s

/-! ### The values -/

/-- The new value of a `vatom` on values of `n` bits (R155). -/
def atomNew (n op : Nat) (uns : Bool) (old b c : Nat) : Nat :=
  let x := BitVec.ofNat n old
  let y := BitVec.ofNat n b
  let below : Bool := if uns then x.toNat ≤ y.toNat else x.toInt ≤ y.toInt
  match op with
  | 0 => (x + y).toNat
  | 1 => if below then x.toNat else y.toNat
  | 2 => if below then y.toNat else x.toNat
  | 3 => (x &&& y).toNat
  | 4 => (x ||| y).toNat
  | 5 => (x ^^^ y).toNat
  | 6 => y.toNat
  | _ => if x = BitVec.ofNat n c then y.toNat else x.toNat

/-- The new value of a floating-point or integer update (R156): a NaN on either side gives the NaN of R23, for min and
max as well. -/
def updateNew (fmt op : Nat) (ftz cnan fsat : Bool) (old b : Nat) : Nat :=
  if fmt ≥ 9 then foldInteger (formatBits fmt) op (old % 2 ^ formatBits fmt) (b % 2 ^ formatBits fmt)
  else
    let v := formatted fmt b
    let r := if op = 0 then (fpAdd fmt ftz .rne fsat old v).1
      else (firstNaN (formatOf fmt) [old, v]).getD (fpMinMax fmt ftz (op = 2) old v).1
    if cnan && decode (formatOf fmt) r = .nan then canonicalNaN (formatOf fmt) else r

/-! ### The commit -/

/-- Where a lane of a deferred word acts: an offset in a half's scratchpad, or a translated virtual address. -/
inductive Spot where
  | scratch (half : Nat)
  | memory (t : Translation)
deriving DecidableEq, Repr, Inhabited

/-- A lane of a deferred word: its number, its address or offset, its spot, and the values it read. -/
structure LaneAtom where
  lane : Nat
  addr : Word
  spot : Spot
  b : Nat
  c : Nat
deriving DecidableEq, Repr, Inhabited

/-- The lanes of a deferred word with their places, its faults of place, alignment and translation raised (R124, R154). -/
def atomLanes (b : Burst) (space : Option Bool) (size : Nat) (k : Access) : Act (List LaneAtom) := do
  let at_ (o : Nat × Nat × Nat × Nat) : Nat × Word := (o.1, BitVec.ofNat 64 o.2.1)
  match space with
  | some partner =>
    let h ← reachHalf partner (b.deferOps.map at_)
    checkClaim size (b.deferOps.map at_)
    checkAligned size (b.deferOps.map at_)
    pure (b.deferOps.map (fun o => ⟨o.1, BitVec.ofNat 64 o.2.1, .scratch h, o.2.2.1, o.2.2.2⟩))
  | none =>
    checkAligned size (b.deferOps.map at_)
    let ts ← translateLanes k (b.deferOps.map at_)
    pure ((b.deferOps.zip ts).map (fun p => ⟨p.1.1, p.2.2.1, .memory p.2.2.2, p.1.2.2.1, p.1.2.2.2⟩))

/-- The bytes that a lane's spot holds, with the caravan's own earlier stores in them (R151, R155). At a home slice the
issuing core's copies of the sector are pushed and dropped, and a pair unit's line is recalled (R151, R267); at pair
scope the pair unit takes the line. A read of poison raises POISON where `consumes` (R158). -/
def readSpot (a : LaneAtom) (size scope : Nat) (consumes : Bool) : Act Nat := do
  let m ← me
  update (fun s => s.drainStores m.key m.p)
  match a.spot with
  | .scratch h =>
    let s ← get
    match (Tab.get? s.blocks m.car.block).bind (fun b => b.half? h) with
    | none => raise codeScratch 1 a.addr
    | some x =>
      if consumes && chunkPoisoned x.scratchPoison a.addr.toNat size then raise codePoison 1 a.addr
      pure (leNat (x.scratch.readList a.addr.toNat size))
  | .memory t =>
    let s ← get
    if inStack m.car m.blk.stackBytes a.addr.toNat size || (s.stackOwner m.blk.ctx m.key a.addr.toNat).isSome
        || m.blk.hasFreed a.addr.toNat size then
      match ← attempt (loadAt t a.addr size) with
      | .ok bs => pure (leNat bs)
      | .error (.trap code cause at_) =>
        if code ≠ codePoison then raise code cause at_
        else if consumes then raise codePoison 1 a.addr
        else pure 0
      | .error e => throw e
    else if t.package.isSome then
      if consumes then pure (leNat (← remoteRead a.addr t size true)) else pure 0
    else
      let p := physical t a.addr
      logAccess p
      update (fun s => (s.releaseSectors m.core p size).recallLines p size)
      if scope = 2 then update (fun s => s.takePairLine m.core p)
      let s ← get
      if consumes && s.poisoned p size then raise codePoison 1 a.addr
      let _ ← drawFree
      pure (leNat (s.homeBytes p size))

/-- The new value of a lane's spot written. -/
def writeSpot (a : LaneAtom) (size v : Nat) : Act Unit := do
  let m ← me
  match a.spot with
  | .scratch h =>
    update (fun s => s.scratchStore m.car.block h a.addr.toNat (leBytes size v))
  | .memory t =>
    let e ← storeEntry t a.addr (leBytes size v)
    update (fun s => if e.place = .mem then (s.spoilSaves m.car.block e.addr size).outsideStore e.addr e.bytes false else s.perform m.key m.p e)

/-- The lanes of a `vatom` in ascending order, with the old values (R155). Values of another package that earlier lanes
left are kept in `seen`, since only its home could tell them (R361). -/
def runAtoms (as : List LaneAtom) (size scope op : Nat) (uns : Bool) (seen : Tab Nat) : Act (List (Nat × Nat)) :=
  match as with
  | [] => pure []
  | a :: r => do
    let held ← readSpot a size scope true
    let old := Tab.getD seen a.addr.toNat held
    let new := atomNew (8 * size) op uns old a.b a.c
    writeSpot a size new
    let remote : Bool := match a.spot with
      | .memory t => t.package.isSome
      | .scratch _ => false
    let rest ← runAtoms r size scope op uns (if remote then Tab.set seen a.addr.toNat new else seen)
    pure ((a.lane, old) :: rest)

/-- A list in an order that a number names. -/
def permuted {α : Type} : Nat → Nat → List α → List α
  | 0, _, l => l
  | fuel + 1, c, l =>
    match l[c % l.length]? with
    | some x => x :: permuted fuel (c / l.length) (l.eraseIdx (c % l.length))
    | none => []

/-- The ordered updates of an instruction (R268, R269). -/
def orderedUpdates (m : Me) (as : List (LaneAtom × Nat × Nat)) (fsat : Bool) : List OrderedUpdate :=
  as.map (fun (a, p, slice) =>
    { launch := m.blk.launch, bid := m.blk.bid, car := 32 * m.car.half + m.car.index, lane := a.lane,
      seq := m.car.orderedSeq, addr := p, value := BitVec.ofNat 32 a.b, fsat := fsat, slice := slice, held := false,
      refused := false })

/-- Updates entered into the port of the caravan's slot (R269); their locations are the launch's ordered ones (R157),
and those of another launch in progress become undefined (R272). -/
def enterPort (us : List OrderedUpdate) : Act Unit := do
  let m ← me
  let port := Tab.getD ((← get).core m.core).ports m.slot []
  if port.length + us.length > 256 then stall .busy
  modCar (fun c => { c with orderedSeq := c.orderedSeq + 1 })
  update (fun s => s.modCore m.core (fun c => { c with ports := Tab.set c.ports m.slot (port ++ us) }))
  update (fun s => us.foldl (fun t u =>
    let others : Bool := t.launches.any (fun l => l.1 ≠ u.launch && l.2.ordered.any (fun o => o.1 < u.addr + 4 && u.addr < o.1 + 4))
    let t1 : State := if others then { t with launches := spoil t.launches u.addr 4 } else t
    t1.modLaunch u.launch (fun l => { l with ordered := Tab.set l.ordered u.addr (others || Tab.getD l.ordered u.addr false) })) s)

/-- The size of the access of a deferred word, its place where the scratchpad is named, and its kind (R153, R154). -/
def deferredAccess (i : Instr) : Option (Nat × Option Bool × Access) :=
  let space (f : LaneFields) : Option Bool := if f.immBit 20 then some (f.immBit 19) else none
  match i with
  | .vatom f => some (if f.opx / 2 % 2 = 1 then 8 else 4, space f, .atomic)
  | .vredM f => some (formatBits (f.immField 24 4) / 8, space f, .atomic)
  | .vldacq f => some (laneSize f.opx, none, .read)
  | .vstrel f => some (laneSize f.opx, none, .write)
  | _ => none

/-- The faults and waits of a deferred word, before anything of its burst commits: its places, the answers of other
packages, and the room of the port (R124, R152, R269). -/
def prepareDeferred (b : Burst) (i : Instr) : Act Unit := do
  let m ← me
  match deferredAccess i with
  | none => pure ()
  | some (size, space, k) =>
    let as ← atomLanes b space size k
    let reads : Bool := match i with
      | .vatom _ | .vldacq _ => true
      | _ => false
    as.forM (fun a => match a.spot with
      | .memory t => do
        if reads && t.package.isSome then
          let _ ← remoteRead a.addr t size (k = .atomic)
      | .scratch _ => pure ())
    match i with
    | .vredM f =>
      let port := Tab.getD ((← get).core m.core).ports m.slot []
      if isOrdered f m.blk.pk.det && port.length + as.length > 256 then stall .busy
    | _ => pure ()

/-- The deferred word of a burst performed (R152), its faults and waits first. The burst's registers receive what the
word returns. -/
def performDeferred (b : Burst) (i : Instr) : Act Burst := do
  let m ← me
  match i with
  | .vatom f =>
    let size := if f.opx / 2 % 2 = 1 then 8 else 4
    let as ← atomLanes b (if f.immBit 20 then some (f.immBit 19) else none) size .atomic
    let olds ← runAtoms as size f.scope (f.opx / 4) (f.opx % 2 = 1) []
    let mask := maskOf (fun l => (Tab.get? b.deferOps l).isSome)
    let part (k l : Nat) : LaneWord := BitVec.ofNat 32 (Tab.getD olds l 0 / 2 ^ k)
    if f.nw = 1 then pure b
    else
      let b1 := b.setReg f.d.toNat mask ((List.range 32).map (part 0))
      pure (if size = 8 then b1.setReg (f.d.toNat + 1) mask ((List.range 32).map (part 32)) else b1)
  | .vredM f =>
    let fmt := f.immField 24 4
    let size := formatBits fmt / 8
    let as ← atomLanes b (if f.immBit 20 then some (f.immBit 19) else none) size .atomic
    if isOrdered f m.blk.pk.det then
      let homes := as.filterMap (fun a => match a.spot with
        | .memory t => some (a, physical t a.addr, homeSlice (physical t a.addr) t.localDie)
        | .scratch _ => none)
      enterPort (orderedUpdates m homes (f.immBit 23))
      pure b
    else
      let (order, s1) := (← get).choose
      set s1
      (permuted 32 order as).forM (fun a => do
        let old ← readSpot a size f.scope false
        writeSpot a size (updateNew fmt (f.opx / 4) (f.immBit 21) (f.immBit 22) (f.immBit 23) old a.b))
      pure b
  | .vldacq f =>
    let size := laneSize f.opx
    let as ← atomLanes b none size .read
    update (fun s => s.drainStores m.key m.p)
    let vals ← as.mapM (fun a => match a.spot with
      | .memory t => do
        let bs ← if m.wide f.scope then acquireAt t a.addr size f.scope else loadAt t a.addr size
        pure (a.lane, leNat bs)
      | .scratch _ => pure (a.lane, 0))
    let mask := maskOf (fun l => (Tab.get? b.deferOps l).isSome)
    let part (k l : Nat) : LaneWord := BitVec.ofNat 32 (Tab.getD vals l 0 / 2 ^ k)
    if f.nw = 1 then pure b
    else
      let b1 := b.setReg f.d.toNat mask ((List.range 32).map (part 0))
      pure (if size = 8 then b1.setReg (f.d.toNat + 1) mask ((List.range 32).map (part 32)) else b1)
  | .vstrel f =>
    let size := laneSize f.opx
    let as ← atomLanes b none size .write
    as.forM (fun a => match a.spot with
      | .memory t => do
        let e ← storeEntry t a.addr (leBytes size a.b)
        if e.place = .mem || t.package.isSome then storeRelease e f.scope 0
        else
          update (fun s => (s.drainStores m.key m.p).perform m.key m.p e)
      | .scratch _ => pure ())
    pure b
  | _ => pure b

end Sys2Proof.Machine
end

