-- ==== Sys2Proof/Machine/Bursts.lean ====
section
/-!
DEFINITION. The events of a path: a burst's start and commit, the delivery of a trap, a store performed (R45, R121, R152,
R243, R257, R375, R377 to R381).
-/

namespace Sys2Proof.Machine

/-- Whether the lane slot of a quadrant is free: no path of it runs a burst (R243). -/
def State.laneSlotFree (s : State) (core quad : Nat) : Bool :=
  !(s.caravans.any (fun p => p.1 / 64 = core && slotQuad (p.1 % 64) = quad && p.2.paths.any (fun x => x.2.burst.isSome)))

/-- The lane word at a virtual address as the tables stand, where it can be read without a fault. -/
def State.peekLane (s : State) (core ctx : Nat) (va : Word) : Option Nat :=
  ((List.range 12).mapM (fun i => (s.peek core ctx (va + BitVec.ofNat 64 i)).map s.homeByte)).map leNat

/-- The first position of an entry that holds a word performed at the commit where R152 does not allow it. -/
def State.misplaced (s : State) (m : Me) (e : LaneEntry) : Option Nat :=
  (List.range (e.len + 1)).find? (fun k =>
    (k < e.len || e.rep > 0) &&
      (match s.peekLane m.core m.blk.ctx (e.start + BitVec.ofNat 64 (12 * k)) with
        | some w => (match decodeLane (BitVec.ofNat 96 w) with
            | .ok i => atCommit i
            | .error _ => false)
        | none => false))

/-- A burst of an entry at its start: every latch invalid (R43). -/
def Burst.start (e : LaneEntry) : Burst :=
  { entry := e, pos := 0, rep := 0, regs := [], preds := [], latches := [], pops := [], draws := 0, flags := 0,
    stores := [], deferred := none, deferOps := [], posts := [], issued := false }

/-- An event of a path: nothing happens where the path does not exist, its caravan is halted or is at its save point. -/
def pathEvent (core slot p : Nat) (s : State) (f : Me → State → Host.Outcome State Fault Refusal) :
    Host.Outcome State Fault Refusal :=
  let t : State := { s with focus := .path core slot p }
  match t.me? with
  | none => .next s
  | some m => if m.car.halted || m.car.savePoint.isSome then .next s else f m t

/-- An item put before the first one of a list that it does not follow. -/
def insertBy {α : Type} (le : α → α → Bool) (x : α) : List α → List α
  | [] => [x]
  | y :: r => if le x y then x :: y :: r else y :: insertBy le x r

/-- The paths of a quadrant, oldest first (R243): by the start of the caravan, then by slot, then path 0 before path 1. -/
def State.quadPaths (s : State) (core quad : Nat) : List (Nat × Nat) :=
  let mine := s.caravans.filter (fun c => c.1 / 64 = core && slotQuad (c.1 % 64) = quad)
  let aged := mine.foldr (fun c r => insertBy (fun (a b : Nat × Caravan) => a.2.born ≤ b.2.born) c r) []
  aged.flatMap (fun c => c.2.paths.map (fun p => (c.1 % 64, p.1)))

/-- A path of a core. -/
def State.pathAt (s : State) (core slot p : Nat) : Option Path := (s.caravan? (carKey core slot)).bind (fun c => Tab.get? c.paths p)

/-- The pick among candidates in order of age (R243, R244): the oldest whose pass count has reached 64, else the oldest. -/
def pickOldest (passes : Nat × Nat → Nat) (xs : List (Nat × Nat)) : Option (Nat × Nat) :=
  (xs.find? (fun x => 64 ≤ passes x)).or xs.head?

/-- The candidates for the lane slot of a quadrant (R243): paths with a head entry and no trap that awaits delivery. -/
def State.laneCandidates (s : State) (core quad : Nat) : List (Nat × Nat) :=
  (s.quadPaths core quad).filter (fun x =>
    match s.caravan? (carKey core x.1) with
    | none => false
    | some c => !c.halted && c.savePoint.isNone && (match Tab.get? c.paths x.2 with
        | some y => !y.laneq.isEmpty && y.burst.isNone && y.pending.isNone
        | none => false))

/-- The path that the lane slot of a quadrant is granted to, while it is free (R243, R244). -/
def State.lanePick (s : State) (core quad : Nat) : Option (Nat × Nat) :=
  if s.laneSlotFree core quad then
    pickOldest (fun x => ((s.pathAt core x.1 x.2).map Path.lanePasses).getD 0) (s.laneCandidates core quad)
  else none

/-- The pass counts of a quadrant's paths after a burst of one of them has started (R244): bursts alone count. -/
def State.passLane (s : State) (core quad : Nat) (winner : Nat × Nat) : State :=
  let cands := s.laneCandidates core quad
  (s.quadPaths core quad).foldl (fun t x => t.modPath (carKey core x.1) x.2 (fun y =>
    { y with lanePasses := if x ≠ winner && cands.contains x then y.lanePasses + 1 else 0 })) s

/-- BURST_START (R45, R74, R243, R244): the head entry of a path's lane-issue queue becomes a burst when the lane slot of its
quadrant is free and its pick is this path. A word that R152 does not allow where it stands raises ILLEGAL_OP then. -/
def execBurstStart (core slot p : Nat) (s : State) : Host.Outcome State Fault Refusal :=
  pathEvent core slot p s (fun m t =>
    match m.path.laneq, m.path.burst with
    | e :: _, none =>
      if t.lanePick core (slotQuad slot) ≠ some (slot, p) then .next s
      else
        let b := Burst.start e
        match t.misplaced m e with
        | some k => .next (t.raiseLane m { b with pos := k } codeIllegal 5 0)
        | none => .next ((t.passLane core (slotQuad slot) (slot, p)).modPath m.key p (fun x =>
            { x with burst := some b, laneStall := none }))
    | _, _ => .next s)

/-- The held registers, predicates, pops, draws and flags of a burst written to its caravan (R25, R33, R121). -/
def Caravan.commit (c : Caravan) (b : Burst) : Caravan :=
  let lanes := b.regs.foldl (fun (r : Store 32) x => r.write x.1 x.2) c.lanes
  let preds := b.preds.foldl (fun t x => Tab.set t x.1 ((c.pred x.1 &&& ~~~ x.2.1) ||| (x.2.2 &&& x.2.1))) c.preds
  let queues := b.pops.foldl (fun t x => Tab.set t x.1 ((Tab.getD t x.1 []).drop x.2)) c.queues
  { c with lanes := lanes, preds := preds, queues := queues, drawctr := c.drawctr + BitVec.ofNat 64 b.draws,
           fpm := fpmAccrue c.fpm b.flags }

/-- The commit of a burst (R121, R152): the faults and waits of the word performed at the commit, the held stores in
order, that word, then registers, predicates, flags, draws, pops and posts. -/
def commitBurst (b : Burst) : Act Unit := do
  let m ← me
  match b.deferred with
  | some i => prepareDeferred b i
  | none => pure ()
  modBurst (fun x => { x with stores := [] })
  b.stores.forM (commitStore 0)
  let done ← match b.deferred with
    | some i => performDeferred b i
    | none => pure b
  modCar (fun c => c.commit done)
  let posts : List Post := b.posts.map (fun q =>
    { quad := slotQuad m.slot, block := m.car.block, caravan := m.car.uid, group := q.2.1, seq := q.2.2.1, data := q.2.2.2 })
  update (fun s => s.modMatrix m.core (fun x => { x with posts := x.posts ++ posts }))
  modCar (fun c => { c with wkcnt := c.wkcnt + BitVec.ofNat 64 ((b.entry.len + 1) * (b.entry.rep + 1)) })
  update (fun s => s.modCore m.core (fun c => done.hits.foldl Core.hitBound c))
  modMyPath (fun x => { x with laneq := x.laneq.drop 1, burst := none, laneStall := none })
  update (fun s => (s.dropReads m.key m.p).afterBursts m.key m.p 1)

/-- BURST_COMMIT (R121): a burst whose words have all issued commits. -/
def execBurstCommit (core slot p : Nat) (s : State) : Host.Outcome State Fault Refusal :=
  pathEvent core slot p s (fun m t =>
    match m.path.burst with
    | none => .next s
    | some b =>
      if !b.issued then .next s
      else if s.goalReached m.key ((b.entry.len + 1) * (b.entry.rep + 1)) then .next (s.stopAtGoal m.key)
      else laneResult t m b ((commitBurst b).run t))

/-- TRAP_DELIVERY (R377, R380, R381): a pending trap is taken once its path has drained. -/
def execTrapDelivery (core slot p : Nat) (s : State) : Host.Outcome State Fault Refusal :=
  pathEvent core slot p s (fun m t =>
    match m.path.pending with
    | none => .next s
    | some r => if m.path.drained then .next (t.takeTrap m.key p r) else .next s)

/-- The oldest store of a path's store queue performed (R257), unless it is a release that waits for bursts (R160). -/
def State.performOldest (s : State) (key p : Nat) : State :=
  match (s.caravan? key).bind (fun c => Tab.get? c.paths p) with
  | none => s
  | some x =>
    match x.storeq with
    | [] => s
    | e :: r => if e.after = 0 then (s.modPath key p (fun y => { y with storeq := r })).perform key p e else s

/-- A scalar word that stands for no instruction (R67): ILLEGAL_OP with the cause its decoding gives, before any effect.
It has no operands of its own, so it goes by the rule of `nop`. -/
def execReservedScalarWord (word : BitVec 32) (s : State) : Host.Outcome State Fault Refusal :=
  scalarOp .nop (match decodeScalar word with
    | .error e => raise codeIllegal e.code
    | .ok _ => raise codeIllegal 0) (pure .seq) s

/-- A lane word that stands for no instruction (R73): ILLEGAL_OP with the cause its decoding gives. -/
def execReservedLaneOpcode (word : BitVec 96) (s : State) : Host.Outcome State Fault Refusal :=
  match s.me? with
  | none => .fault .noAgent
  | some m =>
    match m.path.burst with
    | none => .fault .noAgent
    | some b =>
      if b.issued then .next s
      else
        let cause := match decodeLane word with
          | .error e => e.code
          | .ok _ => 0
        .next (s.raiseLane m b codeIllegal cause 0)

end Sys2Proof.Machine
end

