-- ==== Sys2Proof/Machine/ScalarMem.lean ====
section
/-!
DEFINITION. The scalar memory instructions, the queue loads and the frames (R95, R96, R114).
-/

namespace Sys2Proof.Machine

/-- Bytes of an access of a scalar width code (R95). -/
def scalarSize (w : Nat) : Nat := [1, 2, 4, 8, 1, 2, 4].getD w 1

/-- A loaded number extended to 64 bits under a width code (R95). -/
def scalarExtend (w : Nat) (n : Nat) : Word :=
  match w with
  | 4 => (BitVec.ofNat 8 n).signExtend 64
  | 5 => (BitVec.ofNat 16 n).signExtend 64
  | 6 => (BitVec.ofNat 32 n).signExtend 64
  | _ => BitVec.ofNat 64 n

/-- Whether an address is a multiple of a size. -/
def aligned (va : Word) (n : Nat) : Bool := va.toNat % n = 0

/-- A store through `s61` goes to no address below `stklim` (R51). -/
def checkStack (sa : BitVec 6) (va : Word) : Act Unit := do
  let m ← me
  check (!(sa = 61 && va.toNat < m.car.stklim.toNat)) codeStackLimit 0 va

/-- `ld` (R95). -/
def execLd (sd sa : BitVec 6) (w : BitVec 3) (off : BitVec 11) (s : State) : Host.Outcome State Fault Refusal :=
  scalarOp (.ld sd sa w off) (pure ()) (writes sd (do
    let size := scalarSize w.toNat
    let va := (← reg sa) + off.signExtend 64 * BitVec.ofNat 64 size
    check (aligned va size) codeMisaligned 0 va
    let n ← loadNat va size
    pure (scalarExtend w.toNat n))) s

/-- `st` (R95): in a capsule body, CAPSULE_SCOPE comes before the faults of the store itself (R182). -/
def execSt (sd sa : BitVec 6) (w : BitVec 3) (off : BitVec 11) (s : State) : Host.Outcome State Fault Refusal :=
  scalarOp (.st sd sa w off) (pure ()) (do
    let size := scalarSize w.toNat
    let va := (← reg sa) + off.signExtend 64 * BitVec.ofNat 64 size
    let v ← reg sd
    guardStore va size
    check (aligned va size) codeMisaligned 0 va
    checkStack sa va
    scalarStore va (leBytes size v.toNat)
    pure .seq) s

/-- Bytes of an element of a queue load (R96). -/
def elementSize (w : Nat) : Nat := [4, 2, 2, 1, 1].getD w 4

/-- The lane value of an element of a queue load (R96). -/
def elementValue (w : Nat) (n : Nat) : LaneWord :=
  match w with
  | 2 => (BitVec.ofNat 16 n).signExtend 32
  | 4 => (BitVec.ofNat 8 n).signExtend 32
  | _ => BitVec.ofNat 32 n

/-- A queue load (R96): for each active lane in ascending order its element is read; the entry is pushed, or the path
waits while the queue is full. -/
def queueLoad (k w : Nat) (addr : Nat → Word) : Act Flow := do
  memGate false
  let m ← me
  let active := m.path.em &&& ~~~ m.car.xm
  let size := elementSize w
  let entry ← (List.range 32).mapM (fun l => do
    if hasLane active l then
      let va := addr l
      check (aligned va size) codeMisaligned 0 va
      let bs ← scalarLoad va size
      pure (elementValue w (leNat bs))
    else pure 0)
  let q := Tab.getD m.car.queues k []
  if q.length ≥ 8 then stall .busy
  modCar (fun c => { c with queues := Tab.set c.queues k (Tab.getD c.queues k [] ++ [entry]) })
  pure .seq

/-- `ald` (R96): lane l reads at base + l × stride. -/
def execAld (k : BitVec 3) (sa sb : BitVec 6) (w : BitVec 4) (s : State) : Host.Outcome State Fault Refusal :=
  scalarOp (.ald k sa sb w) (pure ()) (do
    let base ← reg sa
    let stride ← reg sb
    queueLoad k.toNat w.toNat (fun l => base + BitVec.ofNat 64 l * stride)) s

/-- `aldx` (R96): runs of 2^j consecutive elements, one run each stride. -/
def execAldx (j k : BitVec 3) (sa sb : BitVec 6) (w : BitVec 4) (s : State) : Host.Outcome State Fault Refusal :=
  scalarOp (.aldx j k sa sb w) (pure ()) (do
    let base ← reg sa
    let stride ← reg sb
    queueLoad k.toNat w.toNat (fun l =>
      base + BitVec.ofNat 64 (l % 2 ^ j.toNat * elementSize w.toNat) + BitVec.ofNat 64 (l / 2 ^ j.toNat) * stride)) s

/-- The frame size of `enter` and `leave` in bytes (R114). -/
def frameBytes (k : BitVec 14) : Nat := 16 * k.toNat

/-- `enter` (R114): `s63` saved at the top of a new frame, `s61` lowered. -/
def execEnter (k : BitVec 14) (s : State) : Host.Outcome State Fault Refusal :=
  scalarOp (.enter k) (pure ()) (do
    let m ← me
    let sp := m.reg 61
    let low := sp - BitVec.ofNat 64 (frameBytes k)
    check (m.car.stklim.toNat + frameBytes k ≤ sp.toNat) codeStackLimit 0 low
    memGate true
    let bs := leBytes 8 (m.reg 63).toNat
    if inStack m.car m.blk.stackBytes (sp - 8).toNat 8 && (sp - 8).toNat % 65536 ≤ 65528 then
      storeAt (← translate (sp - 8) .write) (sp - 8) bs
    else
      let vas := (List.range 8).map (fun i => sp - 8 + BitVec.ofNat 64 i)
      let ts ← inRank (vas.map (fun va => translate va .write))
      ((ts.zip vas).zip bs).forM (fun x => storeAt x.1.1 x.1.2 [x.2])
    setRegNat 61 low
    pure .seq) s

/-- `leave` (R114): `s63` restored from the frame, `s61` raised. -/
def execLeave (k : BitVec 14) (s : State) : Host.Outcome State Fault Refusal :=
  scalarOp (.leave k) (pure ()) (do
    let m ← me
    let sp := m.reg 61
    let high := sp + BitVec.ofNat 64 (frameBytes k)
    check (sp.toNat + frameBytes k ≤ m.car.stkbase.toNat) codeStackLimit 2 high
    memGate false
    let bs ← inRank ((List.range 8).map (fun i => scalarLoad (high - 8 + BitVec.ofNat 64 i) 1))
    setRegNat 63 (wordOf bs.flatten)
    setRegNat 61 high
    pure .seq) s

end Sys2Proof.Machine
end

