-- ==== Sys2Proof/Machine/Order.lean ====
section
/-!
DEFINITION. Acquire loads, release stores and fences of the scalar stream (R159 to R163, R260 to R265).
-/

namespace Sys2Proof.Machine

/-- The address of an acquire load or a release store (R159). -/
def orderAddress (base : Word) (off : BitVec 10) (size : Nat) : Word := base + off.signExtend 64 * BitVec.ofNat 64 size

/-- `ldacq` (R159): a load that is an acquire at its scope. -/
def execLdacq (sd sa : BitVec 6) (sc : BitVec 3) (w : BitVec 1) (off : BitVec 10) (s : State) :
    Host.Outcome State Fault Refusal :=
  scalarOp (.ldacq sd sa sc w off) (pure ()) (writes sd (do
    let size := if w = 1 then 8 else 4
    let va := orderAddress (← reg sa) off size
    check (aligned va size) codeMisaligned 0 va
    memGate false
    pure (wordOf (← acquireLoad va size sc.toNat)))) s

/-- `strel` (R159): a store that is a release at its scope; it covers the bursts before it, and is performed behind them. -/
def execStrel (sd sa : BitVec 6) (sc : BitVec 3) (w : BitVec 1) (off : BitVec 10) (s : State) :
    Host.Outcome State Fault Refusal :=
  scalarOp (.strel sd sa sc w off) (pure ()) (do
    let size := if w = 1 then 8 else 4
    let va := orderAddress (← reg sa) off size
    let v ← reg sd
    check (aligned va size) codeMisaligned 0 va
    checkStack sa va
    memGate true
    let t ← translate va .write
    let m ← me
    let e ← storeEntry t va (leBytes size v.toNat)
    match e.place with
    | .mem | .remote _ => storeRelease e sc.toNat m.path.laneq.length
    | _ => update (fun s => (s.drainStores m.key m.p).perform m.key m.p e)
    pure .seq) s

/-- A fence of the path in focus: it takes effect at once, or after the bursts enqueued before it (R161, R162). -/
def fenceNow (kind scope : Nat) : Act Unit := do
  let m ← me
  let n := m.path.laneq.length
  if n = 0 then
    if kind = fenceFull || kind = fenceFlush then holdPushes m.core (((← get).drainStores m.key m.p).core m.core).dirtySectors
    update (fun s => s.fenceEffect m.key m.p kind scope)
  else modMyPath (fun x => { x with fences := x.fences ++ [(n, kind, scope)] })

/-- `fence` (R161, R163): at caravan scope it drains and performs the path's stores; beyond it retires at once. -/
def execFence (k : BitVec 2) (sc : BitVec 3) (s : State) : Host.Outcome State Fault Refusal :=
  scalarOp (.fence k sc) (pure ()) (do
    if sc = 0 then
      drain
      let m ← me
      update (fun s => s.drainStores m.key m.p)
    else fenceNow k.toNat sc.toNat
    pure .seq) s

/-- `relflush` (R162). -/
def execRelflush (s : State) : Host.Outcome State Fault Refusal :=
  scalarOp .relflush (pure ()) (do
    fenceNow fenceFlush 4
    pure .seq) s

end Sys2Proof.Machine
end

