-- ==== Sys2Proof/Machine/Copies.lean ====
section
/-!
DEFINITION. The copy engine: copies, copy batches, tiles and their completions (R164 to R175).
-/

namespace Sys2Proof.Machine

/-! ### Completion barriers and engine accesses -/

/-- A command waits while 65,535 are pending on its barrier (R56). -/
def barrierRoom (bar : Nat) : Act Unit := do
  if ((← me).blk.barrier bar).pending ≥ 65535 then stall .completion

/-- A command counted on a barrier of the block (R56). -/
def countOn (bar : Nat) : Act Unit := do
  let m ← me
  update (fun s => s.modBarrier m.car.block bar Barrier.count)

/-- Whether the issuer of a command still exists in its slot. -/
def State.alive (s : State) (key uid : Nat) : Bool :=
  match s.caravan? key with
  | some c => c.uid = uid
  | none => false

/-- A caravan that an engine operation is issued by, anywhere: its key where it is alive. -/
def State.issuerKey (s : State) (uid : Nat) : Option Nat := (s.caravans.find? (fun p => p.2.uid = uid)).map Prod.fst

/-- The fault of a failed command (R173, R214, R383): pending for its issuer on the barrier that counted it, or an
asynchronous fault of the context when the issuer has ended. -/
def State.commandFault (s : State) (ctx block key uid : Nat) (f : EngineFault) : State :=
  if s.alive key uid then s.modCaravan key (fun c => { c with engineFaults := c.engineFaults ++ [f] })
  else s.asyncFault ctx block (cidOf (key / 64) (key % 64) + Tab.getD (s.core (key / 64)).starts (key % 64) 0 % 2 ^ 18 * 2 ^ 14)
    f.code f.cause f.addr f.pc

/-- The place and number of a byte that an engine reads or writes. -/
abbrev Loc := Place × Nat

/-- What an engine finds of a byte: its place, a fault, or a wait for the driver. -/
inductive Found (α : Type) where
  | ok (v : α) (s : State)
  | fail (code cause : Nat) (addr : Word) (s : State)
  | wait (s : State)

/-- The place of a byte of virtual memory for an engine of a core (R51, R167, R361, R374). -/
def State.locate (s : State) (ctx : Nat) (va : Word) (k : Access) : Found Loc :=
  match s.walkServe ctx va k with
  | .fault code cause t => .fail code cause va t
  | .wait t => .wait t
  | .leaf t s1 =>
    match s1.stackOwner ctx (2 ^ 32) va.toNat with
    | some place => .ok (place, va.toNat) s1
    | none =>
      match t.package with
      | some p => .ok (.remote p, physical t va) s1
      | none => .ok (.mem, physical t va) s1

/-- The value of a located byte for an engine of a core; poison ends the operation (R167, R407). A byte of a stack area or
of another package is an undefined value (R51, R361). -/
def State.engineByte (s : State) (core : Nat) (l : Loc) (at_ : Word) : Found Byte :=
  let undefined (t : State) : Found Byte :=
    .ok (BitVec.ofNat 8 (Config.freeNat t.free 0)) { t with free := t.free + 1 }
  match l.1 with
  | .mem =>
    if s.l1Poisoned core l.2 1 then .fail codePoison 2 at_ s
    else
      let t : State := if s.unsettled l.2 then { s with free := s.free + 1 } else s
      .ok (t.l1Byte core l.2) t
  | .remote _ | .stack _ | .savedStack _ _ => undefined s
  | .scratch b h =>
    match (Tab.get? s.blocks b).bind (fun x => x.half? h) with
    | none => undefined s
    | some x => if chunkPoisoned x.scratchPoison l.2 1 then .fail codePoison 2 at_ s else .ok (x.scratch.read l.2) s
  | .buffer c =>
    let m := (s.core c).mat
    if obPoisoned m.obPoison l.2 1 then .fail codePoison 2 at_ s else .ok (m.ob.read l.2) s

/-- A byte written by an engine at its place; the bytes of a stack area become undefined (R51). A fill writes its tile's range as
no store (R174). A byte of another package leaves with the operation's request. -/
def State.engineWrite (s : State) (key : Nat) (fill : Bool) (l : Loc) (v : Byte) : State :=
  match l.1 with
  | .stack _ | .savedStack _ _ =>
    let t := s.perform key 0 { place := l.1, addr := l.2, bytes := [BitVec.ofNat 8 (Config.freeNat s.free 0)] }
    { t with free := t.free + 1 }
  | .remote _ => s
  | .scratch b h => if fill then s.scratchWrite b h l.2 [v] else s.scratchStore b h l.2 [v]
  | .buffer c => if fill then s.bufferWrite c l.2 [v] else s.perform key 0 { place := l.1, addr := l.2, bytes := [v] }
  | .mem => s.perform key 0 { place := l.1, addr := l.2, bytes := [v] }

/-- Whether a block has freed the records, or the record list, that an address lies in (R321). -/
def State.freedIn (s : State) (block : Nat) (va : Word) : Bool :=
  match Tab.get? s.blocks block with
  | some b => b.hasFreed va.toNat 1
  | none => false

/-- Bytes that an engine reads for a block: those of records it has freed are undefined (R321). -/
def State.blurFreed (s : State) (block : Nat) (vas : List Word) (bs : List Byte) : List Byte × State :=
  if vas.any (s.freedIn block) then
    (((vas.zip bs).zipIdx).map (fun x =>
      if s.freedIn block x.1.1 then BitVec.ofNat 8 (Config.freeNat s.free x.2) else x.1.2), { s with free := s.free + 1 })
  else (bs, s)

/-- The place of a byte is in another package. -/
def Loc.isRemote (l : Loc) : Bool :=
  match l.1 with
  | .remote _ => true
  | _ => false

/-- A request to another package of an agent that is no path, by its number (R361, R362): it leaves, is answered in a turn that the
machine chooses, or has failed, which its agent takes as poisoned data. -/
def State.remoteTurn (s : State) (who package a : Nat) (write : Bool) (at_ : Word) : Found Unit :=
  match s.netin.outstanding.find? (fun o => o.2.path = who) with
  | none =>
    let (id, t) := s.fresh
    .wait (t.modNetin (fun x => { x with outstanding := Tab.set x.outstanding id (t.request who package a write) }))
  | some (id, o) =>
    let closed (t : State) : State := t.modNetin (fun x => { x with outstanding := Tab.erase x.outstanding id })
    if o.failed then .fail codePoison 3 at_ (closed s)
    else
      let (v, t) := s.choose
      if v % 2 = 0 then .wait t else .ok () (closed t)

/-- Bytes that an engine of a core reads from virtual memory, in ascending order. -/
def State.engineRead (s : State) (core ctx : Nat) (va : Word) : Nat → Found (List Byte)
  | 0 => .ok [] s
  | n + 1 =>
    match s.locate ctx va .read with
    | .fail c k a t => .fail c k a t
    | .wait t => .wait t
    | .ok l t =>
      match t.engineByte core l va with
      | .fail c k a t => .fail c k a t
      | .wait t => .wait t
      | .ok b t =>
        match State.engineRead t core ctx (va + 1) n with
        | .ok bs t => .ok (b :: bs) t
        | r => r

/-- Whether virtual memory can be reached for a kind of access, its demand pages served; the places of the bytes. -/
def State.locateAll (s : State) (ctx : Nat) (k : Access) : List Word → Found (List Loc)
  | [] => .ok [] s
  | va :: r =>
    match s.locate ctx va k with
    | .fail c d a t => .fail c d a t
    | .wait t => .wait t
    | .ok l t =>
      match State.locateAll t ctx k r with
      | .ok ls t => .ok (l :: ls) t
      | x => x

/-- Bytes that an engine writes to located places. -/
def State.engineWrites (s : State) (key : Nat) (fill : Bool) (xs : List (Loc × Byte)) : State :=
  xs.foldl (fun t x => t.engineWrite key fill x.1 x.2) s

/-- Consecutive virtual addresses. -/
def addresses (va : Word) (n : Nat) : List Word := (List.range n).map (fun i => va + BitVec.ofNat 64 i)

/-- The request of an agent for bytes of which some lie in another package (R361, R362). -/
def State.remoteAsk (s : State) (who : Nat) (ls : List Loc) (write : Bool) (at_ : Word) : Found Unit :=
  match ls.find? Loc.isRemote with
  | some (.remote p, a) => s.remoteTurn who p a write at_
  | _ => .ok () s

/-! ### Copies -/

/-- The rows of a copy: source and destination of their first bytes (R166). -/
def CopyOp.rows (o : CopyOp) : List (Int × Int) :=
  (List.range o.n2).flatMap (fun (i2 : Nat) => (List.range o.n1).map (fun (i1 : Nat) =>
    ((o.src : Int) + i2 * o.srcS2 + i1 * o.srcS1, (o.dst : Int) + i2 * o.dstS2 + i1 * o.dstS1)))

/-- The source and destination of every byte of a copy (R166). -/
def CopyOp.bytes (o : CopyOp) : List (Int × Int) :=
  o.rows.flatMap (fun r => (List.range o.len0).map (fun (j : Nat) => (r.1 + j, r.2 + j)))

/-- The place of a byte of a copy's source or destination. -/
def CopyOp.locate (o : CopyOp) (s : State) (p : Place) (k : Access) (x : Int) : Found Loc :=
  match p with
  | .mem => s.locate o.ctx (BitVec.ofInt 64 x) k
  | _ => .ok (p, x.toNat) s

/-- What a copy has gathered: for each byte its destination, its source and its value. A byte that it has moved already is not
read again. -/
def CopyOp.gather (o : CopyOp) (core : Nat) (s : State) : List ((Int × Int) × Nat) → Found (List (Loc × Loc × Byte))
  | [] => .ok [] s
  | (x, i) :: r =>
    match o.locate s o.srcPlace .read x.1 with
    | .fail c k a t => .fail c k a t
    | .wait t => .wait t
    | .ok src t =>
      let at_ := BitVec.ofInt 64 x.1
      let lost : Bool := o.srcPlace = .mem && t.freedIn o.block at_
      match if o.moved.contains i then .ok 0 t
        else if lost then .ok (BitVec.ofNat 8 (Config.freeNat t.free 0)) { t with free := t.free + 1 }
        else t.engineByte core src at_ with
      | .fail c k a t => .fail c k a t
      | .wait t => .wait t
      | .ok v t =>
        match o.locate t o.dstPlace .write x.2 with
        | .fail c k a t => .fail c k a t
        | .wait t => .wait t
        | .ok dst t =>
          match CopyOp.gather o core t r with
          | .ok xs t => .ok ((dst, src, v) :: xs) t
          | y => y

/-- The bytes a copy writes: one that the copy writes twice or also reads is undefined (R166). -/
def overlapped (xs : List (Loc × Loc × Byte)) (f : Nat) : List (Loc × Byte) :=
  xs.mapIdx (fun i x =>
    if (xs.filter (fun y => y.1 = x.1)).length > 1 ∨ xs.any (fun y => y.2.1 = x.1) then
      (x.1, BitVec.ofNat 8 (Config.freeNat f i))
    else (x.1, x.2.2))

/-- The destination bytes of a failed copy that can be reached: any of them may have been written, and is then
undefined (R167). -/
def CopyOp.spoiled (o : CopyOp) (key : Nat) (s : State) : State :=
  let f := s.free
  (o.bytes.zipIdx).foldl (fun t (x, i) =>
    if Config.freeNat f (2 * i) % 2 = 0 && !o.moved.contains i then t
    else
      match o.locate t o.dstPlace .write x.2 with
      | .ok dst t1 => t1.engineWrite key true dst (BitVec.ofNat 8 (Config.freeNat f (2 * i + 1)))
      | _ => t) { s with free := f + 1 }

/-- Whether an operation is a fill, and of which tile. -/
def CopyKind.fillTile : CopyKind → Option Nat
  | .fill t => some t
  | _ => none

/-- The bytes of an operation that a test picks are written, of those it has not moved yet: the range of a tile that a store reached
while it was FILLING stays undefined (R174). -/
def CopyOp.write (o : CopyOp) (core key : Nat) (s : State) (xs : List (Loc × Loc × Byte)) (pick : Nat → Bool) : State :=
  let fill := o.kind.fillTile
  let lost : Bool := match fill with
    | some t => ((s.core core).tile t).lost
    | none => false
  let vals := (overlapped xs s.free).zipIdx.filter (fun x => !o.moved.contains x.2 && pick x.2)
  let out := vals.map (fun x => if lost then (x.1.1, BitVec.ofNat 8 (Config.freeNat s.free (2 ^ 33 + x.2))) else x.1)
  { s with free := s.free + 1 }.engineWrites key fill.isSome out

/-- A copy-engine operation carried out (R166, R167): it wrote its bytes, ended in error, or waits for the driver, or for another
package that its bytes come from or go to (R361, R362). -/
def CopyOp.run (o : CopyOp) (core key : Nat) (s : State) : Found Unit :=
  match o.gather core s o.bytes.zipIdx with
  | .wait t => .wait t
  | .fail c k a t => .fail c k a (o.spoiled key t)
  | .ok xs t =>
    match xs.find? (fun x => x.1.isRemote || x.2.1.isRemote) with
    | none => .ok () (o.write core key t xs (fun _ => true))
    | some (d, l, _) =>
      let r := if d.isRemote then d else l
      let package := match r.1 with
        | .remote p => p
        | _ => 0
      match t.remoteTurn (2 ^ 20 + o.order) package r.2 d.isRemote
          (BitVec.ofInt 64 (if d.isRemote then (o.dst : Int) else o.src)) with
      | .wait t => .wait t
      | .fail c k a t => .fail c k a (o.spoiled key t)
      | .ok _ t => .ok () (o.write core key t xs (fun _ => true))

/-- Some of the bytes of an operation move before it completes (R166, R273): which, the machine chooses. -/
def State.copyProgress (s : State) (core id : Nat) : State :=
  match (s.core core).copies.find? (fun o => o.order = id && !o.done) with
  | none => s
  | some o =>
    match o.gather core s o.bytes.zipIdx with
    | .ok xs t =>
      if xs.any (fun x => x.1.isRemote || x.2.1.isRemote) then s
      else
        let pick (i : Nat) : Bool := Config.freeNat s.free (2 ^ 34 + i) % 2 = 1
        let moved := o.moved ++ (List.range xs.length).filter (fun i => pick i && !o.moved.contains i)
        (o.write core o.issuer t xs pick).modCore core (fun c =>
          { c with copies := c.copies.map (fun x => if x.order = id then { x with moved := moved } else x) })
    | _ => s

/-! ### Issue -/

/-- A field of 32 bits of a copy record (R165). -/
def recordField (w i : Nat) : Nat := fld w (32 * i) 32

/-- A signed field of a copy record. -/
def recordStride (w i : Nat) : Int := (BitVec.ofNat 32 (recordField w i)).toInt

/-- The copy record at an address, read as `ld` reads (R165). -/
def readRecord (va : Word) : Act Nat := do
  check (aligned va 32) codeMisaligned 2 va
  loadNat va 32

/-- ILLEGAL_OP of a copy record, before every other fault of the instruction (R67, R165): a record that cannot be read says nothing
of its form, and its own fault comes later. -/
def checkRecordForm (sb : BitVec 6) (ok : Nat → Bool) : Act Unit := do
  match ← attempt (readRecord (← reg sb)) with
  | .ok w => check (ok w) codeIllegal 3
  | .error (.trap _ _ _) => pure ()
  | .error e => throw e

/-- The counts of a copy lie in their limits (R165). -/
def countsOk (len0 n1 n2 : Nat) : Bool :=
  1 ≤ len0 && len0 ≤ 16777216 && 1 ≤ n1 && n1 ≤ 65536 && 1 ≤ n2 && n2 ≤ 65536 && len0 * n1 * n2 ≤ 2 ^ 32

/-- A scratchpad address of a copy and its whole extent (R164, R166): the place, and the offset. -/
def copyScratch (v : Word) (len0 n1 n2 : Nat) (s1 s2 : Int) : Act (Place × Nat) := do
  let m ← me
  check (v.toNat < 2 ^ 20) codeScratch 0 v
  let partner : Bool := v.toNat / 2 ^ 19 = 1
  check (!partner || m.blk.halves.length > 1) codeScratch 1 v
  let o : Int := (v.toNat % 2 ^ 19 : Nat)
  let e1 := ((n1 : Int) - 1) * s1
  let e2 := ((n2 : Int) - 1) * s2
  check (0 ≤ o + min 0 e1 + min 0 e2 && o + max 0 e1 + max 0 e2 + len0 ≤ m.blk.scratchBytes) codeScratch 0 v
  pure (.scratch m.car.block (if partner then 1 - m.car.half else m.car.half), v.toNat % 2 ^ 19)

/-- An operation enters the copy engine (R167): it waits while the engine holds 64, and on its barrier's count. The
path's earlier stores are performed, so the copy's reads see them (R166). -/
def issueCopy (o : CopyOp) : Act CopyOp := do
  let m ← me
  match o.bar with
  | some b => barrierRoom b
  | none => pure ()
  memGate true
  if ((← get).core m.core).copiesFull then stall .busy
  match o.bar with
  | some b => countOn b
  | none => pure ()
  let id ← freshUid
  let x : CopyOp := { o with order := id, issuer := m.key, caravan := m.car.uid, block := m.car.block, ctx := m.blk.ctx,
                             pc := (m.trap 0 0 0).pc }
  update (fun s => s.drainStores m.key m.p)
  update (fun s => s.modCore m.core (fun c => { c with copies := c.copies ++ [x] }))
  pure x

/-- An operation with nothing but its counts and strides. -/
def CopyOp.blank : CopyOp :=
  { kind := .copy, order := 0, issuer := 0, caravan := 0, block := 0, ctx := 0, bar := none, srcPlace := .mem,
    dstPlace := .mem, src := 0, dst := 0, len0 := 0, n1 := 1, n2 := 1, srcS1 := 0, srcS2 := 0, dstS1 := 0, dstS2 := 0,
    failed := none, done := false }

/-- The counts of the dimensions that an `xcopy` of a number of dimensions uses (R164, R165). -/
def copyCounts (w dims : Nat) : Nat × Nat × Nat :=
  (recordField w 0, if dims ≥ 2 then recordField w 1 else 1, if dims ≥ 3 then recordField w 2 else 1)

/-- `xcopy` (R164 to R167). -/
def execXcopy (sd sa sb : BitVec 6) (r m : BitVec 2) (s : State) : Host.Outcome State Fault Refusal :=
  let ok (w : Nat) : Bool :=
    let (len0, n1, n2) := copyCounts w m.toNat
    countsOk len0 n1 n2 && recordField w 3 = 0
  scalarOp (.xcopy sd sa sb r m) (checkRecordForm sb ok) (do
    let w ← readRecord (← reg sb)
    let (len0, n1, n2) := copyCounts w m.toNat
    check (ok w) codeIllegal 3
    let s1 (i : Nat) : Int := if m.toNat ≥ 2 then recordStride w i else 0
    let s2 (i : Nat) : Int := if m.toNat ≥ 3 then recordStride w i else 0
    let from_ ← reg sa
    let to_ ← reg sd
    let (sp, so) ← if r.toNat / 2 = 1 then copyScratch from_ len0 n1 n2 (s1 4) (s2 5) else pure (.mem, from_.toNat)
    let (dp, d) ← if r.toNat % 2 = 1 then copyScratch to_ len0 n1 n2 (s1 6) (s2 7) else pure (.mem, to_.toNat)
    let o ← issueCopy { CopyOp.blank with
      srcPlace := sp, dstPlace := dp, src := so, dst := d, len0 := len0, n1 := n1, n2 := n2, srcS1 := s1 4, srcS2 := s2 5,
      dstS1 := s1 6, dstS2 := s2 7 }
    modCar (fun c => { c with openSet := c.openSet ++ [o.order] })
    pure .seq) s

/-- The copies of a batch that the core's engine holds a record of. -/
def State.batch (s : State) (m : Me) (n : Nat) : List CopyOp :=
  let ids := Tab.getD m.car.batches n []
  (s.core m.core).copies.filter (fun o => ids.contains o.order)

/-- `xseal` (R168). -/
def execXseal (sd : BitVec 6) (s : State) : Host.Outcome State Fault Refusal :=
  scalarOp (.xseal sd) (pure ()) (writes sd (do
    let m ← me
    let n := m.car.sealCount % 16
    let old := (← get).batch m n
    if old.any (fun o => !o.done) then stall .completion
    update (fun s => s.modCore m.core (fun c =>
      { c with copies := c.copies.filter (fun o => !(old.any (fun x => x.order = o.order))) }))
    modCar (fun c => { c with batches := Tab.set c.batches n c.openSet, openSet := [], sealCount := c.sealCount + 1 })
    pure (BitVec.ofNat 64 n))) s

/-- The failed copy of a batch that was issued first (R168). -/
def firstFailed (os : List CopyOp) : Option (Nat × Nat × Word) :=
  match os with
  | [] => none
  | o :: r => o.failed.or (firstFailed r)

/-- `xwait` (R168, R169): a batch that has completed in error raises the fault of its earliest copy. -/
def execXwait (n : BitVec 4) (s : State) : Host.Outcome State Fault Refusal :=
  scalarOp (.xwait n) (pure ()) (do
    let m ← me
    let os := (← get).batch m n.toNat
    if os.any (fun o => !o.done) then stall .completion
    match firstFailed os with
    | some (code, cause, addr) => raise code cause addr
    | none => pure .seq) s

/-- `xpoll` (R168). -/
def execXpoll (sd : BitVec 6) (n : BitVec 4) (s : State) : Host.Outcome State Fault Refusal :=
  scalarOp (.xpoll sd n) (pure ()) (writes sd (do
    let m ← me
    pure (ofBool (((← get).batch m n.toNat).all (fun o => o.done))))) s

/-! ### Tiles -/

/-- The tile entry of a core set. -/
def State.setTile (s : State) (core t : Nat) (x : Tile) : State :=
  s.modCore core (fun c => { c with tiles := Tab.set c.tiles t x })

/-- The space of a tile as a place. -/
def tilePlace (m : Me) (buffer : Bool) : Place := if buffer then .buffer m.core else .scratch m.car.block m.car.half

/-- The tile that the range word of a record names (R171), as a fill of a block sets it. -/
def rangeTile (w block : Nat) (buffer : Bool) : Tile :=
  { owner := 0, block := block, buffer := buffer, state := tileFilling, length := fld (recordField w 3) 19 13,
    offset := fld (recordField w 3) 0 19 }

/-- The bytes that the three counts of a record make. -/
def recordTotal (w : Nat) : Nat := recordField w 0 * recordField w 1 * recordField w 2

/-- The counts of a record of three dimensions lie in their limits. -/
def recordCounts (w : Nat) : Bool := countsOk (recordField w 0) (recordField w 1) (recordField w 2)

/-- The form of a fill's record (R165, R171). -/
def fillForm (w : Nat) : Bool :=
  let x := rangeTile w 0 false
  recordCounts w && x.offset % 64 = 0 && recordField w 6 = 0 && recordField w 7 = 0 && recordTotal w = x.bytes

/-- The form of a drain's record (R165, R171), where the tile it names has a length: a tile of the block that is not EMPTY. -/
def drainForm (x : Tile) (block w : Nat) : Bool :=
  recordCounts w && recordField w 3 = 0 && recordField w 4 = 0 && recordField w 5 = 0
    && (x.state = tileEmpty || x.block ≠ block || recordTotal w = x.bytes)

/-- A fill (R171, R172). -/
def fillTile (t sa sb : BitVec 6) (c : BitVec 4) (buffer : Bool) : Act Flow := do
  let m ← me
  let w ← readRecord (← reg sb)
  let len0 := recordField w 0
  let n1 := recordField w 1
  let n2 := recordField w 2
  let x := rangeTile w m.car.block buffer
  check (fillForm w) codeIllegal 3
  let old ← ownTile t.toNat
  check (old.state = tileEmpty) codeTile 1
  check (x.offset + x.bytes ≤ (if buffer then 4096 * m.blk.pk.ob else m.blk.scratchBytes)) codeScratch 0
    (BitVec.ofNat 64 x.offset)
  let src ← reg sa
  let _ ← issueCopy { CopyOp.blank with
    kind := .fill t.toNat, bar := some c.toNat, dstPlace := tilePlace m buffer, src := src.toNat, dst := x.offset,
    len0 := len0, n1 := n1, n2 := n2, srcS1 := recordStride w 4, srcS2 := recordStride w 5, dstS1 := len0,
    dstS2 := (len0 * n1 : Nat) }
  let number := match (m.blk.half? m.car.half).bind (fun h => h.slots[0]?) with
    | some slot => slot % 16
    | none => 0
  update (fun s => s.setTile m.core t.toNat { x with owner := number })
  pure .seq

/-- `tfill` (R170 to R172). -/
def execTfill (t sa sb : BitVec 6) (c : BitVec 4) (s : State) : Host.Outcome State Fault Refusal :=
  scalarOp (.tfill t sa sb c) (checkRecordForm sb fillForm) (fillTile t sa sb c false) s

/-- `tfill.ob` (R170 to R172). -/
def execTfillOb (t sa sb : BitVec 6) (c : BitVec 4) (s : State) : Host.Outcome State Fault Refusal :=
  scalarOp (.tfillOb t sa sb c) (checkRecordForm sb fillForm) (fillTile t sa sb c true) s

/-- `tdrain` (R170 to R172): it waits out a fill in progress. -/
def execTdrain (t sa sb : BitVec 6) (c : BitVec 4) (s : State) : Host.Outcome State Fault Refusal :=
  scalarOp (.tdrain t sa sb c) (do
    let m ← me
    let x := ((← get).core m.core).tile t.toNat
    checkRecordForm sb (drainForm x m.car.block)) (do
    let m ← me
    let w ← readRecord (← reg sb)
    let len0 := recordField w 0
    let n1 := recordField w 1
    let n2 := recordField w 2
    check (drainForm (((← get).core m.core).tile t.toNat) m.car.block w) codeIllegal 3
    let x ← ownTile t.toNat
    check (x.state = tileFilling || x.state = tileReady) codeTile 1
    if x.state = tileFilling then stall .tile
    let dst ← reg sa
    let _ ← issueCopy { CopyOp.blank with
      kind := .drain t.toNat, bar := some c.toNat, srcPlace := tilePlace m x.buffer, src := x.offset, dst := dst.toNat,
      len0 := len0, n1 := n1, n2 := n2, srcS1 := len0, srcS2 := (len0 * n1 : Nat), dstS1 := recordStride w 6,
      dstS2 := recordStride w 7 }
    update (fun s => s.setTile m.core t.toNat { x with state := tileDraining })
    pure .seq) s

/-- The 64-bit image of a tile entry (R55). -/
def Tile.image (t : Tile) : Word :=
  BitVec.ofNat 64 (t.offset + 2 ^ 19 * t.length + 2 ^ 32 * t.state + 2 ^ 34 * t.buffer.toNat + 2 ^ 35 * t.owner)

/-- `tstate` (R172, R174). -/
def execTstate (sd t : BitVec 6) (s : State) : Host.Outcome State Fault Refusal :=
  scalarOp (.tstate sd t) (pure ()) (writes sd (do
    let m ← me
    pure (((← get).core m.core).tile t.toNat).image)) s

/-- `tfree` (R172): the contents are left in place. -/
def execTfree (t : BitVec 6) (s : State) : Host.Outcome State Fault Refusal :=
  scalarOp (.tfree t) (pure ()) (do
    let m ← me
    let x ← ownTile t.toNat
    check (x.state ≠ tileFilling) codeTile 1
    if x.state = tileDraining then stall .tile
    update (fun s => s.setTile m.core t.toNat Tile.empty)
    pure .seq) s

/-! ### Completion -/

/-- The operation of a core's copy engine with a number. -/
def Core.copyOp (c : Core) (id : Nat) : Option CopyOp := c.copies.find? (fun o => o.order = id && !o.done)

/-- An operation that has ended (R167 to R173): a copy keeps its outcome for `xwait`; a fill or drain leaves the engine,
its tile moves on, and its barrier counts it with the poison bit where it consumed poison. -/
def State.finishCopy (s : State) (core : Nat) (o : CopyOp) (failed : Option (Nat × Nat × Word)) : State :=
  let settle (t : State) : State :=
    match failed, o.bar with
    | some (code, cause, addr), b =>
      if b.isSome || !(t.alive o.issuer o.caravan) then
        t.commandFault o.ctx o.block o.issuer o.caravan
          { barrier := b.getD 0, order := o.order, code := code, cause := cause, addr := addr, pc := o.pc }
      else t
    | none, _ => t
  let count (t : State) : State :=
    match o.bar with
    | none => t
    | some b =>
      let poison : Bool := match failed with
        | some f => f.1 = codePoison
        | none => false
      t.modBarrier o.block b (fun x => x.complete false false poison false)
  match o.kind with
  | .copy =>
    let s1 := settle s
    let ended (x : CopyOp) : CopyOp := if x.order = o.order then { x with done := true, failed := failed } else x
    let kept : List CopyOp → List CopyOp :=
      if s1.alive o.issuer o.caravan then List.map ended else List.filter (fun x => x.order ≠ o.order)
    s1.modCore core (fun c => { c with copies := kept c.copies })
  | .fill t =>
    let x := (s.core core).tile t
    let s0 := if failed.isNone && x.buffer then s.modMatrix core (fun m => { m with obPoison := m.obPoison &&& ~~~ obSectors x.offset x.bytes }) else s
    let s1 := s0.setTile core t (if failed.isSome then Tile.empty else { x with state := tileReady })
    (count (settle s1)).modCore core (fun c => { c with copies := c.copies.filter (fun x => x.order ≠ o.order) })
  | .drain t =>
    (count (settle (s.setTile core t Tile.empty))).modCore core (fun c =>
      { c with copies := c.copies.filter (fun x => x.order ≠ o.order) })

/-- An operation of the copy engine comes to its end (R167); nothing happens where there is none of the kind, or while
the driver is to serve a page of it (R374). -/
def completeCopy (core id : Nat) (kind : CopyKind → Bool) (s : State) : Host.Outcome State Fault Refusal :=
  match (s.core core).copyOp id with
  | none => .next s
  | some o =>
    if !kind o.kind then .next s
    else
      match o.run core o.issuer s with
      | .wait t => .next t
      | .ok _ t => .next (t.finishCopy core o none)
      | .fail c k a t => .next (t.finishCopy core o (some (c, k, a)))

/-- COPY_COMPLETE (R167, R168). -/
def execCopyComplete (core op : Nat) (s : State) : Host.Outcome State Fault Refusal :=
  completeCopy core op (fun k => k = .copy) s

/-- FILL_COMPLETE (R172, R173). -/
def execFillComplete (core op : Nat) (s : State) : Host.Outcome State Fault Refusal :=
  completeCopy core op (fun k => match k with
    | .fill _ => true
    | _ => false) s

/-- DRAIN_COMPLETE (R172, R173). -/
def execDrainComplete (core op : Nat) (s : State) : Host.Outcome State Fault Refusal :=
  completeCopy core op (fun k => match k with
    | .drain _ => true
    | _ => false) s

end Sys2Proof.Machine
end

