-- ==== Sys2Proof/Machine/Capsule.lean ====
section
/-!
DEFINITION. The capsule instructions, the resume of a holder, orphan reports and release notices (R176 to R189, R393,
R394).
-/

namespace Sys2Proof.Machine

/-- The cell at an address, as its physical address with the die of a die-local page (R179). No flit between packages carries
a capsule operation (R361), so that one on a cell in another package waits (DESIGN CHOICE, log entry 22). -/
def cellAt (va : Word) : Act (Nat × Option Nat) := do
  check (aligned va 512) codeMisaligned 0 va
  let t ← translate va .read
  if t.package.isSome then stall .capsule
  pure (physical t va, t.localDie)

/-- The core's own copies of a cell's line pushed and dropped, before an operation at its home slice (R267). -/
def State.atHome (s : State) (m : Me) (cell : Nat) : State :=
  (((s.drainStores m.key m.p).releaseSectors m.core cell 512).recallLines cell 512)

/-- `capinit` (R180): a package-scope release, which covers the bursts before it: who takes the cell waits for them. -/
def execCapinit (sa sb : BitVec 6) (s : State) : Host.Outcome State Fault Refusal :=
  scalarOp (.capinit sa sb) (pure ()) (do
    let va ← reg sa
    let g ← reg sb
    check (aligned va 512) codeMisaligned 0 va
    check (aligned g 512) codeMisaligned 0 g
    memGate true
    let (cell, die) ← cellAt va
    if g ≠ 0 then
      let (line, lineDie) ← cellAt g
      check (homeSlice line lineDie = homeSlice cell die) codeCapsuleScope 2
    let m ← me
    logAccess cell
    update (fun s => s.atHome m cell)
    let old := (← get).cellHeader cell
    let _ ← drawFree
    let h : CellHeader := { state := cellFree, step := 0, generation := (old.generation + 1) % 2 ^ 32, holder := 0,
                            behalf := 0, glineEn := g ≠ 0, gline := g.toNat % 2 ^ 48 / 512, ctx := m.blk.ctx }
    update (fun s => { s.homeStore (cell + 64) (List.replicate 192 0) false with cells := s.cells.filter (· ≠ cell) ++ [cell] })
    update (fun s => (s.releaseCell m cell h).changeCell cell h)
    pure .seq) s

/-- `capin` (R181, R187): the path joins the cell's waiters, which are then served; the one that is served goes on by
itself, and a waiting path stays here. -/
def execCapin (sa : BitVec 6) (s : State) : Host.Outcome State Fault Refusal :=
  scalarOp (.capin sa) (pure ()) (do
    let va ← reg sa
    check (aligned va 512) codeMisaligned 0 va
    memGate false
    let (cell, _) ← cellAt va
    let m ← me
    logAccess cell
    update (fun s => s.atHome m cell)
    let s ← get
    if s.poisoned cell 512 then raise codePoison 1 va
    let w := m.key * 2 + m.p
    let line := s.waitersOf cell
    if ¬ line.contains w then set { s with capWaiters := Tab.set s.capWaiters cell (line ++ [w]) }
    update (fun s => s.serveCell cell (s.waitersOf cell).length)
    if ((← get).waitersOf cell).contains w then stall .capsule
    pure .stay) s

/-- `capstep` and `capout` stand in a body (R179). -/
def checkBody : Act Unit := do
  check (← me).car.capsule.isSome codeIllegal 5

/-- The commit of a step at the home slice (R183): the check, the buffered stores, the checkpoint, the step count. -/
def commitStep (m : Me) (r : CapRole) : Act CellHeader := do
  let s ← get
  let h := s.cellHeader r.cell
  check (h.state = cellHeld && h.holder = s.tagOf m.key && h.generation = r.generation && h.step = r.step)
    codeCapsuleScope 1
  logAccess r.cell
  update (fun s => s.atHome m r.cell)
  update (fun s => r.buffer.foldl (fun t b => (t.releaseSectors m.core b.1 1).homeStore b.1 [b.2] true) s)
  update (fun s => s.setCheckpoint r.cell m.car (m.path.spc + 4) (r.step + 1))
  pure { h with step := r.step + 1 }

/-- `capstep` (R183). -/
def execCapstep (s : State) : Host.Outcome State Fault Refusal :=
  scalarOp .capstep checkBody (do
    let m ← me
    match m.car.capsule with
    | none => raise codeIllegal 5
    | some r =>
      memGate true
      let h ← commitStep m r
      update (fun s => s.changeCell r.cell h)
      modCar (fun c => { c with capsule := some { r with step := r.step + 1, count := 0, buffer := [] } })
      pure .seq) s

/-- The result sector of a cell (R178): `s1` to `s4`, the exit SPC, the behalf tag and the generation. -/
def resultSector (c : Caravan) (exit_ : Word) (h : CellHeader) : List Byte :=
  ((List.range 4).map (fun i => c.sreg (i + 1)) ++ [exit_]).foldr (fun w bs => leBytes 8 w.toNat ++ bs)
    (leBytes 4 h.behalf ++ leBytes 4 h.generation ++ List.replicate 16 0)

/-- `capout` (R184): the last commit and the end of the capsule; a package-scope release, which covers the bursts before
it. -/
def execCapout (s : State) : Host.Outcome State Fault Refusal :=
  scalarOp .capout checkBody (do
    let m ← me
    match m.car.capsule with
    | none => raise codeIllegal 5
    | some r =>
      memGate true
      let s ← get
      let record := r.adopter.map (s.adopterRecord m.key)
      let h0 ← commitStep m r
      update (fun s => s.homeStore (r.cell + 192) (resultSector m.car (m.path.spc + 4) h0) false)
      let own : Bool := h0.behalf = h0.holder
      let h : CellHeader := { h0 with state := if own then cellFree else cellDone }
      modCar (fun c => { (if own then c else c.setRegs ((record.map Prod.fst).getD [])) with capsule := none })
      update (fun s => (s.releaseCell m r.cell h).changeCell r.cell h)
      match record with
      | some (_, spc) => pure (if own then .seq else .jump spc)
      | none => pure .seq) s

/-- `capres` (R185); a line on which no `capinit` has been performed has no header (R177). -/
def execCapres (sd sa : BitVec 6) (s : State) : Host.Outcome State Fault Refusal :=
  scalarOp (.capres sd sa) (pure ()) (writes sd (do
    let va ← reg sa
    check (aligned va 512) codeMisaligned 0 va
    memGate false
    let t ← translate va .read
    if t.package.isSome then pure (wordOf (← remoteRead va t 8 false))
    else
      let cell := physical t va
      logAccess cell
      let s ← get
      if s.poisoned cell 8 then raise codePoison 0 va
      if s.cells.contains cell then pure (BitVec.ofNat 64 (s.homeNat cell 8)) else freeBits 64)) s

/-! ### Resume, reports and notices -/

/-- A holder that was descheduled resumes: the resume rows of R187, before its first instruction. It goes on, waits with
the reason "capsule wait", or raises CAPSULE_SCOPE at the resume point. A cell that is taken over in this way is taken without an
acquire: R189 gives one to `capin` alone (DESIGN CHOICE, log entry 22). -/
def State.resumeCapsule (s : State) (key : Nat) : State :=
  match (s.caravan? key).bind (fun c => c.capsule.map (fun r => (c, r))) with
  | none => s
  | some (c, r) =>
    if ¬ r.descheduled then s
    else
      let h := s.cellHeader r.cell
      let tag := s.tagOf key
      let same : Bool := h.generation = r.generation
      let at_ (c : Caravan) (spc : Word) (q : Option CapRole) : Caravan :=
        { c with capsule := q, paths := Tab.modify c.paths r.path (fun x => { x with spc := spc, stall := none }) }
      let (regs, spc, step) := s.checkpoint r.cell
      let again := s.setCaravan key
        (at_ (c.setRegs regs) spc (some { r with step := step, count := 0, buffer := [], descheduled := false }))
      match r.adopter with
      | none =>
        if h.state = cellOrphaned && same then again.changeCell r.cell { h with state := cellHeld, holder := tag }
        else if h.state = cellHeld && h.behalf = tag && same then
          s.modPath key r.path (fun x => { x with stall := some .capsule })
        else if h.state = cellDone && h.behalf = tag && same then
          let vals := (List.range 4).map (fun i => BitVec.ofNat 64 (s.homeNat (r.cell + 192 + 8 * i) 8))
          let t := s.setCaravan key (at_ (c.setRegs vals) (BitVec.ofNat 64 (s.homeNat (r.cell + 224) 8)) none)
          t.changeCell r.cell { h with state := cellFree }
        else
          let here : Word := match Tab.get? c.paths r.path with
            | some x => x.spc
            | none => 0
          s.raiseTrap key r.path { code := codeCapsuleScope, cause := 3, addr := 0,
                                   pc := BitVec.ofNat 64 (here.toNat % 2 ^ 48 / 4 * 4), resume := here, removed := [] }
      | some record =>
        let (own, capin) := s.adopterRecord key record
        if h.state = cellOrphaned && h.holder = tag && same then again.changeCell r.cell { h with state := cellHeld }
        else s.setCaravan key (at_ (c.setRegs own) capin none)

/-- ORPHAN_REPORT (R186, R393): a holder with a trap awaiting delivery is reported before it is delivered, and its
buffered stores are discarded. -/
def execOrphanReport (core slot : Nat) (s : State) : Host.Outcome State Fault Refusal :=
  let key := carKey core slot
  match (s.caravan? key).bind (fun c => c.capsule.map (fun r => (c, r))) with
  | none => .next s
  | some (c, r) =>
    if r.descheduled || !(c.paths.any (fun x => x.2.pending.isSome)) then .next s
    else .next ((s.orphanReport key r).modCaravan key (fun c =>
      { c with capsule := c.capsule.map (fun q => { q with buffer := [], descheduled := true }) }))

/-- RELEASE_NOTICE (R394): a notice ends when the cell is DONE for its caravan and generation, and so becomes FREE, and
when the generation has changed. -/
def execReleaseNotice (core slot : Nat) (s : State) : Host.Outcome State Fault Refusal :=
  match Tab.get? (s.core core).notices slot with
  | none => .next s
  | some (tag, generation, cell) =>
    let h := s.cellHeader cell
    let ended := s.modCore core (fun c => { c with notices := Tab.erase c.notices slot })
    if h.generation ≠ generation then .next ended
    else if h.state = cellDone ∧ h.behalf = tag then .next (ended.changeCell cell { h with state := cellFree })
    else .next s

end Sys2Proof.Machine
end

