-- ==== Sys2Proof/Machine/Matrix.lean ====
section
/-!
DEFINITION. The matrix engine: operand-buffer reservations, posts, the matrix queue and its operations (R190 to R209).
-/

namespace Sys2Proof.Machine

/-! ### Reservations -/

/-- Elements in a K-chunk of a format (R190). -/
def chunkElements (fmt : Nat) : Nat := 384 / formatBits fmt

/-- An A combination of element format and block-length code (R190). -/
def aFormatOk (fmt blk : Nat) : Bool :=
  ((fmt = 3 || fmt = 4 || fmt = 5 || fmt = 6) && blk ≤ 2) || ((fmt = 1 || fmt = 2) && blk = 0)

/-- A B combination of element format and block-length code (R190). -/
def bFormatOk (fmt blk : Nat) : Bool := aFormatOk fmt blk && !(fmt = 5 && blk = 1)

/-- Elements in a scale block of a block-length code (R53). -/
def blockElements (blk : Nat) : Nat := if blk = 1 then 16 else 32

/-- Bytes of the range of a record: a length field of 0 stands for the whole buffer (R53). -/
def ObRecord.bytes (r : ObRecord) : Nat := if r.length = 0 then 262144 else r.length

/-- The format word of R191 in a record. -/
def ObRecord.withFormat (r : ObRecord) (v : Nat) : ObRecord :=
  { r with fmt := fld v 0 4, blkLen := fld v 4 3, bmpEn := fld v 7 1 = 1, scaleOff := fld v 8 18, bmpOff := fld v 26 18 }

/-- The checks of R192 on a record, the lowest cause first. -/
def checkRecord (r : ObRecord) : Act Unit := do
  let m ← me
  check (aFormatOk r.fmt r.blkLen) codeObFormat 1
  check (r.base + r.bytes ≤ 4096 * m.blk.pk.ob && (r.blkLen = 0 || r.scaleOff < r.bytes)
    && (!r.bmpEn || r.bmpOff < r.bytes)) codeObFormat 2
  check (r.base % 64 = 0 && r.length % 64 = 0 && r.scaleOff % 64 = 0 && r.bmpOff % 64 = 0) codeObFormat 3

/-- A reservation record of the core set, or made invalid. -/
def setRecord (k : Nat) (r : Option ObRecord) : Act Unit := do
  let m ← me
  update (fun s => s.modMatrix m.core (fun x => { x with records := Tab.put x.records k r }))

/-- `obres` (R191, R192). -/
def execObres (k : BitVec 4) (sa sb : BitVec 6) (s : State) : Host.Outcome State Fault Refusal :=
  scalarOp (.obres k sa sb) (pure ()) (do
    let range := (← reg sa).toNat
    let blank : ObRecord := { base := fld range 0 18, length := fld range 18 18, fmt := 0, blkLen := 0, scaleOff := 0,
                              bmpEn := false, bmpOff := 0 }
    let r := blank.withFormat (← reg sb).toNat
    checkRecord r
    setRecord k.toNat (some r)
    pure .seq) s

/-- `obrel` (R192). R36 makes the records items of the core and R237 a resource of its matrix block; the spec does not say what
`obres`, `obfmt` or `obrel` does in a caravan of another block of that core, and the model lets it act on the core's records
(DESIGN CHOICE, log entry 51). -/
def execObrel (k : BitVec 4) (s : State) : Host.Outcome State Fault Refusal :=
  scalarOp (.obrel k) (pure ()) (do
    setRecord k.toNat none
    pure .seq) s

/-- The valid record of a number, or OB_FORMAT (R192, R198). -/
def validRecord (k : Nat) : Act ObRecord := do
  let m ← me
  match Tab.get? ((← get).core m.core).mat.records k with
  | some r => pure r
  | none => raise codeObFormat 0

/-- `obfmt` (R192). -/
def execObfmt (k : BitVec 4) (sb : BitVec 6) (s : State) : Host.Outcome State Fault Refusal :=
  scalarOp (.obfmt k sb) (pure ()) (do
    let old ← validRecord k.toNat
    let r := old.withFormat (← reg sb).toNat
    checkRecord r
    setRecord k.toNat (some r)
    pure .seq) s

/-! ### Posts -/

/-- Whether a member mask holds exactly one slot of each quadrant (R194, R198). -/
def oneEach (mask : BitVec 64) : Bool := (List.range 4).all (fun q => onesBelow (mask.toNat / 2 ^ (16 * q) % 2 ^ 16) 16 = 1)

/-- The members of a group in a half. -/
def Group.inHalf (g : Group) (half : Nat) : BitVec 64 := if half = 0 then g.members else g.partner

/-- The 512 bytes of an `mpost`: three data registers and the auxiliary one, in all lanes (R195). -/
def Lane.quarter (x : Lane) : BitVec 4096 :=
  let word (k : Nat) : Nat :=
    (if k / 32 < 3 then x.reg (x.f.a.toNat + k / 32) (k % 32) else x.reg x.f.b.toNat (k % 32)).toNat
  BitVec.ofNat 4096 ((List.range 128).foldl (fun n k => n + word k * 2 ^ (32 * k)) 0)

/-- The group that an `mpost` names is one of the caravan's, with one member in each quadrant of the core (R194). -/
def checkPost (x : Lane) : Act Unit :=
  check (match x.m.blk.groups[x.f.immField 0 8]? with
    | some g => g.has x.m.car.half x.m.slot && oneEach (g.inHalf x.m.car.half)
    | none => false) codeIllegal 4

/-- `mpost` (R194 to R196): a post held until its burst commits; it waits for a free entry of its quadrant and while a
post of its tag is there. -/
def execMpost (f : LaneFields) (s : State) : Host.Outcome State Fault Refusal :=
  laneOpWith (.mpost f) f checkPost (fun x => do
    let m := x.m
    let group := f.immField 0 8
    let seq := f.immField 8 8
    let q := slotQuad m.slot
    let mine := ((← get).core m.core).mat.posts.filter (fun p => p.quad = q)
    let same : Bool := mine.any (fun p => p.block = m.car.block && p.group = group && p.seq = seq)
      || x.b.posts.any (fun p => p.2.1 = group && p.2.2.1 = seq)
    if same || mine.length + x.b.posts.length ≥ 8 then stall .busy
    modBurst (fun b => { b with posts := b.posts ++ [(q, group, seq, x.quarter)] })
    pure {}) s

/-! ### Issue -/

/-- Whether a group of an operation is abandoned (R203). -/
def State.groupAbandoned (s : State) (o : MatrixOp) : Bool :=
  match (Tab.get? s.blocks o.block).bind (fun b => b.groups[o.group]?) with
  | some g => g.abandoned
  | none => true

/-- Whether an `mma` at a core waits for posts of an abandoned group, and so is aborted (R203, R242). -/
def State.lostPosts (s : State) (o : MatrixOp) (core : Nat) : Bool :=
  o.isMma && s.groupAbandoned o && (s.spans o core).any (fun k => (s.quarters o k).isNone)

/-- Whether the head of a core's matrix queue is held by the power allowance alone is said by `held`. A command finds room
in the queue, is counted on its barrier and enters (R200). -/
def enqueueMatrix (o : MatrixOp) (held : Bool) : Act Unit := do
  let m ← me
  barrierRoom o.bar
  memGate true
  if ((← get).core m.core).mat.queue.length ≥ 16 then stall (if held then .power else .busy)
  countOn o.bar
  let id ← freshUid
  let y : MatrixOp := { o with order := id, issuer := m.key, caravan := m.car.uid, block := m.car.block, ctx := m.blk.ctx,
                               path := m.p, bursts := if o.form = .load then m.path.laneq.length else 0,
                               pc := (m.trap 0 0 0).pc }
  let x : MatrixOp := { y with abort := (← get).lostPosts y m.core }
  update (fun s => (s.drainStores m.key m.p).modMatrix m.core (fun y => { y with queue := y.queue ++ [x] }))

/-- A record that holds nothing. -/
def ObRecord.blank : ObRecord :=
  { base := 0, length := 0, fmt := 0, blkLen := 0, scaleOff := 0, bmpEn := false, bmpOff := 0 }

/-- An operation of a form on a tile. -/
def MatrixOp.make (form : MatrixForm) (bar tile : Nat) : MatrixOp :=
  { form := form, order := 0, issuer := 0, caravan := 0, block := 0, ctx := 0, bar := bar, tile := tile, group := 0, seq := 0,
    chunk := 0, bfmt := 0, bblk := 0, record := ObRecord.blank, path := 0, bursts := 0, addr := 0, stride := 0, passed := 0,
    cycles := 0, poison := false, abort := false, fault := none }

/-- The range offsets past the last byte that an `mma` reads of a record: chunk, scales, bitmap (R193, R198). R198 does not say
whether the bitmap of a form that ignores it must lie within the record, and the model asks it of the `.bm` forms alone (DESIGN
CHOICE, log entry 51). -/
def chunkEnds (r : ObRecord) (j : Nat) (bitmap : Bool) : List Nat :=
  let n := chunkElements r.fmt
  [3072 * j + 3072]
    ++ (if r.blkLen = 0 then [] else [r.scaleOff + 64 * (((j + 1) * n - 1) / blockElements r.blkLen) + 64])
    ++ (if bitmap then [r.bmpOff + 768 * j + 768] else [])

/-- The members that an `mma` asks of its group (R198): exactly one in each quadrant of every core it spans. -/
def quartetOk (pair : Bool) (half : Nat) (g : Group) : Bool :=
  if pair then oneEach g.members && oneEach g.partner else oneEach (g.inHalf half) && g.inHalf (1 - half) = 0

/-- ILLEGAL_OP of an `mma` form (R198). -/
def checkMma (sa : BitVec 6) (pair : Bool) : Act Unit := do
  let m ← me
  let group := fld (← reg sa).toNat 24 8
  check (m.blk.groups[group]?).isSome codeIllegal 4
  check (!pair || (m.blk.halves.length > 1 && m.car.half = 0)) codeIllegal 5
  check (match m.blk.groups[group]? with
    | some g => quartetOk pair m.car.half g
    | none => false) codeIllegal 4

/-! ### Values -/

/-- The FP32 code of an accumulator element. -/
def accIndex (tile r c : Nat) : Nat := tile * 2048 + r * 32 + c

/-- A number of `n` bytes in the operand buffer. -/
def Matrix.obNat (m : Matrix) (o n : Nat) : Nat := leNat (m.ob.readList o n)

/-- The value of an element code under an optional scale code (R28). -/
def elementValueOf (fmt code : Nat) (scale : Option Nat) : Value :=
  let v := if fmt = 6 then sp8Decode code else decode (formatOf fmt) code
  match scale with
  | none => v
  | some s => if s = 255 then .nan else v.scale (scaleExp s)

/-- A row of chunk j of A, as 48 bytes (R193). -/
def aRow (m : Matrix) (r : ObRecord) (j row : Nat) : Nat := m.obNat (r.base + 3072 * j + 48 * row) 48

/-- The bitmap of a row of chunk j of A (R193). -/
def aBitmap (m : Matrix) (r : ObRecord) (j row : Nat) : Nat := m.obNat (r.base + r.bmpOff + 768 * j + 12 * row) 12

/-- The elements of a row of chunk j of A (R28, R193). -/
def aValues (m : Matrix) (r : ObRecord) (j row : Nat) (bitmap : Bool) : List Value :=
  let n := chunkElements r.fmt
  let bytes := aRow m r j row
  let bits := aBitmap m r j row
  (List.range n).map (fun i =>
    if bitmap && bits / 2 ^ i % 2 = 0 then .zero false
    else
      let scale := if r.blkLen = 0 then none
        else some (m.ob.read (r.base + r.scaleOff + 64 * ((j * n + i) / blockElements r.blkLen) + row)).toNat
      elementValueOf r.fmt (bytes / 2 ^ (formatBits r.fmt * i) % 2 ^ formatBits r.fmt) scale)

/-- A 32-bit word of a quarter: register and lane (R195). -/
def quarterWord (q : BitVec 4096) (reg lane : Nat) : Nat := q.toNat / 2 ^ (32 * (32 * reg + lane)) % 2 ^ 32

/-- The bitmap of a column of a quarter (R195). -/
def bBitmap (q : BitVec 4096) (c : Nat) : Nat :=
  quarterWord q 3 (4 * c) + 2 ^ 32 * quarterWord q 3 (4 * c + 1) + 2 ^ 64 * quarterWord q 3 (4 * c + 2)

/-- The elements of a column of a quarter (R28, R195). -/
def bValues (q : BitVec 4096) (fmt blk j c : Nat) (bitmap : Bool) : List Value :=
  let n := chunkElements fmt
  let bytes := (List.range 12).foldl (fun x k => x + quarterWord q (k / 4) (4 * c + k % 4) * 2 ^ (32 * k)) 0
  let bits := bBitmap q c
  let first := j * n / blockElements blk
  (List.range n).map (fun i =>
    if bitmap && bits / 2 ^ i % 2 = 0 then .zero false
    else
      let scale := if blk = 0 then none
        else some (quarterWord q 3 (4 * c + 3) / 2 ^ (8 * ((j * n + i) / blockElements blk - first)) % 256)
      elementValueOf fmt (bytes / 2 ^ (formatBits fmt * i) % 2 ^ formatBits fmt) scale)

/-- Cells of a storage of consecutive numbers set from a function. -/
def Store.fillWith {w : Nat} (s : Store w) (k n : Nat) (v : Nat → BitVec w) : Store w :=
  s.writeList k ((List.range n).map v)

/-- The tile of an engine after an `mma` with A of `src` and the quarters of its own posts (R199). -/
def accumulate (m src : Matrix) (o : MatrixOp) (bitmap : Bool) (quarters : List (BitVec 4096)) : Matrix :=
  let rows := (List.range 64).map (fun r => aValues src o.record o.chunk r bitmap)
  let cols := (List.range 32).map (fun c => bValues (quarters.getD (c / 8) 0) o.bfmt o.bblk o.chunk (c % 8) bitmap)
  let new (k : Nat) : BitVec 32 :=
    BitVec.ofNat 32 (chunk (m.acc.read (o.tile * 2048 + k)).toNat ((rows.getD (k / 32) []).zip (cols.getD (k % 32) [])))
  { m with acc := m.acc.fillWith (o.tile * 2048) 2048 new }

/-- The budget estimate of an `mma` on an engine (R208): from A's chunk rows and the engine's row −1. -/
def estimate (last : BitVec 384) (rows : List (BitVec 384)) : Nat :=
  (rows.foldl (fun t r => (t.1 + popCount (t.2 ^^^ r), r)) (256, last)).1

/-- The chunk rows of an operation's A (R193). -/
def MatrixOp.rows (o : MatrixOp) (m : Matrix) : List (BitVec 384) :=
  (List.range 64).map (fun r => BitVec.ofNat 384 (aRow m o.record o.chunk r))

/-- The slots of a bitmap form that take 2 cycles on a core (R201). -/
def slowSlots (src : Matrix) (o : MatrixOp) (quarters : List (BitVec 4096)) : Nat :=
  let n := chunkElements o.record.fmt
  let rows := (List.range 64).map (fun r => aBitmap src o.record o.chunk r)
  let slow (slot : Nat) : Bool := (List.range 16).any (fun k =>
    let col := bBitmap (quarters.getD (2 * slot + k / 8) 0) (k % 8)
    rows.any (fun r => onesBelow (r &&& col) n > n / 2))
  (slow 0).toNat + (slow 1).toNat

/-! ### What can start -/

/-- Whether a byte range of the operand buffer that an operation reads overlaps a tile of its block that is FILLING
(R172, R200). -/
def State.fillingUnder (s : State) (o : MatrixOp) (core : Nat) (bitmap : Bool) : Bool :=
  let r := o.record
  let n := chunkElements r.fmt
  let b := blockElements r.blkLen
  let scales : List (Nat × Nat) := if r.blkLen = 0 then []
    else [(r.scaleOff + 64 * (o.chunk * n / b), r.scaleOff + 64 * (((o.chunk + 1) * n - 1) / b) + 64)]
  let maps : List (Nat × Nat) := if bitmap then [(r.bmpOff + 768 * o.chunk, r.bmpOff + 768 * o.chunk + 768)] else []
  let reads := (3072 * o.chunk, 3072 * o.chunk + 3072) :: (scales ++ maps)
  (s.core core).tiles.any (fun t => t.2.buffer && t.2.state = tileFilling && t.2.block = o.block &&
    reads.any (fun x => r.base + x.1 < t.2.offset + t.2.bytes && t.2.offset < r.base + x.2))

/-- Whether an engine is idle. -/
def Matrix.idle (m : Matrix) : Bool := m.running.isNone && m.slaved.isNone

/-- Whether a pair operation with complete posts has reached the head of the leader's queue of a block whose follower is a core:
the operations of that core that have not started wait behind it (R202). -/
def State.pairAhead (s : State) (core : Nat) : Bool :=
  s.blocks.any (fun b =>
    match b.2.halves with
    | [l, f] =>
      f.core = core && (match (s.core l.core).mat.queue with
        | o :: _ => (o.form = .mma false true || o.form = .mma true true) && o.block = b.1 && !o.abort
            && (s.spans o l.core).all (fun k => (s.quarters o k).isSome)
        | [] => false)
    | _ => false)

/-- The operation at the head of a core's queue, where it could start but for the power allowance (R200, R202). -/
def State.ready (s : State) (core : Nat) : Option MatrixOp :=
  match (s.core core).mat.queue with
  | [] => none
  | o :: _ =>
    let on := s.spans o core
    if !(on.all (fun k => (s.core k).mat.idle)) || o.abort || s.pairAhead core then none
    else
      match o.form with
      | .mma bitmap _ =>
        if on.all (fun k => (s.quarters o k).isSome) && !s.fillingUnder o core bitmap then some o else none
      | .load => if o.bursts = 0 then some o else none
      | _ => some o

/-- The charge of an operation of a core (R208, R209): the sum of its estimates; nothing for the other forms. -/
def State.charge (s : State) (o : MatrixOp) (core : Nat) : Nat :=
  if o.isMma then ((s.spans o core).map (fun k => estimate (s.core k).mat.lastRow (o.rows (s.core core).mat))).sum else 0

/-- The `mma` operations of a die that could start but for the allowance, by core and charge. -/
def State.waitingMmas (s : State) (die : Nat) : List (Nat × MatrixOp × Nat) :=
  (List.range 48).filterMap (fun i =>
    let core := 48 * die + i
    match s.ready core with
    | some o => if o.isMma then some (core, o, s.charge o core) else none
    | none => none)

/-- Whether an operation comes before another in the order of R209: one passed over 16 times first, then by ascending
charge, then by ascending core number. -/
def chargeBefore (x y : Nat × MatrixOp × Nat) : Bool :=
  let a : Bool := x.2.1.passed ≥ 16
  let b : Bool := y.2.1.passed ≥ 16
  if a ≠ b then a else x.2.2 < y.2.2 || (x.2.2 = y.2.2 && x.1 < y.1)

/-- Whether the allowance lets the head of a core's queue start now (R209). -/
def State.admitted (s : State) (core : Nat) : Bool :=
  let ws := s.waitingMmas (coreDie core)
  match ws.find? (fun w => w.1 = core) with
  | none => false
  | some x => x.2.2 ≤ (s.die (coreDie core)).allowance && !(ws.any (fun y => y.1 ≠ core && chargeBefore y x))

/-- Whether the head of a core's queue is held for the power allowance alone (R200, R207). -/
def State.heldForPower (s : State) (core : Nat) : Bool :=
  match s.ready core with
  | some o => o.isMma && !s.admitted core
  | none => false

/-! ### Instructions -/

/-- A form of `mma` (R197, R198). -/
def queueMma (d sa k : BitVec 6) (c : BitVec 4) (bitmap pair : Bool) : Act Flow := do
  let m ← me
  let w := (← reg sa).toNat
  let r ← validRecord k.toNat
  let j := fld w 0 16
  let bfmt := fld w 32 4
  let bblk := fld w 36 3
  check (aFormatOk r.fmt r.blkLen && bFormatOk bfmt bblk && chunkElements r.fmt = chunkElements bfmt
    && (!bitmap || r.bmpEn)) codeObFormat 1
  check ((chunkEnds r j bitmap).all (· ≤ r.bytes)) codeObFormat 2
  check (d.toNat < m.blk.pk.acc) codeAccRange 0
  let s ← get
  enqueueMatrix { MatrixOp.make (.mma bitmap pair) c.toNat d.toNat with
    group := fld w 24 8, seq := fld w 16 8, chunk := j, bfmt := bfmt, bblk := bblk, record := r } (s.heldForPower m.core)
  pure .seq

/-- `mma` (R197, R198). -/
def execMma (sd sa k : BitVec 6) (c : BitVec 4) (s : State) : Host.Outcome State Fault Refusal :=
  scalarOp (.mma sd sa k c) (checkMma sa false) (queueMma sd sa k c false false) s

/-- `mma.bm` (R197, R198). -/
def execMmaBm (sd sa k : BitVec 6) (c : BitVec 4) (s : State) : Host.Outcome State Fault Refusal :=
  scalarOp (.mmaBm sd sa k c) (checkMma sa false) (queueMma sd sa k c true false) s

/-- `mma.pair` (R197, R198). -/
def execMmaPair (sd sa k : BitVec 6) (c : BitVec 4) (s : State) : Host.Outcome State Fault Refusal :=
  scalarOp (.mmaPair sd sa k c) (checkMma sa true) (queueMma sd sa k c false true) s

/-- `mma.pair.bm` (R197, R198). -/
def execMmaPairBm (sd sa k : BitVec 6) (c : BitVec 4) (s : State) : Host.Outcome State Fault Refusal :=
  scalarOp (.mmaPairBm sd sa k c) (checkMma sa true) (queueMma sd sa k c true true) s

/-- An accumulator instruction that is queued (R204, R205). -/
def queueAcc (form : MatrixForm) (d : BitVec 6) (addr stride : Word) (c : BitVec 4) : Act Flow := do
  let m ← me
  check (d.toNat < m.blk.pk.acc) codeAccRange 0
  let rows : Int := (stride.truncate 32 : BitVec 32).toInt
  check (form = .zero || (addr.toNat % 4 = 0 && rows % 4 = 0)) codeMisaligned 2 addr
  let s ← get
  enqueueMatrix { MatrixOp.make form c.toNat d.toNat with addr := addr, stride := stride } (s.heldForPower m.core)
  pure .seq

/-- `mzero` (R204, R205). -/
def execMzero (sd : BitVec 6) (c : BitVec 4) (s : State) : Host.Outcome State Fault Refusal :=
  scalarOp (.mzero sd c) (pure ()) (queueAcc .zero sd 0 0 c) s

/-- `macc.ld` (R204, R205). -/
def execMaccLd (sd sa sb : BitVec 6) (c : BitVec 4) (s : State) : Host.Outcome State Fault Refusal :=
  scalarOp (.maccLd sd sa sb c) (pure ()) (do queueAcc .load sd (← reg sa) (← reg sb) c) s

/-- `macc.st` (R204, R205). -/
def execMaccSt (sd sa sb : BitVec 6) (c : BitVec 4) (s : State) : Host.Outcome State Fault Refusal :=
  scalarOp (.maccSt sd sa sb c) (pure ()) (do queueAcc .store sd (← reg sa) (← reg sb) c) s

/-- The earliest issued of the outcomes that ended in error or were aborted (R206). -/
def firstBadOutcome (os : List MatrixOutcome) : Option (Nat × Nat × Word) :=
  let bad := os.filter (fun o => o.fault.isSome)
  (bad.foldl (fun best o =>
    match best with
    | none => some o
    | some b => if o.order < b.order then some o else some b) (none : Option MatrixOutcome)).bind (fun o => o.fault)

/-- `mwait` (R206). -/
def execMwait (sd : BitVec 6) (s : State) : Host.Outcome State Fault Refusal :=
  scalarOp (.mwait sd) (pure ()) (writes sd (do
    let m ← me
    let x := ((← get).core m.core).mat
    if (x.queue ++ x.running.toList).any (fun o => o.caravan = m.car.uid) then stall .completion
    let os := m.car.matrixOutcomes
    modCar (fun c => { c with matrixOutcomes := [] })
    match firstBadOutcome os with
    | some (code, cause, addr) => raise code cause addr
    | none => pure (ofBool (os.any (fun o => o.poison))))) s

/-- `mstat` (R207). -/
def execMstat (sd k : BitVec 6) (s : State) : Host.Outcome State Fault Refusal :=
  scalarOp (.mstat sd k) (pure ()) (writes sd (do
    let m ← me
    pure (Tab.getD ((← get).core m.core).mat.counters k.toNat 0 |> BitVec.ofNat 64))) s

/-! ### Start and completion -/

/-- A status counter of an engine raised (R207). -/
def Matrix.countUp (m : Matrix) (k n : Nat) : Matrix :=
  { m with counters := Tab.set m.counters k ((Tab.getD m.counters k 0 + n) % 2 ^ 64) }

/-- An engine without the posts of an operation's tag (R196). -/
def Matrix.consume (m : Matrix) (o : MatrixOp) : Matrix :=
  { m with posts := m.posts.filter (fun p => !(p.block = o.block && p.group = o.group && p.seq = o.seq)) }

/-- Whether a tile is poisoned (R205). -/
def Matrix.tilePoisoned (m : Matrix) (t : Nat) : Bool := m.accPoison.toNat / 2 ^ t % 2 = 1

/-- The poison of a tile set or cleared (R205). -/
def Matrix.setPoison (m : Matrix) (t : Nat) (v : Bool) : Matrix :=
  let bit : BitVec 64 := BitVec.ofNat 64 (2 ^ t)
  { m with accPoison := if v then m.accPoison ||| bit else m.accPoison &&& ~~~ bit }

/-- Whether a byte of A that an operation reads lies in a poisoned part of the operand buffer (R405, R407). -/
def MatrixOp.readsPoison (o : MatrixOp) (m : Matrix) (bitmap : Bool) : Bool :=
  obPoisoned m.obPoison (o.record.base + 3072 * o.chunk) 3072
    || (o.record.blkLen ≠ 0 &&
      (let n := chunkElements o.record.fmt
       let b := blockElements o.record.blkLen
       let first := o.chunk * n / b
       obPoisoned m.obPoison (o.record.base + o.record.scaleOff + 64 * first) (64 * (((o.chunk + 1) * n - 1) / b - first + 1))))
    || (bitmap && obPoisoned m.obPoison (o.record.base + o.record.bmpOff + 768 * o.chunk) 768)

/-- An `mma` that starts on the cores it spans (R199, R202, R208): its charge is taken, the tiles accumulate, the posts
are consumed. -/
def State.startMma (s : State) (core : Nat) (o : MatrixOp) (bitmap : Bool) : State :=
  let src := (s.core core).mat
  let rows := o.rows src
  let on := s.spans o core
  let others := (s.waitingMmas (coreDie core)).filter (fun w => w.1 ≠ core)
  let bad := o.readsPoison src bitmap || on.any (fun k => (s.core k).mat.tilePoisoned o.tile)
  let s1 := s.modDie (coreDie core) (fun d => { d with allowance := d.allowance - s.charge o core })
  let pass (x : MatrixOp) : MatrixOp := { x with passed := x.passed + 1 }
  let s2 := others.foldl (fun t w => t.modMatrix w.1 (fun m => { m with queue := m.queue.modifyHead pass })) s1
  let one (t : State) (k : Nat) : State :=
    let q := (s.quarters o k).getD []
    t.modMatrix k (fun m =>
      let n := ((accumulate m src o bitmap q).consume o).countUp 1 (estimate m.lastRow rows)
      let n1 := if bitmap then n.countUp 3 (slowSlots src o q) else n
      let n2 := if o.readsPoison src bitmap || m.tilePoisoned o.tile then n1.setPoison o.tile true else n1
      { n2 with lastRow := rows.getLastD 0, slaved := if k = core then n2.slaved else some core })
  (on.foldl one s2).modMatrix core (fun m => { m with queue := m.queue.drop 1, running := some { o with poison := bad } })

/-- The addresses of the elements of an accumulator access, in (r, c) order (R205). -/
def MatrixOp.addresses (o : MatrixOp) : List Word :=
  let stride : Int := (o.stride.truncate 32 : BitVec 32).toInt
  (List.range 2048).map (fun k => o.addr + BitVec.ofInt 64 ((k / 32 : Nat) * stride) + BitVec.ofNat 64 (4 * (k % 32)))

/-- Located bytes as an engine of a core reads them, and whether one of them is poisoned (R205). -/
def State.readLocated (s : State) (core : Nat) : List Loc → List Byte × Bool × State
  | [] => ([], false, s)
  | l :: ls =>
    match s.engineByte core l 0 with
    | .ok b t =>
      let (bs, p, u) := State.readLocated t core ls
      (b :: bs, p, u)
    | .fail _ _ _ t =>
      let (bs, _, u) := State.readLocated t core ls
      (0 :: bs, true, u)
    | .wait t =>
      let (bs, p, u) := State.readLocated t core ls
      (0 :: bs, p, u)

/-- The request that an operation with bytes of another package makes (R361, R362). -/
def State.remoteBytes (s : State) (o : MatrixOp) (ls : List Loc) (write : Bool) : Found Unit :=
  s.remoteAsk (2 ^ 20 + o.order) ls write o.addr

/-- An operation that starts leaves the queue and runs, with its outcome. -/
def State.runOp (s : State) (core : Nat) (o : MatrixOp) (poison : Bool) (fault : Option (Nat × Nat × Word)) : State :=
  s.modMatrix core (fun m =>
    { m with queue := m.queue.drop 1, running := some { o with poison := poison, fault := fault } })

/-- A tile that becomes undefined (R205). -/
def State.undefineTile (s : State) (core tile : Nat) : State :=
  let f := s.free
  { s.modMatrix core (fun m => { m with acc := m.acc.fillWith (tile * 2048) 2048 (fun k => BitVec.ofNat 32 (Config.freeNat f k)) })
    with free := f + 1 }

/-- A `macc.ld` that starts (R205): a fault of any of its pages ends it in error, and poison in any of its bytes, or a request to
another package that failed (R362), poisons its tile. -/
def State.startLoad (s0 : State) (core : Nat) (o : MatrixOp) : State :=
  let s := if s0.alive o.issuer o.caravan then s0.drainStores o.issuer o.path else s0
  let poisoned (t : State) : State :=
    ((t.undefineTile core o.tile).modMatrix core (fun m => m.setPoison o.tile true)).runOp core o true none
  match s.locateAll o.ctx .read (o.addresses.flatMap (fun a => [a, a + 1, a + 2, a + 3])) with
  | .wait t => t
  | .fail code cause addr t => (t.undefineTile core o.tile).runOp core o false (some (code, cause, addr))
  | .ok ls t =>
    match t.remoteBytes o ls false with
    | .wait u => u
    | .fail _ _ _ u => poisoned u
    | .ok _ u =>
      let (raw, bad, v0) := u.readLocated core ls
      let (bs, v) := v0.blurFreed o.block (o.addresses.flatMap (fun a => [a, a + 1, a + 2, a + 3])) raw
      let word (k : Nat) : BitVec 32 := BitVec.ofNat 32 (leNat ((bs.drop (4 * k)).take 4))
      if bad then poisoned v
      else
        (v.modMatrix core (fun m =>
          { m with acc := m.acc.fillWith (o.tile * 2048) 2048 word }.setPoison o.tile false)).runOp core o false none

/-- The bound checks of a `macc.st` (R59, R205): the core with the hit bits, and the values, or the number of the first
element that traps. -/
def checkElements (c : Core) (j : Nat) : List (BitVec 32) → Nat → Core × Except Nat (List (BitVec 32))
  | [], _ => (c, .ok [])
  | v :: vs, k =>
    let r := boundVerdict (Tab.getD c.bndv j 0) (Tab.getD c.bndc j 0) v
    let c1 := if r.1 then c.hitBound j else c
    match r.2 with
    | none => (c1, .error k)
    | some x =>
      match checkElements c1 j vs (k + 1) with
      | (c2, .ok xs) => (c2, .ok (x :: xs))
      | (c2, .error e) => (c2, .error e)

/-- Sectors written by a core marked poisoned at their homes, the core's stores to them pushed first (R205, R405). -/
def State.poisonSectors (s : State) (core : Nat) (ks : List Nat) : State :=
  ks.eraseDups.foldl (fun t k =>
    let u := t.releaseSectors core (64 * k) 64
    { u with poison := Tab.set u.poison k true }) s

/-- A `macc.st` that starts (R205): every element is checked before any is written. -/
def State.startStore (s : State) (core : Nat) (o : MatrixOp) : State :=
  let m := (s.core core).mat
  let vals := m.acc.readList (o.tile * 2048) 2048
  let addrs := o.addresses
  let (c, checked) := if o.stride.toNat / 2 ^ 36 % 2 = 1 then checkElements (s.core core) (o.stride.toNat / 2 ^ 32 % 16) vals 0
    else (s.core core, .ok vals)
  let s1 := s.setCore core c
  match checked with
  | .error k => s1.runOp core o false (some (codeBound, o.stride.toNat / 2 ^ 32 % 16, addrs.getD k 0))
  | .ok vs =>
    let bytes := addrs.flatMap (fun a => [a, a + 1, a + 2, a + 3])
    match s1.locateAll o.ctx .write bytes with
    | .wait t => t
    | .ok ls t =>
      let bad := m.tilePoisoned o.tile
      let store (t : State) : State :=
        let u := t.engineWrites o.issuer false (ls.zip (vs.flatMap (fun v => leBytes 4 v.toNat)))
        let sectors := (ls.filter (fun l => l.1 = .mem)).map (fun l => l.2 / 64)
        (if bad then u.poisonSectors core sectors else u).runOp core o bad none
      match t.remoteBytes o ls true with
      | .wait u => u
      | .fail _ _ _ u => store u
      | .ok _ u => store u
    | .fail code cause addr t =>
      -- bytes that can be reached may have been written, and are then undefined (R205)
      let f := t.free
      let u := (bytes.zipIdx).foldl (fun w (a, i) =>
        if Config.freeNat f (2 * i) % 2 = 0 then w
        else
          match w.locate o.ctx a .write with
          | .ok l w1 => w1.engineWrite o.issuer false l (BitVec.ofNat 8 (Config.freeNat f (2 * i + 1)))
          | _ => w) { t with free := f + 1 }
      u.runOp core o false (some (code, cause, addr))

/-- MATRIX_OP_START (R199 to R205): the head of a core's queue starts, when it can; an `mma` that waits for posts of an
abandoned group is aborted. -/
def execMatrixOpStart (core : Nat) (s : State) : Host.Outcome State Fault Refusal :=
  match (s.core core).mat.queue, (s.core core).mat.idle with
  | o :: _, true =>
    match s.ready core with
    | none =>
      if o.abort || s.lostPosts o core then
        let t := (s.spans o core).foldl (fun t k => t.modMatrix k (fun m => m.consume o)) s
        .next ((t.runOp core { o with abort := true } false (some (codePairAbort, 0, 0))).modMatrix core (fun m => m.countUp 4 1))
      else .next s
    | some _ =>
      match o.form with
      | .mma bitmap _ => if s.admitted core then .next (s.startMma core o bitmap) else .next s
      | .zero =>
        let clear (m : Matrix) : Matrix := { m with acc := m.acc.fillWith (o.tile * 2048) 2048 (fun _ => 0) }.setPoison o.tile false
        .next ((s.modMatrix core clear).runOp core o false none)
      | .load => .next (s.startLoad core o)
      | .store => .next (s.startStore core o)
  | _, _ => .next s

/-- MATRIX_OP_COMPLETE (R201, R202, R206, R207): the running operation of a core completes. A pair form is counted on the core
whose queue it stood in: R207 says 'of the core' and names neither of the two (DESIGN CHOICE, log entry 51). -/
def execMatrixOpComplete (core : Nat) (s : State) : Host.Outcome State Fault Refusal :=
  match (s.core core).mat.running with
  | none => .next s
  | some o =>
    let s1 := s.modMatrix core (fun m => { m with running := none }.countUp 0 1)
    let free (t : State) (k : Nat) : State :=
      t.modMatrix k (fun m => { m with slaved := if m.slaved = some core then none else m.slaved })
    let s2 := (s.spans o core).foldl free s1
    let s3 := s2.modBarrier o.block o.bar (fun b => b.complete false false o.poison o.abort)
    let done : MatrixOutcome := { order := o.order, poison := o.poison, fault := o.fault }
    if s3.alive o.issuer o.caravan then
      .next (s3.modCaravan o.issuer (fun c => { c with matrixOutcomes := c.matrixOutcomes ++ [done] }))
    else
      match o.fault, o.abort with
      | some (code, cause, addr), false => .next (s3.asyncFault o.ctx o.block (s3.tagOf o.issuer) code cause addr o.pc)
      | _, _ => .next s3

end Sys2Proof.Machine
end

