-- ==== Sys2Proof/Machine/Signals.lean ====
section
/-!
DEFINITION. What the front end does with memory (R337, R344, R346): reads as an acquire at system scope, writes at the
home, and signals.
-/

namespace Sys2Proof.Machine

/-- The key the front end's own accesses go by, which no caravan has. -/
def frontKey : Nat := 2 ^ 32

/-- The core number the front end's acquires go by: no core, so that only a release at package scope or wider reaches it. -/
def frontCore : Nat := 1000

/-- A byte read by the front end at its home, as an acquire at system scope (R260, R337): poison is a fault of the
command. A byte of a stack area is an undefined value (R51), and so is one of another package, whose memory is not here (R361). -/
def State.frontByte (s : State) (l : Loc) (va : Word) : Found Byte :=
  match l.1 with
  | .mem =>
    let t : State := s.pullFor frontCore 0 5 l.2 1
    if t.poisoned l.2 1 then .fail codePoison 0 va t else .ok (t.homeByte l.2) { t with free := t.free + 1 }
  | _ => .ok (BitVec.ofNat 8 (Config.freeNat s.free 0)) { s with free := s.free + 1 }

/-- The request that an access of the front end to another package makes (R361, R362), by the address it is for. -/
def State.frontAsk (s : State) (ls : List Loc) (write : Bool) (at_ : Word) : Found Unit :=
  match ls.find? Loc.isRemote with
  | some (.remote p, a) => s.remoteTurn (2 ^ 60 + remoteAddress p a) p a write at_
  | _ => .ok () s

/-- The bytes of a range as the front end reads them in a context, in ascending order. -/
def State.frontBytes (s : State) (ctx : Nat) (va : Word) : Nat → Found (List Byte)
  | 0 => .ok [] s
  | n + 1 =>
    match s.locate ctx va .read with
    | .fail c k a t => .fail c k a t
    | .wait t => .wait t
    | .ok l t =>
      match t.frontByte l va with
      | .fail c k a t => .fail c k a t
      | .wait t => .wait t
      | .ok b t =>
        match State.frontBytes t ctx (va + 1) n with
        | .ok bs t => .ok (b :: bs) t
        | r => r

/-- Bytes read by the front end in a context. -/
def State.frontRead (s : State) (ctx : Nat) (va : Word) (n : Nat) : Found (List Byte) :=
  match s.locateAll ctx .read (addresses va n) with
  | .fail c k a t => .fail c k a t
  | .wait t => .wait t
  | .ok ls t =>
    match t.frontAsk ls false va with
    | .fail c k a t => .fail c k a t
    | .wait t => .wait t
    | .ok _ t => t.frontBytes ctx va n

/-- A little-endian number read by the front end (R7). -/
def State.frontNat (s : State) (ctx : Nat) (va : Word) (n : Nat) : Found Nat :=
  match s.frontRead ctx va n with
  | .ok bs t => .ok (leNat bs) t
  | .fail c k a t => .fail c k a t
  | .wait t => .wait t

/-- Located bytes grouped into runs of consecutive memory. -/
def mergeRuns : List (Loc × Byte) → List (Loc × List Byte)
  | [] => []
  | (l, b) :: r =>
    match mergeRuns r with
    | [] => [(l, [b])]
    | (k, bs) :: q => if k.1 = l.1 ∧ k.2 = l.2 + 1 then (l, b :: bs) :: q else (l, [b]) :: (k, bs) :: q

/-- Bytes written at located places: memory at its home. -/
def State.homeWrites (s : State) (xs : List (Loc × Byte)) (plain : Bool) : State :=
  (mergeRuns xs).foldl (fun t r =>
    match r.1.1 with
    | .mem => (t.recallLines r.1.2 r.2.length).outsideStore r.1.2 r.2 plain
    | _ => (r.2.zipIdx).foldl (fun u (b, i) => u.engineWrite frontKey false (r.1.1, r.1.2 + i) b) t) s

/-- Bytes written by the front end in a context. -/
def State.frontWrite (s : State) (ctx : Nat) (va : Word) (bs : List Byte) (plain : Bool := true) : Found Unit :=
  match s.locateAll ctx .write (addresses va bs.length) with
  | .fail c k a t => .fail c k a t
  | .wait t => .wait t
  | .ok ls t =>
    match t.frontAsk ls true va with
    | .fail c k a t => .fail c k a t
    | .wait t => .wait t
    | .ok _ t => .ok () (t.homeWrites (ls.zip bs) plain)

/-! ### Signals -/

/-- A status of R337: its code, its detail and the launches dispatched. -/
structure Status where
  code : Nat
  detail : Nat
  launches : Nat
deriving DecidableEq, Repr, Inhabited

/-- COMPLETE. -/
def statusComplete : Nat := 0
/-- CANCELLED. -/
def statusCancelled : Nat := 1
/-- REJECTED. -/
def statusRejected : Nat := 2
/-- PROLOGUE_FAULT. -/
def statusPrologue : Nat := 3
/-- FAULTED. -/
def statusFaulted : Nat := 4
/-- INCOMPLETE. -/
def statusIncomplete : Nat := 5
/-- SEED_FAIL. -/
def statusSeedFail : Nat := 6
/-- LINK_ERROR. -/
def statusLinkError : Nat := 7
/-- BUSY. -/
def statusBusy : Nat := 8

/-- A status without launches. -/
def Status.of (code : Nat) (detail : Nat := 0) : Status := { code := code, detail := detail, launches := 0 }

/-- A status of REJECTED with a detail of R348. -/
def Status.rejected (detail : Nat) : Status := .of statusRejected detail

/-- The status word of a signal (R337). -/
def Status.image (x : Status) : Nat := x.code % 256 + 2 ^ 8 * (x.detail % 256) + 2 ^ 16 * (x.launches % 256)

/-- A value added to the count of a signal, as a release at system scope (R336, R337). -/
def State.addSignal (s : State) (ctx : Nat) (va : Word) (v : Nat) : Found Unit :=
  match s.frontNat ctx va 8 with
  | .fail c k a t => .fail c k a t
  | .wait t => .wait t
  | .ok old t => t.frontWrite ctx va (leBytes 8 ((old + v) % 2 ^ 64)) false

/-- The status of a command whose operand faulted (R337, R362): the fault code, or LINK_ERROR with the port of a remote
request that failed. -/
def faultStatus (s : State) (ctx : Nat) (code cause : Nat) (addr : Word) : Status :=
  if code = codePoison ∧ cause = 3 then
    .of statusLinkError (match s.walkServe ctx addr .read with
      | .leaf t _ => s.netin.loadPort (physical t addr)
      | _ => 0)
  else .of statusFaulted code

/-- An event completed on a signal (R337): word 1 is written, then 1 is added to word 0. A fault of the signal's address, poison in
its count too, goes to the fault log as a record of kind 1 before anything is written, with a `trappc` image of 0, since no
instruction stands behind it (DESIGN CHOICE, log entry 51); a signal address of 0 receives nothing. -/
def State.tellSignal (s : State) (ctx : Nat) (va : Word) (x : Status) : State :=
  if va = 0 then s
  else
    let failed (code cause : Nat) (addr : Word) (t : State) : State :=
      t.logFault ctx [recordWord code cause 1 0, 0, addr, 0, 0, 0, 0, 0]
    match s.locateAll ctx .write (addresses va 16) with
    | .fail c k a t => failed c k a t
    | .wait t => t
    | .ok ls t0 =>
      let asked : List Nat := ls.filterMap (fun l => match l.1 with
        | .remote p => some (2 ^ 60 + remoteAddress p l.2)
        | _ => none)
      let t := t0.modNetin (fun n => { n with outstanding := n.outstanding.filter (fun o => !asked.contains o.2.path) })
      match t.frontBytes ctx va 8 with
      | .fail c k a u => failed c k a u
      | .wait u => u
      | .ok bs u =>
        (u.homeWrites ((ls.drop 8).zip (leBytes 8 x.image)) true).homeWrites
          ((ls.take 8).zip (leBytes 8 ((leNat bs + 1) % 2 ^ 64))) false

/-- Whether a signal cannot be written yet, because the driver is to serve its page (R374) or another package has not answered
(R361): the state with the service asked for. -/
def State.signalWait (s : State) (ctx : Nat) (va : Word) : Option State :=
  if va = 0 then none
  else
    match s.locateAll ctx .write (addresses va 16) with
    | .wait t => some t
    | .fail _ _ _ _ => none
    | .ok ls t =>
      match t.frontAsk ls true va with
      | .wait u => some u
      | _ => none

end Sys2Proof.Machine
end

