-- ==== Sys2Proof/Machine/Records.lean ====
section
/-!
DEFINITION. Stage-graph records: node descriptors, record pools, and the record instructions (R308, R309, R312 to R322,
R324, R328).
-/

namespace Sys2Proof.Machine

/-! ### Descriptors -/

/-- A virtual address of 48 bits in a word, as the 64-bit address it names (R371). -/
def addr48 (w lo : Nat) : Word := (BitVec.ofNat 48 (w / 2 ^ lo)).signExtend 64

/-- Whether a bit of a word is one. -/
def flag (w i : Nat) : Bool := fld w i 1 = 1

/-- The mask of reserved fields given as (low bit, width). -/
def fieldMask (fs : List (Nat × Nat)) : Nat := (fs.map (fun f => (2 ^ f.2 - 1) * 2 ^ f.1)).sum

/-- A node descriptor (R309). -/
structure NodeInfo where
  pk : Packet
  die : Nat
  join : Bool
  prio : Nat
  pbase : Word
  lbase : Word
  slots : Nat
  timer : Nat
  group : Nat
  size : Nat
deriving DecidableEq, Repr, Inhabited

/-- The reserved fields of a node descriptor (R309). -/
def nodeReserved : Nat :=
  fieldMask [(504, 8), (422, 26), (362, 22), (304, 16), (240, 16), (58, 6), (52, 4)]

/-- The fields of a node descriptor (R309), with the graph base its blocks are given. -/
def nodeOf (w : Nat) (base : Word) : NodeInfo :=
  { pk :=
      { entry := addr48 w 0, det := false, paired := false, debug := flag w 421, preempt := flag w 419,
        phintReq := flag w 420, pool := flag w 418, lcodeBase := addr48 w 64, stack := fld w 112 16, params := base,
        glist := (addr48 w 448).toNat, gcount := fld w 496 8, prologue := 0, stackBase := addr48 w 256, gridX := 0,
        gridY := 0, gridZ := 0, caravans := fld w 384 5, regs8 := fld w 389 6, scratch := fld w 395 8,
        acc := fld w 403 7, ob := fld w 410 7, dune := flag w 417, reservedSet := Nat.land w nodeReserved ≠ 0 },
    die := fld w 56 2, join := flag w 51, prio := fld w 48 3, pbase := addr48 w 128, lbase := addr48 w 192,
    slots := fld w 176 16, timer := fld w 320 32, group := fld w 352 6 + 1, size := 16 * (fld w 358 4 + 1) }

/-- The header of a graph descriptor, or node `i` of it, as a number of 512 bits (R308). -/
def descWord (desc : List Byte) (at_ : Nat) : Nat := leNat ((desc.drop at_).take 64)

/-- The nodes of a stage graph (R308). -/
def graphNodes (desc : List Byte) : Nat := fld (descWord desc 0) 0 7

/-- Node `i` of a stage graph. -/
def graphNode (desc : List Byte) (i : Nat) : NodeInfo :=
  nodeOf (descWord desc (64 + 64 * i)) (addr48 (descWord desc 0) 64)

/-- The depth limit of a stage graph (R308). -/
def graphDepth (desc : List Byte) : Nat := fld (descWord desc 0) 8 5

/-! ### Pools -/

/-- The state of a slot of a pool. -/
def Node.slot (n : Node) (i : Nat) : RecordSlot :=
  Tab.getD n.pool i { state := .free, key := 0, depth := 0, count := 0, since := 0 }

/-- The lowest FREE slot of a pool (R312). -/
def Node.lowestFree (n : Node) (slots : Nat) : Option Nat := (List.range slots).find? (fun i => (n.slot i).state = .free)

/-- The slots of a pool in a state, in ascending order. -/
def Node.inState (n : Node) (st : SlotState) : List Nat := (n.pool.filter (fun p => p.2.state = st)).map Prod.fst

/-- The entry of a join key, unless its slot is FREE (R319). -/
def Node.entry (n : Node) (key : Nat) : Option Nat :=
  (n.pool.find? (fun p => p.2.state ≠ .free && p.2.key = key * 2 ^ 32)).map Prod.fst

/-- What an emit does at the pool's home slice. -/
inductive Emitted where
  | done (value : Nat) (s : State)
  | full
  | fault (code cause : Nat) (addr : Word)
  | wait (s : State)

/-- The payload of a record written to its slot at its home, in a context. -/
def State.writeSlot (s : State) (ctx : Nat) (d : NodeInfo) (slot payload : Nat) : Found Unit :=
  s.frontWrite ctx (d.pbase + BitVec.ofNat 64 (d.size * slot)) (leBytes d.size payload)

/-- A record committed (R312): its slot is PENDING, and the launcher of the serving die learns of it. -/
def State.commitRecord (s : State) (g i slot : Nat) (d : NodeInfo) (r : RecordSlot) : State :=
  let t := s.modNode g i (fun n =>
    { n with pool := Tab.set n.pool slot { r with state := .pending, since := (s.die d.die).cyc },
             commits := if d.join then n.commits else n.commits + 1 })
  t.modRun g (fun x => { x with committed := x.committed + 1 })

/-- The bursts of a path (2 × caravan key + path) that an emit of it covers and that have not committed (R87, R320). -/
def State.owedBy (s : State) (path : Nat) : List (Nat × Nat × Nat) :=
  match (s.caravan? (path / 2)).bind (fun c => (Tab.get? c.paths (path % 2)).map (fun x => (c.uid, x))) with
  | some (uid, x) => if x.laneq.isEmpty then [] else [(uid, path % 2, x.laneq.length)]
  | none => []

/-- An emit performed at the home slice of the pool of node `i` (R318, R319): `depth` is the depth of the record it makes, and
`owed` are the bursts it covers as a release. -/
def State.emit (s : State) (g ctx i : Nat) (d : NodeInfo) (target payload depth : Nat) (owed : List (Nat × Nat × Nat) := []) :
    Emitted :=
  match ((Tab.get? s.graphs g).bind (fun x => x.run)).bind (fun r => Tab.get? r.nodes i) with
  | none => .full
  | some n =>
    let key := fld target 32 32
    let old := if d.join then n.entry key else none
    match old.or (n.lowestFree d.slots) with
    | none => .full
    | some slot =>
      let r := n.slot slot
      if old.isSome && r.state ≠ .counting then .fault codeJoinUnderflow 0 0
      else
        match s.writeSlot ctx d slot payload with
        | .fail c k a _ => .fault c k a
        | .wait t => .wait t
        | .ok _ t =>
          if !d.join then
            .done 0 (t.commitRecord g i slot d { r with key := n.commits, depth := depth, count := 0, owed := owed })
          else
            let left := (if old.isSome then r.count else fld target 8 8) - 1
            let x : RecordSlot := { state := .counting, key := key * 2 ^ 32,
                                    depth := if old.isSome then max r.depth depth else depth, count := left, since := 0,
                                    owed := r.owed ++ owed }
            if left = 0 then .done 0 (t.commitRecord g i slot d x)
            else .done left (t.modNode g i (fun n => { n with pool := Tab.set n.pool slot x }))

/-- The depth that a record made by a waiting path has (R313). -/
def State.emitDepth (s : State) (path : Nat) : Nat :=
  match ((s.caravan? (path / 2)).bind (fun c => Tab.get? s.blocks c.block)).bind (fun b => b.record) with
  | some r => r.depth + 1
  | none => 0

/-- The waiters of a pool served in their order, while a slot is FREE or a waiting decrement finds its entry (R319, R324). -/
def State.serveNode (s : State) (g ctx i : Nat) (d : NodeInfo) : Nat → State
  | 0 => s
  | fuel + 1 =>
    match ((Tab.get? s.graphs g).bind (fun x => x.run)).bind (fun r => Tab.get? r.nodes i) with
    | none => s
    | some n =>
      let may (w : Emit) : Bool := (n.lowestFree d.slots).isSome || (d.join && (n.entry (fld w.target 32 32)).isSome)
      match n.waiters.find? may with
      | none => s
      | some w =>
        let leave (r : EmitResult) (t : State) : State := t.modNode g i (fun x =>
          { x with waiters := x.waiters.filter (fun v => v.path ≠ w.path), served := x.served ++ [(w.path, r)] })
        let s1 := s.releasePath (w.path / 2) (w.path % 2)
        match s1.emit g ctx i d w.target w.payload (s.emitDepth w.path) (s.owedBy w.path) with
        | .done v t => State.serveNode (leave (.done v) t) g ctx i d fuel
        | .fault c k a => State.serveNode (leave (.fault c k a) s) g ctx i d fuel
        | .full => s
        | .wait t => t

/-- The records that a block holds freed (R321, R328), and the waiters of their pool served. -/
def State.freeRecords (s : State) (bid : Nat) : State :=
  match (Tab.get? s.blocks bid).bind (fun b => b.record.map (fun r => (b, r))) with
  | none => s
  | some (b, r) =>
    match Tab.get? s.graphs r.graph with
    | none => s
    | some g =>
      let d := graphNode g.desc r.node
      let gone := (r.listAddr.toNat, 8 * r.count) :: r.held.map (fun k => ((d.pbase + BitVec.ofNat 64 (d.size * k)).toNat, d.size))
      if r.held = [] then s
      else
        let s1 := s.modNode r.graph r.node (fun n => { n with pool := n.pool.filter (fun p => !r.held.contains p.1) })
        let s2 := s1.modBlock bid (fun x => { x with record := some { r with held := [], freed := gone } })
        let w := match g.run.bind (fun x => Tab.get? x.nodes r.node) with
          | some n => n.waiters.length
          | none => 0
        s2.serveNode r.graph b.ctx r.node d w

/-! ### The record instructions -/

/-- The graph slot, the descriptor's bytes and the run that the block of the path in focus belongs to. -/
def myGraph : Act (RecordBlock × List Byte × GraphRun) := do
  let m ← me
  let s ← get
  match m.blk.record with
  | none => raise codeIllegal 5
  | some r =>
    match Tab.get? s.graphs r.graph with
    | none => raise codeIllegal 5
    | some g =>
      match g.run with
      | none => raise codeIllegal 5
      | some x => pure (r, g.desc, x)

/-- A record instruction in a block that no launcher started is ILLEGAL_OP (R316). -/
def checkGraph : Act Unit := do
  let _ ← myGraph
  pure ()

/-- The ILLEGAL_OP conditions of an emit (R317). -/
def checkEmit (sa sb : BitVec 6) (join : Bool) : Act Unit := do
  let (_, desc, _) ← myGraph
  let w := (← reg sb).toNat
  let t := fld w 0 6
  check (t < graphNodes desc) codeIllegal 4
  let d := graphNode desc t
  check (d.join = join) codeIllegal 5
  check (!(join && fld w 8 8 = 0)) codeIllegal 1
  check (1 ≤ sa.toNat && sa.toNat + d.size / 8 - 1 ≤ 60) codeIllegal 1

/-- The result of a path's emit that was served while it waited. -/
def takeServed (g t : Nat) : Act (Option EmitResult) := do
  let m ← me
  let (_, _, x) ← myGraph
  let id := m.key * 2 + m.p
  match (Tab.get? x.nodes t).bind (fun n => (n.served.find? (fun v => v.1 = id)).map Prod.snd) with
  | none => pure none
  | some r =>
    update (fun s => s.modNode g t (fun n => { n with served := n.served.filter (fun v => v.1 ≠ id) }))
    pure (some r)

/-- An emit (R317 to R320, R324): the result, or none for a pool without a FREE slot. It does not wait for the path's bursts (R87): a
block that takes the record starts after they have committed. -/
def emitRecord (sa sb : BitVec 6) (waits : Bool) : Act (Option Nat) := do
  let m ← me
  let (r, desc, x) ← myGraph
  let w := (← reg sb).toNat
  let t := fld w 0 6
  let d := graphNode desc t
  let id := m.key * 2 + m.p
  match ← takeServed r.graph t with
  | some (.done v) => pure (some v)
  | some (.fault c k a) => raise c k a
  | none =>
    if (match Tab.get? x.nodes t with
        | some n => n.waiters.any (fun v => v.path = id)
        | none => false) then stall .busy
    check (r.depth + 1 ≤ graphDepth desc) codeRecDepth 0
    memGate true
    update (fun s => s.releasePath m.key m.p)
    let payload := leNat ((List.range (d.size / 8)).flatMap (fun i => leBytes 8 (m.reg (sa.toNat + i)).toNat))
    match (← get).emit r.graph m.blk.ctx t d w payload (r.depth + 1) ((← get).owedBy id) with
    | .done v s => do
      set s
      pure (some v)
    | .fault c k a => raise c k a
    | .wait s => do
      set s
      stall .data
    | .full =>
      if waits then do
        update (fun s => s.modNode r.graph t (fun n =>
          { n with waiters := n.waiters ++ [{ path := id, target := w, payload := payload }] }))
        stall .busy
      else pure none

/-- `remit` (R318): 0, or 1 where the pool is full. -/
def execRemit (sd sa sb : BitVec 6) (s : State) : Host.Outcome State Fault Refusal :=
  scalarOp (.remit sd sa sb) (checkEmit sa sb false) (writes sd (do
    match ← emitRecord sa sb false with
    | some _ => pure 0
    | none =>
      let (r, _, _) ← myGraph
      update (fun s => s.modRun r.graph (fun x => { x with fulls := x.fulls + 1 }))
      pure 1)) s

/-- `remit.w` (R318, R324). -/
def execRemitW (sa sb : BitVec 6) (s : State) : Host.Outcome State Fault Refusal :=
  scalarOp (.remitW sa sb) (checkEmit sa sb false) (do
    let _ ← emitRecord sa sb true
    pure .seq) s

/-- `remitj` (R319): the count after the decrement. -/
def execRemitj (sd sa sb : BitVec 6) (s : State) : Host.Outcome State Fault Refusal :=
  scalarOp (.remitj sd sa sb) (checkEmit sa sb true) (writes sd (do
    let v ← emitRecord sa sb true
    pure (BitVec.ofNat 64 (v.getD 0)))) s

/-- `rdone` (R321): the accesses of the path are performed before the slots become FREE. -/
def execRdone (s : State) : Host.Outcome State Fault Refusal :=
  scalarOp .rdone checkGraph (do
    drain
    let m ← me
    update (fun s => (s.releasePath m.key m.p).freeRecords m.car.block)
    pure .seq) s

/-- The blocks of a node of a graph that are placed and not ended; a saved block counts (R328). -/
def State.nodeBlocks (s : State) (g : Nat) (i : Option Nat) : Nat :=
  let of (b : Block) : Bool := match b.record with
    | some r => r.graph = g && (match i with
        | some k => r.node = k
        | none => true)
    | none => false
  (s.blocks.filter (fun b => of b.2)).length + (s.saved.filter (fun b => of b.2.block)).length

/-- `gquery` (R322): the status word of a node. -/
def execGquery (sd n : BitVec 6) (s : State) : Host.Outcome State Fault Refusal :=
  scalarOp (.gquery sd n) checkGraph (writes sd (do
    let (r, desc, x) ← myGraph
    let s ← get
    if n.toNat ≥ graphNodes desc then pure 0
    else
      let nd := Tab.getD x.nodes n.toNat default
      let busy := (nd.pool.filter (fun p => p.2.state ≠ .free)).length
      pure (BitVec.ofNat 64 ((nd.inState .pending).length % 2 ^ 16 + 2 ^ 16 * (((graphNode desc n.toNat).slots - busy) % 2 ^ 16)
        + 2 ^ 32 * (s.nodeBlocks r.graph (some n.toNat) % 2 ^ 16) + 2 ^ 48 * (nd.waiters.length % 2 ^ 16))))) s

/-- `gcount` (R322). -/
def execGcount (sd k : BitVec 6) (s : State) : Host.Outcome State Fault Refusal :=
  scalarOp (.gcount sd k) checkGraph (writes sd (do
    let (r, _, x) ← myGraph
    let v := match k.toNat with
      | 0 => x.committed
      | 1 => x.blocks
      | 2 => x.partials
      | 3 => x.fulls
      | 4 => r.depth
      | _ => r.node
    pure (BitVec.ofNat 64 v))) s

end Sys2Proof.Machine
end

