-- ==== Sys2Proof/Machine/Dune.lean ====
section
/-!
DEFINITION. The dune instructions and the commands of a dune array's queue (R210 to R231).
-/

namespace Sys2Proof.Machine

/-! ### Issue -/

/-- The dune block of a core, with its number (R37). -/
def State.duneBlock (s : State) (core : Nat) : Option (Nat × Block) :=
  s.blocks.find? (fun b => b.2.pk.dune && b.2.halves.any (fun h => h.core = core))

/-- The caravans of a block that have not ended. -/
def State.members (s : State) (block : Nat) : List (Nat × Caravan) := s.caravans.filter (fun c => c.2.block = block)

/-- The context of the dune block of a core. -/
def State.duneCtx (s : State) (core : Nat) : Option Nat := (s.duneBlock core).map (fun b => b.2.ctx)

/-- Only a caravan of the dune block commands the array (R210). -/
def checkDune : Act Unit := do
  check (← me).blk.pk.dune codeDuneConfig 0

/-- The array of the core in focus. -/
def myDune : Act Dune := do
  let m ← me
  pure ((← get).core m.core).dune

/-- A DUNE_CONFIG breach found at issue (R215). -/
def checkConfig (ok : Bool) : Act Unit := check ok codeDuneConfig 1

/-- A command appended to the queue and counted on its barrier (R211). -/
def queueDune (form : DuneForm) (c : BitVec 4) : Act Flow := do
  let m ← me
  barrierRoom c.toNat
  memGate true
  if (← myDune).queue.length ≥ 8 then stall .busy
  countOn c.toNat
  let id ← freshUid
  let x : DuneCommand := { form := form, order := id, issuer := m.key, caravan := m.car.uid, bar := c.toNat, path := m.p,
                           bursts := m.path.laneq.length, pc := (m.trap 0 0 0).pc }
  update (fun s => (s.drainStores m.key m.p).modDune m.core (fun d => { d with queue := d.queue ++ [x] }))
  pure .seq

/-- A memory address operand of a dune command (R213). -/
def duneAddress (sa : BitVec 6) (n : Nat) : Act Word := do
  checkDune
  let va ← reg sa
  check (aligned va n) codeMisaligned 2 va
  pure va

/-- The order entries of a configuration record (R216). -/
def orderEntries (w : Nat) : List Nat := (List.range 8).map (fun p => fld w (8 + 3 * p) 3)

/-- The reserved bits of a configuration record as a mask (R216). -/
def configReserved : Nat :=
  (2 ^ 13 - 1) * 2 ^ 243 + (2 ^ 9 - 1) * 2 ^ 215 + (2 ^ 40 - 1) * 2 ^ 160 + (2 ^ 8 - 1) * 2 ^ 40 + 3 * 2 ^ 35
    + (2 ^ 6 - 1) * 2 ^ 2

/-- The configuration of a record (R216). -/
def configOf (w : Nat) : DuneConfig :=
  { replay := fld w 0 1 = 1, streamed := fld w 1 1 = 1, order := (orderEntries w).take (fld w 32 3 + 1),
    stale := fld w 37 3, beta := fld w 48 16, key := BitVec.ofNat 64 (w / 2 ^ 64), timeout := fld w 128 32,
    nbits := fld w 200 15, stateOff := fld w 224 19 }

/-- Whether a configuration record keeps the rules of R216, for a scratch claim in bytes. The record's table makes `state_off` a
multiple of 64, which the list of breaches does not repeat: a record that breaks it is a breach too (DESIGN CHOICE, log entry
51). -/
def configOk (w claim : Nat) : Bool :=
  let c := configOf w
  Nat.land w configReserved = 0 && c.order.eraseDups.length = c.order.length
    && ((orderEntries w).drop (fld w 32 3 + 1)).all (· = 0)
    && (if c.streamed then
          1024 ≤ c.nbits && c.nbits ≤ 16384 && c.nbits % 256 = 0 && c.stateOff % 64 = 0 && c.stateOff + c.nbits / 8 ≤ claim
        else c.nbits = 0 && c.stateOff = 0)

/-- `dcfg` (R216): the record is read and checked at issue; the issue view follows it (R212). -/
def execDcfg (sa : BitVec 6) (c : BitVec 4) (s : State) : Host.Outcome State Fault Refusal :=
  scalarOp (.dcfg sa c) (pure ()) (do
    let va ← duneAddress sa 32
    let w ← loadNat va 32
    let m ← me
    checkConfig (configOk w m.blk.scratchBytes)
    let k := configOf w
    let f ← queueDune (.config k) c
    update (fun s => s.modDune m.core (fun d =>
      { d with issueReplay := k.replay, issueStreamed := k.streamed, issueNbits := k.nbits }))
    pure f) s

/-- The first bit and the count of a range word (R218). -/
def rangeWord (w : Word) : Act (Nat × Nat) := do
  let f := fld w.toNat 0 10
  let c := fld w.toNat 10 11
  checkConfig (1 ≤ c && c ≤ 1024 && f + c ≤ 1024)
  pure (f, c)

/-- The array is in resident mode, in the issue view (R212). -/
def checkResident : Act Unit := do
  checkConfig (!(← myDune).issueStreamed)

/-- `dload` (R218). -/
def execDload (sa sb : BitVec 6) (c : BitVec 4) (s : State) : Host.Outcome State Fault Refusal :=
  scalarOp (.dload sa sb c) (pure ()) (do
    let va ← duneAddress sa 64
    let (f, n) ← rangeWord (← reg sb)
    checkResident
    queueDune (.load va f n) c) s

/-- `dload.pairs` (R219). -/
def execDloadPairs (sa : BitVec 6) (c : BitVec 4) (s : State) : Host.Outcome State Fault Refusal :=
  scalarOp (.dloadPairs sa c) (pure ()) (do queueDune (.pairs (← duneAddress sa 64)) c) s

/-- `dstream` (R220). -/
def execDstream (sa sb : BitVec 6) (c : BitVec 4) (s : State) : Host.Outcome State Fault Refusal :=
  scalarOp (.dstream sa sb c) (pure ()) (do
    let va ← duneAddress sa 64
    let fan := fld (← reg sb).toNat 0 9
    checkConfig ((← myDune).issueStreamed && 1 ≤ fan && fan ≤ 256)
    queueDune (.stream va fan) c) s

/-- `dbias` (R221). -/
def execDbias (sa sb : BitVec 6) (c : BitVec 4) (s : State) : Host.Outcome State Fault Refusal :=
  scalarOp (.dbias sa sb c) (pure ()) (do
    let va ← duneAddress sa 64
    let (f, n) ← rangeWord (← reg sb)
    checkResident
    queueDune (.bias va f n) c) s

/-- `dclamp` (R222). -/
def execDclamp (sa : BitVec 6) (c : BitVec 4) (s : State) : Host.Outcome State Fault Refusal :=
  scalarOp (.dclamp sa c) (pure ()) (do
    let va ← duneAddress sa 64
    checkResident
    queueDune (.clamp va) c) s

/-- `dinit` (R223). -/
def execDinit (sa : BitVec 6) (c : BitVec 4) (s : State) : Host.Outcome State Fault Refusal :=
  scalarOp (.dinit sa c) (pure ()) (do queueDune (.init (← duneAddress sa 64)) c) s

/-- A signed field of `n` bits. -/
def signedField (w lo n : Nat) : Int := (BitVec.ofNat n (w / 2 ^ lo)).toInt

/-- The core that a place field names from a core, where it lies in the package and its grid (R76). -/
def placeCore (core place : Nat) : Option Nat :=
  let dx : Int := (coreDie core % 2 : Nat) + signedField place 8 2
  let dy : Int := (coreDie core / 2 : Nat) + signedField place 10 2
  let x : Int := (coreX core : Nat) + signedField place 0 4
  let y : Int := (coreY core : Nat) + signedField place 4 4
  if 0 ≤ dx ∧ dx ≤ 1 ∧ 0 ≤ dy ∧ dy ≤ 1 ∧ 0 ≤ x ∧ x < 8 ∧ 0 ≤ y ∧ y < 6 then
    some (48 * (dx + 2 * dy).toNat + 8 * y.toNat + x.toNat)
  else none

/-- `dlink` (R224): a die offset of 0b10 is ILLEGAL_OP (R76). -/
def execDlink (sa : BitVec 6) (c : BitVec 4) (s : State) : Host.Outcome State Fault Refusal :=
  scalarOp (.dlink sa c) (do
    let place := fld (← reg sa).toNat 8 12
    check (fld place 8 2 ≠ 2 && fld place 10 2 ≠ 2) codeIllegal 1) (do
    checkDune
    let m ← me
    let w := (← reg sa).toNat
    let place := fld w 8 12
    match placeCore m.core place with
    | none => raise codeDuneConfig 3
    | some src =>
      check (place ≠ 0) codeDuneConfig 3
      queueDune (.link (fld w 34 1 = 1) (fld w 20 14) src (fld w 0 8)) c) s

/-- The health state of an array: 0 OK, 1 SUSPECT, 2 RETIRED (R412). -/
def State.healthOf (s : State) (core : Nat) : Nat :=
  match Tab.get? s.flash.health core with
  | some h => h.state
  | none => 0

/-- `dsweep` (R226): SUSPECT health faults a physical sweep, the lost flag any sweep. -/
def execDsweep (sa : BitVec 6) (c : BitVec 4) (s : State) : Host.Outcome State Fault Refusal :=
  scalarOp (.dsweep sa c) (pure ()) (do
    checkDune
    let m ← me
    let w := (← reg sa).toNat
    let n := fld w 0 32
    let b := fld w 32 16
    checkConfig (!(n = 0 && b = 0))
    let d ← myDune
    check (d.issueReplay || (← get).healthOf m.core ≠ 1) codeDuneBias 0
    check (!d.lost) codeHorizonLost 0
    queueDune (.sweep n b (fld w 48 1 = 1)) c) s

/-- `dread` (R228). -/
def execDread (sa k : BitVec 6) (c : BitVec 4) (s : State) : Host.Outcome State Fault Refusal :=
  scalarOp (.dread sa k c) (pure ()) (do queueDune (.read (← duneAddress sa 64) k.toNat) c) s

/-- `dclr` (R229). -/
def execDclr (k : BitVec 6) (c : BitVec 4) (s : State) : Host.Outcome State Fault Refusal :=
  scalarOp (.dclr k c) (pure ()) (do
    checkDune
    queueDune (.clear k.toNat) c) s

/-- The array status word (R230). -/
def Dune.status (d : Dune) (health : Nat) : Word :=
  BitVec.ofNat 64 (health % 4 + 4 * d.config.replay.toNat + 8 * d.config.streamed.toNat + 2 ^ 7 * d.lost.toNat
    + 2 ^ 24 * (d.phase % 8) + 2 ^ 32 * (d.sweeps % 2 ^ 32))

/-- An empty witness window. -/
def Witness.blank : Witness := { ones := 0, agree := 0, last := false, closedOnes := 0, closedAgree := 0 }

/-- What `dmon` reads (R230). -/
def monitorWord (k : Nat) : Act Word := do
  checkDune
  let m ← me
  let s ← get
  let d := (s.core m.core).dune
  if k = 0 then pure (d.status (s.healthOf m.core))
  else
    let w := Tab.getD d.witness (k - 1) Witness.blank
    pure (BitVec.ofNat 64 (w.closedOnes + 2 ^ 32 * w.closedAgree))

/-- `dmon` (R230): at once, without the queue. -/
def execDmon (sd k : BitVec 6) (s : State) : Host.Outcome State Fault Refusal :=
  scalarOp (.dmon sd k) (pure ()) (writes sd (monitorWord k.toNat)) s

/-- `dmon.clr` (R230): the same value, and the lost flag is cleared. -/
def execDmonClr (sd k : BitVec 6) (s : State) : Host.Outcome State Fault Refusal :=
  scalarOp (.dmonClr sd k) (pure ()) (writes sd (do
    let v ← monitorWord k.toNat
    let m ← me
    update (fun s => s.modDune m.core (fun d => { d with lost := false }))
    pure v)) s

/-! ### Commands -/

/-- How a command of the queue ended: its effect was made, it failed with a fault and the undefined items left behind, or
it waits for the driver. -/
inductive Ran where
  | ok (s : State)
  | fail (code cause : Nat) (addr : Word) (s : State)
  | wait (s : State)

/-- The number under which the head command of a core's queue asks another package. -/
def State.duneAgent (s : State) (core : Nat) : Nat :=
  2 ^ 20 + match (s.core core).dune.queue with
    | c :: _ => c.order
    | [] => 0

/-- Bytes read for a command, and what it does with them; a fault makes the items it would have written undefined. -/
def State.duneRead (s : State) (core ctx : Nat) (va : Word) (n : Nat) (lost : State → State) (go : State → List Byte → Ran) :
    Ran :=
  let bytes (t : State) : Ran :=
    match t.engineRead core ctx va n with
    | .ok bs t =>
      let (xs, u) := t.blurFreed (((t.duneBlock core).map Prod.fst).getD 0) (addresses va n) bs
      go u xs
    | .fail c k a t => .fail c k a (lost t)
    | .wait t => .wait t
  match s.locateAll ctx .read (addresses va n) with
  | .wait t => .wait t
  | .fail c k a t => .fail c k a (lost t)
  | .ok ls t =>
    match t.remoteAsk (t.duneAgent core) ls false va with
    | .wait t => .wait t
    | .fail c k a t => .fail c k a (lost t)
    | .ok _ t => bytes t

/-- The 32-bit words of bytes. -/
def words32 (bs : List Byte) : List Nat :=
  (List.range (bs.length / 4)).map (fun i => leNat ((bs.drop (4 * i)).take 4))

/-- Whether a coupling entry of a row is well formed (R218): for the row of a bit, in an array of `bits`. -/
def couplingOk (bits row w : Nat) : Bool :=
  let idx := fld w 0 16
  fld w 24 8 = 0 && (idx = 0xffff || (0x8000 ≤ idx && idx ≤ 0x80ff) || (idx ≤ 0x3fff && idx < bits && idx ≠ row))

/-- Entries of a table from `k` up set from a list. -/
def Tab.setList {α : Type} (t : Tab α) (k : Nat) : List α → Tab α
  | [] => t
  | v :: r => Tab.setList (Tab.set t k v) (k + 1) r

/-- Coupling rows left undefined (R214). -/
def State.loseRows (s : State) (core first count : Nat) : State :=
  let f := s.free
  let vs := (List.range (32 * count)).map (fun k => BitVec.ofNat 32 (Config.freeNat f k))
  { s.modDune core (fun d => { d with couplings := Tab.setList d.couplings (32 * first) vs }) with free := f + 1 }

/-- `dload` carried out (R218): rows after the first failing one are not written. -/
def State.runLoad (s : State) (core ctx : Nat) (va : Word) (first count : Nat) : Ran :=
  s.duneRead core ctx va (128 * count) (fun t => t.loseRows core first count) (fun t bs =>
    let ws := words32 bs
    let bad := (List.range count).find? (fun r => !(((ws.drop (32 * r)).take 32).all (couplingOk 1024 (first + r))))
    match bad with
    | some r => .fail codeDuneConfig 2 (va + BitVec.ofNat 64 (128 * r)) (t.loseRows core first (r + 1))
    | none => .ok (t.modDune core (fun d =>
        { d with couplings := Tab.setList d.couplings (32 * first) (ws.map (BitVec.ofNat 32)) })))

/-- `dload.pairs` carried out (R219). -/
def State.runPairs (s : State) (core ctx : Nat) (va : Word) : Ran :=
  let lost (t : State) : State :=
    let f := t.free
    let ps := (List.range 256).map (fun k => BitVec.ofNat 32 (Config.freeNat f k))
    let cs := (List.range 256).map (fun k => Config.freeNat f (256 + k) % 2 ^ 32)
    { t.modDune core (fun d => { d with pairs := Tab.setList [] 0 ps, pairCounts := Tab.setList [] 0 cs }) with free := f + 1 }
  s.duneRead core ctx va 1024 lost (fun t bs =>
    let ws := words32 bs
    let ok (w : Nat) : Bool := fld w 30 1 = 0 && fld w 14 2 = 0 && (fld w 31 1 = 0 || (fld w 0 14 < 1024 && fld w 16 14 < 1024))
    match (List.range 256).find? (fun q => !(ok (ws.getD q 0))) with
    | some q => .fail codeDuneConfig 2 (va + BitVec.ofNat 64 (4 * q)) (lost t)
    | none => .ok (t.modDune core (fun d =>
        { d with pairs := Tab.setList [] 0 (ws.map (BitVec.ofNat 32)), pairCounts := [] })))

/-- `dbias` carried out (R221). -/
def State.runBias (s : State) (core ctx : Nat) (va : Word) (first count : Nat) : Ran :=
  let write (t : State) (ws : List Nat) : State := t.modDune core (fun d =>
    { d with bias := Tab.setList d.bias first (ws.map (fun w => BitVec.ofNat 16 w)),
             colours := Tab.setList d.colours first (ws.map (fun w => fld w 16 3)) })
  let lost (t : State) : State :=
    { write t ((List.range count).map (fun k => Config.freeNat t.free k)) with free := t.free + 1 }
  s.duneRead core ctx va (4 * count) lost (fun t bs =>
    let ws := words32 bs
    match (List.range count).find? (fun i => fld (ws.getD i 0) 19 13 ≠ 0) with
    | some i => .fail codeDuneConfig 2 (va + BitVec.ofNat 64 (4 * i)) (lost t)
    | none => .ok (write t ws))

/-- The states of an array after a new clamp image: clamped bits take their values at once (R222). -/
def Dune.applyClamps (d : Dune) : Dune :=
  let bits := (List.range 1024).filter (fun i => d.clampMask.toNat / 2 ^ i % 2 = 1)
  { d with states := bits.foldl (fun t i => t.write i (BitVec.ofNat 1 (d.clampVal.toNat / 2 ^ i))) d.states }

/-- `dclamp` carried out (R222). -/
def State.runClamp (s : State) (core ctx : Nat) (va : Word) : Ran :=
  let write (t : State) (mask val : Nat) : State :=
    t.modDune core (fun d => { d with clampMask := BitVec.ofNat 1024 mask, clampVal := BitVec.ofNat 1024 val }.applyClamps)
  s.duneRead core ctx va 256
    (fun t => { write t (Config.freeNat t.free 0) (Config.freeNat t.free 1) with free := t.free + 1 })
    (fun t bs => .ok (write t (leNat (bs.take 128)) (leNat (bs.drop 128))))

/-- A half of a block on a core. -/
def State.halfOn (s : State) (core : Nat) : Option (Nat × Nat) :=
  (s.duneBlock core).bind (fun b => (b.2.halves.findIdx? (fun h => h.core = core)).map (fun i => (b.1, i)))

/-- Bits in an array: 1,024, or the logical bits of streamed mode (R216). -/
def DuneConfig.bits (c : DuneConfig) : Nat := if c.streamed then c.nbits else 1024

/-- The states of an array in ascending bit order: in the array, or in the scratchpad (R217, R223). -/
def State.duneStates (s : State) (core : Nat) : List Bool :=
  let d := (s.core core).dune
  if d.config.streamed then
    match (s.halfOn core).bind (fun p => (Tab.get? s.blocks p.1).bind (fun b => b.half? p.2)) with
    | none => []
    | some h => (List.range d.config.nbits).map (fun i => (h.scratch.read (d.config.stateOff + i / 8)).toNat / 2 ^ (i % 8) % 2 = 1)
  else (List.range 1024).map (fun i => d.states.read i = 1)

/-- The bytes of states, bit i mod 8 of byte floor(i / 8) (R222). -/
def stateBytes (ms : List Bool) : List Byte :=
  (List.range (ms.length / 8)).map (fun k =>
    BitVec.ofNat 8 ((List.range 8).foldl (fun n j => n + (ms.getD (8 * k + j) false).toNat * 2 ^ j) 0))

/-- The states of an array set. -/
def State.setDuneStates (s : State) (core : Nat) (ms : List Bool) : State :=
  let d := (s.core core).dune
  if d.config.streamed then
    match s.halfOn core with
    | none => s
    | some (b, h) => s.modHalf b h (fun x => { x with scratch := x.scratch.writeList d.config.stateOff (stateBytes ms) })
  else s.modDune core (fun d => { d with states := d.states.writeList 0 (ms.map (fun v => (if v then 1 else 0 : BitVec 1))) })

/-- A horizon entry with only version 0, the value −1 (R280). -/
def HorizonEntry.discard (h : HorizonEntry) : HorizonEntry := { h with versions := [(0, (0, false))] }

/-- A reset sent to every subscriber of the dune block's context (R225, R280). -/
def State.sendResets (s : State) (core ctx : Nat) : State :=
  let to_ := (s.core core).dune.publish.filter (fun p => p.ctx = ctx)
  let note (p : Subscription) : HorizonMessage :=
    { source := core, core := p.core, block := p.block, entry := p.entry, reset := true, version := 0, value := false }
  { s with horizonMsgs := s.horizonMsgs ++ to_.map note }

/-- The progress and the horizon versions of an array that a failed `dinit` would have written hold undefined values (R214). -/
def Dune.loseProgress (d : Dune) (f : Nat) : Dune :=
  let slot (h k : Nat) : Option (Nat × (Nat × Bool)) :=
    let v := Config.freeNat f (2 ^ 20 + 8 * h + k)
    if v % 2 = 0 then none else some (k, (8 * (v / 4 % 2 ^ 29) + k, v / 2 % 2 = 1))
  { d with sweeps := Config.freeNat f (2 ^ 20 + 4096) % 2 ^ 32, phase := Config.freeNat f (2 ^ 20 + 4097) % 8,
           publication := if Config.freeNat f (2 ^ 20 + 4098) % 2 = 0 then none else d.publication,
           horizon := d.horizon.map (fun h => (h.1, { h.2 with versions := (List.range 8).filterMap (slot h.1) })) }

/-- `dinit` carried out (R223): the states, the progress counts, the versions, and the resets of R280. -/
def State.runInit (s : State) (core ctx : Nat) (va : Word) : Ran :=
  let d := (s.core core).dune
  let n := d.config.bits / 8
  let restart (t : State) : State :=
    (t.modDune core (fun d =>
      { d with sweeps := 0, phase := 0, publication := none, waitCount := 0,
               horizon := d.horizon.map (fun h => (h.1, h.2.discard)) })).sendResets core ctx
  let put (t : State) (bs : List Byte) : State :=
    let u := t.setDuneStates core ((List.range (8 * n)).map (fun i => (bs.getD (i / 8) 0).toNat / 2 ^ (i % 8) % 2 = 1))
    if d.config.streamed then u else u.modDune core Dune.applyClamps
  let lost (t : State) : State :=
    let u := (put t ((List.range n).map (fun k => (BitVec.ofNat 8 (Config.freeNat t.free k) : Byte)))).modDune core
      (fun d => d.loseProgress t.free)
    { u with free := t.free + 1 }
  s.duneRead core ctx va n lost (fun t bs => .ok (restart (put t bs)))

/-- The number of the dune block of a core, 0 without one. -/
def State.duneBlockId (s : State) (core : Nat) : Nat := ((s.duneBlock core).map Prod.fst).getD 0

/-- A horizon entry of the array on a core unlinked: its subscription and its messages in flight end (R225), not those of the same
entry of a block that is saved. -/
def State.unlink (s : State) (core entry : Nat) : State :=
  match Tab.get? (s.core core).dune.horizon entry with
  | none => s
  | some h =>
    let b := s.duneBlockId core
    let s1 := s.modDune core (fun d => { d with horizon := Tab.erase d.horizon entry })
    let s2 := s1.modDune h.source (fun d =>
      { d with publish := d.publish.filter (fun p => !(p.core = core && p.block = b && p.entry = entry)) })
    { s2 with horizonMsgs := s2.horizonMsgs.filter (fun m => !(m.core = core && m.block = b && m.entry = entry)) }

/-- `dlink` carried out (R225). -/
def State.runLink (s0 : State) (core ctx : Nat) (valid : Bool) (bit src entry : Nat) : Ran :=
  let s := s0.unlink core entry
  if ¬ valid then .ok s
  else
    let other : Bool := match s.duneCtx src with
      | some c => c ≠ ctx
      | none => false
    if other || (s.core src).dune.publish.length ≥ 256 then .fail codeDuneConfig 2 0 s
    else
      let s1 := s.modDune core (fun d =>
        { d with horizon := Tab.set d.horizon entry { source := src, bit := bit, versions := [(0, (0, false))] } })
      let p : Subscription := { core := core, block := s.duneBlockId core, entry := entry, bit := bit, ctx := ctx }
      .ok (s1.modDune src (fun d => { d with publish := d.publish ++ [p] }))

/-- `dread` carried out (R228). -/
def State.runRead (s : State) (core ctx key : Nat) (va : Word) (sel : Nat) : Ran :=
  let d := (s.core core).dune
  let bytes : List Byte :=
    match sel with
    | 0 => stateBytes (s.duneStates core)
    | 1 => (List.range 1024).flatMap (fun i => leBytes 4 (Tab.getD d.counts i 0))
    | _ => (List.range 256).flatMap (fun q => leBytes 4 (Tab.getD d.pairCounts q 0))
  match s.locateAll ctx .write (addresses va bytes.length) with
  | .ok ls t =>
    match t.remoteAsk (t.duneAgent core) ls true va with
    | .ok _ t => .ok (t.engineWrites key false (ls.zip bytes))
    | .wait t => .wait t
    | .fail c k a t => .fail c k a t
  | .wait t => .wait t
  | .fail c k a t => .fail c k a t

/-- A snapshot of the counters (R285). -/
def Dune.snapshot (d : Dune) : Dune := { d with snapCounts := d.counts, snapPairs := d.pairCounts }

/-- `dclr` carried out (R229, R285). -/
def Dune.clear (d : Dune) (mask : Nat) : Dune :=
  { d with counts := if mask % 2 = 1 then [] else d.counts, pairCounts := if mask / 2 % 2 = 1 then [] else d.pairCounts }.snapshot

/-- An empty partial window: the counts of the last closed window stay (R284). -/
def Witness.restart (w : Witness) : Witness := { w with ones := 0, agree := 0, last := false }

/-- `dcfg` carried out (R216, R217, R284): the states are undefined where the layout changes; a change of mode discards
the partial window. -/
def State.runConfig (s : State) (core : Nat) (c : DuneConfig) : State :=
  let old := (s.core core).dune.config
  let t := s.modDune core (fun d =>
    if c.replay = old.replay then { d with config := c }
    else { d with config := c, samples := 0, testPhases := 0, testDue := false,
                  witness := d.witness.map (fun w => (w.1, w.2.restart)) })
  if c.streamed = old.streamed ∧ c.nbits = old.nbits ∧ c.stateOff = old.stateOff then t
  else
    { t.setDuneStates core ((List.range c.bits).map (fun i => Config.freeNat t.free i % 2 = 1)) with free := t.free + 1 }

/-- A command of the queue other than a sweep carried out whole (R211). -/
def State.runDune (s : State) (core ctx : Nat) (c : DuneCommand) : Ran :=
  match c.form with
  | .config k => .ok (s.runConfig core k)
  | .load va f n => s.runLoad core ctx va f n
  | .pairs va => s.runPairs core ctx va
  | .stream va fan => .ok (s.modDune core (fun d => { d with rowBase := va, fan := fan }))
  | .bias va f n => s.runBias core ctx va f n
  | .clamp va => s.runClamp core ctx va
  | .init va => s.runInit core ctx va
  | .link valid bit src entry => s.runLink core ctx valid bit src entry
  | .sweep _ _ _ => .ok s
  | .read va sel => s.runRead core ctx c.issuer va sel
  | .clear mask => .ok (s.modDune core (fun d => d.clear mask))

/-- The head command leaves the queue: its barrier is decremented with the status bits it accrues, and its fault is
pending for its issuer (R56, R211, R214). -/
def State.retireDune (s : State) (core : Nat) (c : DuneCommand) (bias horizon : Bool) (fault : Option (Nat × Nat × Word)) :
    State :=
  match s.duneBlock core with
  | none => s.modDune core (fun d => { d with queue := d.queue.drop 1, sweep := none })
  | some (bid, b) =>
    let poison : Bool := match fault with
      | some f => f.1 = codePoison
      | none => false
    let s1 := (s.modDune core (fun d => { d with queue := d.queue.drop 1, sweep := none })).modBarrier bid c.bar
      (fun x => x.complete bias horizon poison false)
    match fault with
    | none => s1
    | some (code, cause, addr) =>
      s1.commandFault b.ctx bid c.issuer c.caravan
        { barrier := c.bar, order := c.order, code := code, cause := cause, addr := addr, pc := c.pc }

/-- The sweeps of a `dsweep` that are all done (R226). -/
def DuneForm.sweepTotal : DuneForm → Option Nat
  | .sweep n b _ => some (n + b)
  | _ => none

/-- DUNE_COMMAND_COMPLETE (R211, R214, R227): the head of a core's dune queue is carried out and completes; a sweep
completes when its last sweep is done or it has come to one of its other endings. -/
def execDuneCommandComplete (core : Nat) (s : State) : Host.Outcome State Fault Refusal :=
  match (s.core core).dune.queue with
  | [] => .next s
  | c :: _ =>
    if c.bursts > 0 then .next s
    else
      match c.form.sweepTotal with
      | some total =>
        match (s.core core).dune.sweep with
        | none => .next s
        | some w =>
          match w.ending with
          | .bias => .next (s.retireDune core c true false none)
          | .horizon => .next (s.retireDune core c false true none)
          | .error code cause addr => .next (s.retireDune core c false false (some (code, cause, addr)))
          | .running => if w.done ≥ total then .next (s.retireDune core c false false none) else .next s
      | none =>
        match s.runDune core ((s.duneCtx core).getD 0) c with
        | .wait t => .next t
        | .ok t => .next (t.retireDune core c false false none)
        | .fail code cause addr t => .next (t.retireDune core c false false (some (code, cause, addr)))

end Sys2Proof.Machine
end

