-- ==== Sys2Proof/Machine/Sampling.lean ====
section
/-!
DEFINITION. Sampling runs on dune arrays (R226, R227, R274 to R287): colour phases, horizon exchange, witness windows, the
generator's self-test, calibration.
-/

namespace Sys2Proof.Machine

/-! ### Rows and updates -/

/-- What a phase knows of a bit: its bias, colour, clamp and couplings (R218, R220 to R222). -/
structure BitRow where
  h : Int
  colour : Nat
  clamped : Bool
  clampVal : Bool
  couplings : List (Int × Nat)

/-- A coupling entry's weight and index (R218). -/
def couplingOf (w : Nat) : Int × Nat := ((BitVec.ofNat 8 (w / 2 ^ 16)).toInt, w % 2 ^ 16)

/-- The row of a bit in resident mode. -/
def Dune.residentRow (d : Dune) (i : Nat) : BitRow :=
  { h := (Tab.getD d.bias i 0).toInt, colour := Tab.getD d.colours i 0,
    clamped := d.clampMask.toNat / 2 ^ i % 2 = 1, clampVal := d.clampVal.toNat / 2 ^ i % 2 = 1,
    couplings := (List.range 32).map (fun e => couplingOf (Tab.getD d.couplings (32 * i + e) 0).toNat) }

/-- The row of a bit in streamed mode, of fan-in `fan` (R220). -/
def streamedRow (fan w : Nat) : BitRow :=
  { h := (BitVec.ofNat 16 w).toInt, colour := fld w 16 3, clamped := fld w 19 1 = 1, clampVal := fld w 20 1 = 1,
    couplings := (List.range fan).map (fun e => couplingOf (fld w (32 + 32 * e) 32)) }

/-- The rows of an array: its own, or those a streamed phase has read. -/
def Dune.bitRows (d : Dune) (rows : List Nat) : List BitRow :=
  if d.config.streamed then rows.map (streamedRow d.fan) else (List.range 1024).map d.residentRow

/-- The bits that a phase updates: those of its colour that are not clamped (R274). -/
def updatedBits (rs : List BitRow) (colour : Nat) : List Nat :=
  ((rs.zipIdx).filter (fun r => r.1.colour = colour && !r.1.clamped)).map Prod.snd

/-- The bits that no phase of a sweep updates (R279). -/
def restingBits (rs : List BitRow) (order : List Nat) : List Nat :=
  ((rs.zipIdx).filter (fun r => r.1.clamped || !order.contains r.1.colour)).map Prod.snd

/-- The horizon entries that bits read. -/
def entriesRead (rs : List BitRow) (bits : List Nat) : List Nat :=
  (bits.flatMap (fun i => match rs[i]? with
    | some r => (r.couplings.filter (fun c => c.2 / 2 ^ 15 = 1 && c.2 ≠ 0xffff)).map (fun c => c.2 - 2 ^ 15)
    | none => [])).eraseDups

/-- A state or a horizon value as a number. -/
def spin (v : Bool) : Int := if v then 1 else -1

/-- The probability P of a bit, times 65,536 (R274): the exact sum, clamped once. -/
def BitRow.probability (r : BitRow) (beta : Nat) (start : List Bool) (hval : Tab Bool) : Nat :=
  let term (c : Int × Nat) : Int :=
    if c.2 ≤ 0x3fff then c.1 * spin (start.getD c.2 false)
    else if c.2 ≠ 0xffff then c.1 * spin (Tab.getD hval (c.2 - 2 ^ 15) false)
    else 0
  let i : Int := (satS 16 (r.h + (r.couplings.map term).sum)).toInt
  sigmoid (min (max ((i * beta) >>> 6) (-512)) 511)

/-- The new state of a bit (R274): the comparison with `dune_u` in replay mode, which a failing generator gives any value (R286),
with a noise sample in physical mode. -/
def Dune.newState (d : Dune) (draws i p : Nat) : Bool :=
  (if !d.config.replay then Config.physicalDraw draws i % 65536
   else if d.broken then Config.freeNat draws i % 65536
   else duneU d.config.key i d.phase d.sweeps) < p

/-- The states after a phase (R274, R276): the updated bits; a clamped streamed bit takes its value in phase 0. -/
def Dune.afterPhase (d : Dune) (rs : List BitRow) (start : List Bool) (hval : Tab Bool) (draws : Nat) : List Bool :=
  let colour := d.config.order.getD d.phase 8
  start.mapIdx (fun i v => match rs[i]? with
    | none => v
    | some r =>
      if r.clamped then (if d.config.streamed && d.phase = 0 then r.clampVal else v)
      else if r.colour = colour then d.newState draws i (r.probability d.config.beta start hval)
      else v)

/-! ### Horizon versions -/

/-- The value that a phase reads of an entry, where it holds an acceptable version (R281). -/
def HorizonEntry.value (h : HorizonEntry) (replay : Bool) (r : Nat) : Option Bool :=
  if replay then
    match Tab.get? h.versions (r % 8) with
    | some v => if v.1 = r then some v.2 else none
    | none => none
  else
    (h.versions.foldl (fun (best : Option (Nat × Bool)) v =>
      if v.2.1 < r then best
      else match best with
        | none => some v.2
        | some b => if b.1 < v.2.1 then some v.2 else some b) none).map Prod.snd

/-- A publication put into its slot, unless the slot holds a higher version (R280). -/
def HorizonEntry.put (h : HorizonEntry) (version : Nat) (value : Bool) : HorizonEntry :=
  match Tab.get? h.versions (version % 8) with
  | some v => if v.1 > version then h else { h with versions := Tab.set h.versions (version % 8) (version, value) }
  | none => { h with versions := Tab.set h.versions (version % 8) (version, value) }

/-- The array of a block that holds a linked entry of a core: on the core, or in the save of the block (R391). -/
def State.subscriber (s : State) (core block entry source : Nat) : Option (Bool × Dune) :=
  let links (d : Dune) : Bool := match Tab.get? d.horizon entry with
    | some h => h.source = source
    | none => false
  if (s.duneBlock core).map Prod.fst = some block then
    if links (s.core core).dune then some (true, (s.core core).dune) else none
  else
    ((Tab.get? s.saved block).bind (fun b => Tab.get? b.dunes core)).bind (fun d => if links d then some (false, d) else none)

/-- The array of a block that holds a linked entry changed. -/
def State.modSubscriber (s : State) (core block entry source : Nat) (f : Dune → Dune) : State :=
  match s.subscriber core block entry source with
  | none => s
  | some (true, _) => s.modDune core f
  | some (false, d) => { s with saved := Tab.modify s.saved block (fun x => { x with dunes := Tab.set x.dunes core (f d) }) }

/-- The newest sweep that an array has begun, −1 before the first (R282). -/
def Dune.begun (d : Dune) : Int :=
  let running : Bool := d.phase > 0 || d.publication.isSome || (match d.sweep with
    | some w => w.inPhase
    | none => false)
  if running then d.sweeps else (d.sweeps : Int) - 1

/-- Whether the hold of R282 lets a version be published to a subscription. -/
def State.mayPublish (s : State) (core version : Nat) (p : Subscription) : Bool :=
  match s.subscriber p.core p.block p.entry core with
  | none => true
  | some (_, d) => !d.config.replay || (version : Int) + d.config.stale - 7 ≤ d.begun

/-! ### The course of a sweep -/

/-- Whether the block of a dune array is being saved: it has caravans, and every one of them stands at its save point (R226,
R387). A block whose caravans have all ended is not saved: its commands run on to its end (R241). -/
def State.duneSaving (s : State) (core : Nat) : Bool :=
  match s.duneBlock core with
  | none => false
  | some (id, _) => !(s.members id).isEmpty && (s.members id).all (fun c => c.2.savePoint.isSome)

/-- The `dsweep` at the head of a queue, with the sweep that runs: one that begins in physical mode with health SUSPECT, or
with the lost flag set, ends at once (R212). -/
def State.sweepOf (s : State) (core : Nat) : Option (DuneCommand × Sweep) :=
  let d := (s.core core).dune
  match d.queue with
  | [] => none
  | c :: _ =>
    if c.bursts > 0 || c.form.sweepTotal.isNone then none
    else
      match d.sweep with
      | some w => some (c, w)
      | none =>
        let ending : SweepEnd :=
          if !d.config.replay && s.healthOf core = 1 then .bias else if d.lost then .horizon else .running
        some (c, { done := 0, inPhase := false, waiting := false, hvals := [], rows := [], ending := ending })

/-- The running sweep of an array set. -/
def State.setSweep (s : State) (core : Nat) (w : Sweep) : State := s.modDune core (fun d => { d with sweep := some w })

/-- Whether the timeout of a horizon wait has been reached (R283): the sweep is to end. -/
def Dune.timedOut (d : Dune) (w : Sweep) : Bool := w.waiting && d.config.timeout ≠ 0 && d.waitCount ≥ d.config.timeout

/-- A wait for the horizon goes on (R283). -/
def State.waitHorizon (s : State) (core : Nat) (w : Sweep) : State := s.setSweep core { w with waiting := true }

/-- The rows of a streamed phase as the memory holds them, from bit `i` up (R220, R276). -/
def State.streamRows (s : State) (core ctx len : Nat) (base : Word) (i : Nat) : Nat → Found (List Nat)
  | 0 => .ok [] s
  | n + 1 =>
    match s.engineRead core ctx (base + BitVec.ofNat 64 (i * len)) len with
    | .fail c k a t => .fail c k a t
    | .wait t => .wait t
    | .ok bs t =>
      match State.streamRows t core ctx len base (i + 1) n with
      | .ok rs t => .ok (leNat bs :: rs) t
      | r => r

/-- Whether a streamed row passes the checks of R218 and R220. -/
def streamedOk (fan bits i w : Nat) : Bool :=
  fld w 21 11 = 0 && (List.range fan).all (fun e => couplingOk bits i (fld w (32 + 32 * e) 32))

/-- The length of a streamed row in bytes (R220). -/
def Dune.rowLength (d : Dune) : Nat := 64 * ((4 + 4 * d.fan + 63) / 64)

/-- The rows that a phase reads: those of the RAM, or rows read and checked from memory. -/
def State.phaseRows (s : State) (core : Nat) : Found (List Nat) :=
  let d := (s.core core).dune
  if !d.config.streamed then .ok [] s
  else
    let len := d.rowLength
    let ctx := (s.duneCtx core).getD 0
    let heads := (List.range d.config.nbits).map (fun i => d.rowBase + BitVec.ofNat 64 (i * len))
    let remote : Found Unit := match s.locateAll ctx .read heads with
      | .ok ls t => t.remoteAsk (t.duneAgent core) ls false d.rowBase
      | _ => .ok () s
    match remote with
    | .wait t => .wait t
    | .fail c k a t => .fail c k a t
    | .ok _ t =>
      match t.streamRows core ctx len d.rowBase 0 d.config.nbits with
      | .ok rows t =>
        match rows.zipIdx.find? (fun r => !(streamedOk d.fan d.config.nbits r.2 r.1)) with
        | some r => .fail codeDuneConfig 2 (d.rowBase + BitVec.ofNat 64 (r.2 * len)) t
        | none => .ok rows t
      | r => r

/-- The bits of the colour that a phase updates where its rows cannot all be used (R227): those whose row header names the colour
without a clamp, and those whose row cannot be read, which says nothing of their colour. -/
def State.colourBits (s : State) (core colour : Nat) : List Nat :=
  let d := (s.core core).dune
  if !d.config.streamed then updatedBits (d.bitRows []) colour
  else
    (List.range d.config.nbits).filter (fun i =>
      match s.engineRead core ((s.duneCtx core).getD 0) (d.rowBase + BitVec.ofNat 64 (i * d.rowLength)) 4 with
      | .ok bs _ => fld (leNat bs) 16 3 = colour && fld (leNat bs) 19 1 = 0
      | _ => true)

/-- The states of bits left undefined (R227). -/
def State.loseStates (s : State) (core : Nat) (lost : Nat → Bool) : State :=
  let f := s.free
  let ms := (s.duneStates core).mapIdx (fun i v => if lost i then decide (Config.freeNat f i % 2 = 1) else v)
  { s.setDuneStates core ms with free := f + 1 }

/-- A sweep is to end in error (R227): its horizon wait, if it was in one, is over. -/
def State.endInError (s : State) (core : Nat) (w : Sweep) (code cause : Nat) (addr : Word) : State :=
  (s.setSweep core { w with inPhase := false, waiting := false, ending := .error code cause addr }).modDune core
    (fun d => { d with waitCount := 0 })

/-- COLOUR_PHASE_BEGIN (R275, R276, R281): a phase reads its rows and the horizon entries that its bits read, in one step;
it waits while an entry holds no acceptable version. -/
def execColourPhaseBegin (core : Nat) (s : State) : Host.Outcome State Fault Refusal :=
  match s.sweepOf core with
  | none => .next s
  | some (c, w) =>
    let s0 := s.setSweep core w
    let d := (s.core core).dune
    let ready : Bool := w.ending = .running && !w.inPhase && d.publication.isNone && d.samples < 4096 && !d.testDue
      && w.done < c.form.sweepTotal.getD 0 && !s.duneSaving core && !d.timedOut w
    if !ready then .next s0
    else
      match s0.phaseRows core with
      | .wait t => .next t
      | .fail code cause addr t =>
        let bits := t.colourBits core (d.config.order.getD d.phase 8)
        .next ((t.loseStates core bits.contains).endInError core w code cause addr)
      | .ok rows t =>
        let rs := d.bitRows rows
        let bits := updatedBits rs (d.config.order.getD d.phase 8)
        let entries := entriesRead rs bits
        let r := d.sweeps - d.config.stale
        if entries.any (fun h => (Tab.get? d.horizon h).isNone) then
          .next ((t.loseStates core bits.contains).endInError core w codeDuneConfig 2 0)
        else
          let read (h : Nat) : Option (Nat × Bool) :=
            ((Tab.get? d.horizon h).bind (fun e => e.value d.config.replay r)).map (fun v => (h, v))
          match entries.mapM read with
          | none => .next (t.waitHorizon core w)
          | some vs =>
            let hvals := vs.foldl (fun (a : Tab Bool) v => Tab.set a v.1 v.2) []
            .next ((t.setSweep core { w with inPhase := true, waiting := false, hvals := hvals, rows := rows }).modDune core
              (fun d => { d with waitCount := 0 }))

/-- A sample of a witness bit (R284, R285): bit b of the draws numbered `n`, the first of its window where `first`. -/
def Witness.sample (w : Witness) (first : Bool) (v : Bool) : Witness :=
  { w with ones := w.ones + v.toNat, agree := w.agree + (!first && (v == w.last)).toNat, last := v }

/-- The witness sample of a phase (R284), or the count of phases up to a self-test (R286). -/
def Dune.sampleWitness (d : Dune) (draws : Nat) : Dune :=
  if d.config.replay then
    if d.testPhases + 1 ≥ 4096 then { d with testPhases := 0, testDue := true } else { d with testPhases := d.testPhases + 1 }
  else
    let one (t : Tab Witness) (b : Nat) : Tab Witness :=
      Tab.set t b ((Tab.getD t b Witness.blank).sample (d.samples = 0) (Config.physicalDraw draws (2 ^ 20 + b) % 65536 < 32768))
    { d with samples := d.samples + 1, witness := (List.range 16).foldl one d.witness }

/-- A saturating count (R226). -/
def countUp (n : Nat) : Nat := min (n + 1) (2 ^ 32 - 1)

/-- The counting at the end of a counted sweep (R226). -/
def Dune.countSweep (d : Dune) (ms : List Bool) (corr : Bool) : Dune :=
  let counts := (List.range 1024).foldl (fun t i => if ms.getD i false then Tab.set t i (countUp (Tab.getD t i 0)) else t) d.counts
  let pairs := (List.range 256).foldl (fun t q =>
    let w := (Tab.getD d.pairs q 0).toNat
    if fld w 31 1 = 1 && (ms.getD (fld w 0 14) false == ms.getD (fld w 16 14) false) then Tab.set t q (countUp (Tab.getD t q 0))
    else t) d.pairCounts
  { d with counts := counts, pairCounts := if corr then pairs else d.pairCounts }

/-- The health of an array set, with a trail record of the change (R412, R416). -/
def State.setHealth (s : State) (core ctx : Nat) (h : Health) : State :=
  let t : State := { s with flash := { s.flash with health := Tab.set s.flash.health core h } }
  t.trail (coreDie core) ctx (core % 48) 0x05 h.state h.events none

/-- The health record of an array. -/
def State.healthRecord (s : State) (core : Nat) : Health :=
  Tab.getD s.flash.health core { state := 0, events := 0, sweep := 0, ones := 0, agree := 0 }

/-- The bias ending of a sweep in which a window failed (R287): the counters go back to the latest snapshot, the health
becomes SUSPECT and both are recorded. -/
def State.endBias (s : State) (core : Nat) (f : Nat × Nat × Nat) : State :=
  let k := (s.core core).dune.sweeps
  let ctx := (s.duneCtx core).getD 0
  let (bit, ones, agree) := f
  let s1 := s.modDune core (fun d => { d with counts := d.snapCounts, pairCounts := d.snapPairs, failed := none })
  let s2 := s1.trail (coreDie core) ctx (core % 48) 0x03 codeDuneBias 0
    (some (k + 2 ^ 32 * ones + 2 ^ 45 * agree + 2 ^ 58 * bit))
  let h := s.healthRecord core
  s2.setHealth core ctx { state := 1, events := h.events + 1, sweep := k, ones := ones, agree := agree }

/-- A sweep's publication made, its phase ended, and the sweep counted after its last phase (R226, R279, R287). A sweep that an earlier
`dsweep` left at a horizon wait is completed by the next one and counts as the first of its b + n sweeps; a window that failed in it
makes the bias ending of that `dsweep` (DESIGN CHOICES, log entry 51: R227 names neither). -/
def State.endPhase (s : State) (core : Nat) (c : DuneCommand) (w : Sweep) (bits : List Nat) : State :=
  let d := (s.core core).dune
  let ms := s.duneStates core
  let ctx := (s.duneCtx core).getD 0
  let subs := d.publish.filter (fun p => p.ctx = ctx && bits.contains p.bit)
  let message (p : Subscription) : HorizonMessage :=
    { source := core, core := p.core, block := p.block, entry := p.entry, reset := false, version := d.sweeps + 1,
      value := ms.getD p.bit false }
  let s1 : State := { s with horizonMsgs := s.horizonMsgs ++ subs.map message }
  let w1 : Sweep := { w with inPhase := false, waiting := false, hvals := [], rows := [] }
  let last : Bool := d.phase + 1 ≥ d.config.order.length
  if !last then
    (s1.setSweep core w1).modDune core (fun d => { d with phase := d.phase + 1, publication := none, waitCount := 0 })
  else
    let burn := match c.form with
      | .sweep _ b corr => (b, corr)
      | _ => (0, false)
    let step (d : Dune) : Dune :=
      let d1 := if w.done ≥ burn.1 then d.countSweep ms burn.2 else d
      { d1 with phase := 0, sweeps := (d.sweeps + 1) % 2 ^ 32, publication := none, waitCount := 0 }
    let s2 := s1.modDune core step
    match d.failed with
    | none => s2.setSweep core { w1 with done := w.done + 1 }
    | some f => (s2.endBias core f).setSweep core { w1 with done := w.done + 1, ending := .bias }

/-- The publication of a phase, where every subscriber in replay mode has begun the sweep that R282 asks for; else the
source waits at the end of its phase. -/
def State.tryPublish (s : State) (core : Nat) (c : DuneCommand) (w : Sweep) (bits : List Nat) : State :=
  let d := (s.core core).dune
  let ctx := (s.duneCtx core).getD 0
  let subs := d.publish.filter (fun p => p.ctx = ctx && bits.contains p.bit)
  if subs.all (s.mayPublish core (d.sweeps + 1)) then s.endPhase core c w bits else s.waitHorizon core w

/-- The recordings' name of a colour phase of a core (R428). -/
def State.phaseEntry (s : State) (core : Nat) (n : Nat) : LogEntry :=
  { sector := 2 ^ 50 + core, tag := 0, wkcnt := 8 * (s.core core).dune.sweeps + (s.core core).dune.phase, value := some n }

/-- The number of a phase's draws: a new one, or in a re-execution the one logged (R428). -/
def State.phaseDraws (s : State) (core : Nat) : Nat :=
  let e := s.phaseEntry core 0
  match s.monitor.replay.bind (fun r => r.log.find? (fun x => x.sector = e.sector && x.wkcnt = e.wkcnt)) with
  | some x => x.value.getD s.free
  | none => s.free

/-- The results of a physical phase logged by the recordings of its dispatch, as the number of its draws (R428). -/
def State.logPhase (s : State) (core n : Nat) : State :=
  match (s.duneBlock core).bind (fun b => Tab.get? s.launches b.2.launch) with
  | none => s
  | some l =>
    if (s.core core).dune.config.replay || s.monitor.replay.isSome then s
    else
      let add (r : Nat × Recording) : Nat × Recording :=
        if r.2.handle = l.handle then (r.1, { r.2 with log := r.2.log ++ [s.phaseEntry core n] }) else r
      { s with monitor := { s.monitor with recordings := s.monitor.recordings.map add } }

/-- COLOUR_PHASE_END (R226, R274, R275, R279, R282, R284): the phase's updates and its witness sample, then its
publication, its end, and the counting at the end of a sweep. A window or a self-test that is due is judged first. -/
def execColourPhaseEnd (core : Nat) (s : State) : Host.Outcome State Fault Refusal :=
  match s.sweepOf core with
  | none => .next s
  | some (c, w) =>
    let s0 := s.setSweep core w
    if w.ending ≠ .running then .next s0
    else
      let d := (s.core core).dune
      if w.inPhase then
        let rs := d.bitRows w.rows
        let n := s.phaseDraws core
        let s1 : State := { (s0.logPhase core n).setDuneStates core (d.afterPhase rs (s.duneStates core) w.hvals n) with free := s.free + 1 }
        let bits := (updatedBits rs (d.config.order.getD d.phase 8)
          ++ (if d.phase + 1 ≥ d.config.order.length then restingBits rs d.config.order else [])).filter (· < d.config.bits)
        let s2 := s1.modDune core (fun d => { d with publication := some bits }.sampleWitness n)
        let w1 : Sweep := { w with inPhase := false }
        let due : Bool := (s2.core core).dune.samples ≥ 4096 || (s2.core core).dune.testDue
        .next (if due || s.duneSaving core then s2.setSweep core w1 else (s2.setSweep core w1).tryPublish core c w1 bits)
      else
        match d.publication with
        | none => .next s0
        | some bits =>
          if d.samples ≥ 4096 || d.testDue || s.duneSaving core || d.timedOut w then .next s0
          else .next (s0.tryPublish core c w bits)

/-- The window of every witness bit closed (R284, R285). -/
def Dune.closeWindow (d : Dune) : Dune :=
  { d with samples := 0,
           witness := d.witness.map (fun w => (w.1, { w.2.restart with closedOnes := w.2.ones, closedAgree := w.2.agree })) }

/-- A window or a self-test that failed (R286, R287): the first of a sweep is kept until the sweep completes. -/
def Dune.fails (d : Dune) (f : Nat × Nat × Nat) : Dune := { d with failed := d.failed.or (some f) }

/-- What an array keeps when its dune block leaves it (R60, R231, R284): the witness windows, the publish list, its calibration and
its generator. -/
def Dune.leave (d : Dune) : Dune :=
  { Dune.reset with samples := d.samples, witness := d.witness, testPhases := d.testPhases, testDue := d.testDue,
                    publish := d.publish, calibrating := d.calibrating, toClear := d.toClear, broken := d.broken }

/-- What an array keeps when its dune block is saved: a window or a self-test that is due goes with the block, whose sweep it is judged
in (R287). -/
def Dune.leaveSaved (d : Dune) : Dune := { (if d.samples ≥ 4096 then d.closeWindow else d).leave with testDue := false }

/-- A saved array on the array that it resumes on (R284, R391): the windows run on there, but for one that closed before the save. -/
def Dune.resume (saved now : Dune) : Dune :=
  let due : Bool := saved.samples ≥ 4096
  { saved with samples := if due then saved.samples else now.samples, witness := if due then saved.witness else now.witness,
               testPhases := now.testPhases, publish := now.publish, calibrating := now.calibrating, toClear := now.toClear,
               broken := now.broken }

/-- WITNESS_WINDOW_CLOSE (R285, R287): a window of 4,096 samples is judged; it passes with a snapshot, or the sweep is to
end with the bias ending. The lowest failing bit is recorded. -/
def execWitnessWindowClose (core : Nat) (s : State) : Host.Outcome State Fault Refusal :=
  let d := (s.core core).dune
  if d.samples < 4096 || s.duneSaving core then .next s
  else
    let of (b : Nat) : Witness := Tab.getD d.witness b Witness.blank
    let good (n : Nat) : Bool := 1948 ≤ n && n ≤ 2148
    let failing := (List.range 16).find? (fun b => !(good (of b).ones && good (of b).agree))
    let s1 := s.modDune core Dune.closeWindow
    match failing with
    | none => .next (s1.modDune core Dune.snapshot)
    | some b => .next (s1.modDune core (fun d => d.fails (b, (of b).ones, (of b).agree)))

/-- Whether the generator gives the first vector of R34. -/
def generatorGood : Bool :=
  kcg 0 ⟨0, 0, 0, 0⟩ = ⟨0xaf5246df, 0x8bea032d, 0x90af9390, 0x170c649e⟩

/-- GENERATOR_SELF_TEST (R286): at every 4,096th phase of replay mode. What a failing generator gives on the test's counter is an
undefined value, which may be the vector. -/
def execGeneratorSelfTest (core : Nat) (s : State) : Host.Outcome State Fault Refusal :=
  let d := (s.core core).dune
  if !d.testDue || s.duneSaving core then .next s
  else
    let s1 : State := { s.modDune core (fun d => { d with testDue := false }) with free := s.free + d.broken.toNat }
    let good : Bool := if d.broken then Config.freeNat s.free 0 % 2 ^ 128 = 0x170c649e90af93908bea032daf5246df else generatorGood
    .next (if good then s1.modDune core Dune.snapshot else s1.modDune core (fun d => d.fails (0, 0, 0)))

/-- The next message in flight that can arrive at an entry of a core, and the others: the oldest to the entry, of those that no
older message from their source core to this core goes before (R279, R358). -/
def nextMessage (core entry : Nat) (sources : List Nat) : List HorizonMessage → Option (HorizonMessage × List HorizonMessage)
  | [] => none
  | m :: r =>
    if m.core = core ∧ m.entry = entry ∧ !sources.contains m.source then some (m, r)
    else (nextMessage core entry (if m.core = core then m.source :: sources else sources) r).map (fun x => (x.1, m :: x.2))

/-- A horizon message arrives (R279, R280): the oldest to the entry, where it is of the kind. -/
def State.arrive (s : State) (core entry : Nat) (reset : Bool) : State :=
  match nextMessage core entry [] s.horizonMsgs with
  | none => s
  | some (m, rest) =>
    if m.reset ≠ reset then s
    else
      let put (h : HorizonEntry) : HorizonEntry := if reset then h.discard else h.put m.version m.value
      { s with horizonMsgs := rest }.modSubscriber core m.block entry m.source (fun d =>
        { d with horizon := Tab.modify d.horizon entry put })

/-- HORIZON_PUBLICATION (R280). -/
def execHorizonPublication (core entry : Nat) (s : State) : Host.Outcome State Fault Refusal :=
  .next (s.arrive core entry false)

/-- HORIZON_RESET (R280). -/
def execHorizonReset (core entry : Nat) (s : State) : Host.Outcome State Fault Refusal :=
  .next (s.arrive core entry true)

/-- The horizon entry that a wait is for, as the trail names it: the lowest entry without an acceptable version, or the
entry of the first subscription that holds the source back (R283, R416). -/
def State.waitEntry (s : State) (core : Nat) (w : Sweep) : Nat :=
  let d := (s.core core).dune
  match d.publication with
  | some bits =>
    let ctx := (s.duneCtx core).getD 0
    match d.publish.find? (fun p => p.ctx = ctx && bits.contains p.bit && !(s.mayPublish core (d.sweeps + 1) p)) with
    | some p => p.entry
    | none => 0
  | none =>
    let rows := if d.config.streamed then (match s.phaseRows core with
      | .ok rows _ => rows
      | _ => w.rows) else []
    let rs := d.bitRows rows
    let entries := entriesRead rs (updatedBits rs (d.config.order.getD d.phase 8))
    (entries.filter (fun h => match Tab.get? d.horizon h with
      | some e => (e.value d.config.replay (d.sweeps - d.config.stale)).isNone
      | none => false)).foldl min 255

/-- HORIZON_TIMEOUT (R227, R283): a horizon wait whose count has reached the timeout ends the sweep with the horizon
ending. -/
def execHorizonTimeout (core : Nat) (s : State) : Host.Outcome State Fault Refusal :=
  let d := (s.core core).dune
  match d.sweep with
  | none => .next s
  | some w =>
    if w.ending = .running && d.timedOut w then
      let ctx := (s.duneCtx core).getD 0
      let s1 := s.trail (coreDie core) ctx (core % 48) 0x04 codeHorizonLost (s.waitEntry core w) (some d.sweeps)
      .next ((s1.setSweep core { w with ending := .horizon, waiting := false }).modDune core (fun d =>
        { d with lost := true, waitCount := 0 }))
    else .next s

/-- CALIBRATION_COMPLETE (R277, R413): after the time of the table of implementation choices, a SUSPECT array that passed the
calibration of an ARRAY_CLEAR is OK again; a failure leaves it SUSPECT and is recorded. A reset's calibration leaves the health as it
was (R412). An ARRAY_CLEAR that waits for it is answered. -/
def execCalibrationComplete (core : Nat) (passed : Bool) (s : State) : Host.Outcome State Fault Refusal :=
  match (s.core core).dune.calibrating with
  | none => .next s
  | some start =>
    if (s.die (coreDie core)).cyc < start + Config.calibrationCycles then .next s
    else
      let s1 := s.modDune core (fun d => { d with calibrating := none, toClear := false })
      let h := s.healthRecord core
      let told (t : State) : State := match Tab.get? t.clearing core with
        | some tag => { t with clearing := Tab.erase t.clearing core }.respond 4 tag mailDone
        | none => t
      if h.state = 2 then .next (told s1)
      else if !passed then .next (told (s1.trail (coreDie core) 0 (core % 48) 0x0c 3 0 none))
      else if h.state = 1 && (s.core core).dune.toClear then .next (told (s1.setHealth core 0 { h with state := 0 }))
      else .next (told s1)

end Sys2Proof.Machine
end

