-- ==== Sys2Proof/Machine/Blocks.lean ====
section
/-!
DEFINITION. Launch packets, the placing, start and end of blocks, and what happens to a core in the background (R49, R51,
R113, R175, R231 to R242, R254, R263, R268 to R272).
-/

namespace Sys2Proof.Machine

/-! ### Launch packets -/

/-- The reserved fields of a launch packet (R232). -/
def packetReserved : Nat := fieldMask [(471, 41), (443, 5), (368, 16), (304, 16), (248, 8), (176, 16), (54, 10)]

/-- The fields of a launch packet (R232). -/
def packetOf (w : Nat) : Packet :=
  { entry := addr48 w 0, det := flag w 48, paired := flag w 49, debug := flag w 50, preempt := flag w 51,
    phintReq := flag w 52, pool := flag w 53, lcodeBase := addr48 w 64, stack := fld w 112 16, params := addr48 w 128,
    glist := (addr48 w 192).toNat, gcount := fld w 240 8, prologue := addr48 w 256, stackBase := addr48 w 320,
    gridX := fld w 384 24, gridY := fld w 408 12, gridZ := fld w 420 12, caravans := fld w 432 5, regs8 := fld w 437 6,
    scratch := fld w 448 8, acc := fld w 456 7, ob := fld w 463 7, dune := flag w 470,
    reservedSet := Nat.land w packetReserved ≠ 0 }

/-- Blocks of the grid (R233). -/
def Packet.blocks (p : Packet) : Nat := (p.gridX + 1) * (p.gridY + 1) * (p.gridZ + 1)

/-- Caravans of a block on one core (R233). -/
def Packet.count (p : Packet) : Nat := p.caravans + 1

/-- Caravans of a block in a quadrant (R236). -/
def Packet.inQuad (p : Packet) (q : Nat) : Nat := (p.count + 3 - q) / 4

/-- Lane registers that a block reserves in a quadrant (R237). -/
def Packet.quadRegs (p : Packet) (q : Nat) : Nat :=
  if p.pool then min (256 * p.inQuad q) (8 * p.regs8 * p.count) else p.inQuad q * 8 * p.regs8

/-- Whether a block is a matrix block (R37). -/
def Packet.matrix (p : Packet) : Bool := p.acc > 0 || p.ob > 0

/-- The first check that a packet fails, apart from its group list, as the detail of R348 (R234). -/
def Packet.detail (p : Packet) : Option Nat :=
  if p.reservedSet then some 1
  else if p.entry.toNat % 4 ≠ 0 ∨ p.lcodeBase.toNat % 64 ≠ 0 ∨ p.stackBase.toNat % 256 ≠ 0 ∨ p.glist % 16 ≠ 0 then some 2
  else if p.blocks > 2 ^ 24 then some 3
  else if p.regs8 < 2 ∨ p.regs8 > 32 ∨ p.scratch > 128 ∨ p.acc > 64 ∨ p.ob > 64 then some 4
  else if (List.range 4).any (fun q => p.inQuad q > 16 || p.quadRegs q > 2048) then some 5
  else none

/-- Whether the entries of a group list keep R235. -/
def groupsOk (p : Packet) (es : List Nat) : Bool :=
  let lead (e : Nat) : Nat := fld e 0 32
  let follow (e : Nat) : Nat := fld e 32 32
  es.all (fun e => e < 2 ^ 64 && lead e < 2 ^ p.count && follow e < (if p.paired then 2 ^ p.count else 1)
      && !(lead e = 0 && follow e = 0))
    && (List.range p.count).all (fun c =>
      (es.filter (fun e => flag (lead e) c)).length ≤ 4 && (es.filter (fun e => flag (follow e) c)).length ≤ 4)

/-- The group list of a packet, read in a context: its entries (R235). -/
def State.readGroups (s : State) (ctx : Nat) (p : Packet) : Found (List Nat) :=
  match s.frontRead ctx (BitVec.ofNat 64 p.glist) (16 * p.gcount) with
  | .ok bs t => .ok ((List.range p.gcount).map (fun i => leNat ((bs.drop (16 * i)).take 16))) t
  | .fail c k a t => .fail c k a t
  | .wait t => .wait t

/-! ### Room on a core -/

/-- The reserves that the running graphs have set aside on a core (R311): context, packet, whether a block of the node
occupies the reserve, graph and node. -/
def State.reservesOn (s : State) (core : Nat) : List (Nat × Packet × Bool × Nat × Nat) :=
  s.graphs.flatMap (fun g => match g.2.run with
    | none => []
    | some r =>
      if !r.begun then []
      else (r.nodes.filter (fun n => n.2.reserve = core)).map (fun n =>
        (g.2.ctx, (graphNode g.2.desc n.1).pk, n.2.reserveBusy, g.1, n.1)))

/-- The blocks on a core. -/
def State.blocksOn (s : State) (core : Nat) : List (Nat × Block) := s.blocks.filter (fun b => b.2.halves.any (fun h => h.core = core))

/-- Whether a context holds the debug right (R421). -/
def State.mayDebug (s : State) (ctx : Nat) : Bool :=
  match Tab.get? s.contexts ctx with
  | some c => c.debug
  | none => false

/-- Whether the monitor's slot of a core is held (R233). -/
def State.monitorHeld (s : State) (core : Nat) : Bool := (s.blocksOn core).any (fun b => b.2.pk.debug && s.mayDebug b.2.ctx)

/-- The slots of a core that blocks on it hold. -/
def State.heldSlots (s : State) (core : Nat) : List Nat :=
  (s.blocksOn core).flatMap (fun b => (b.2.halves.filter (fun h => h.core = core)).flatMap (fun h => h.slots))

/-- The free slots of a quadrant in ascending order: not held by a block, no release notice outstanding (R394), its
ordered-reduction port empty (R269), and not the monitor's (R233). -/
def State.freeSlots (s : State) (core q : Nat) (monitor : Bool) : List Nat :=
  let c := s.core core
  let held := s.heldSlots core
  ((List.range 16).map (fun i => 16 * q + i)).filter (fun k =>
    !(held.contains k) && (Tab.get? c.notices k).isNone && (Tab.getD c.ports k []).isEmpty && !(monitor && k = 15))

/-- Whether a block of a node stands in a node's reserve on a core now: one that is saved does not (R392). -/
def inReserve (here : List (Nat × Block)) (graph node : Nat) : Bool :=
  here.any (fun b => match b.2.record with
    | some r => r.reserved && r.graph = graph && r.node = node
    | none => false)

/-- Whether a block of a packet fits on a core now (R37, R60, R236, R237, R277, R311): `own` names the node whose reserve
counts as free. Where a caravan holds slot 15 of quadrant 0 when its context comes by the debug right, it keeps the slot, and no
block with the debug flag fits on the core until it ends (DESIGN CHOICE, log entry 51). -/
def State.fits (s : State) (core ctx : Nat) (p : Packet) (own : Option (Nat × Nat)) : Bool :=
  let c := s.core core
  let here := s.blocksOn core
  let reserves := (s.reservesOn core).filter (fun r => own ≠ some (r.2.2.2.1, r.2.2.2.2))
  let loose := here.filter (fun b => match b.2.record with
    | some r => !r.reserved
    | none => true)
  let packs := loose.map (fun b => b.2.pk) ++ reserves.map (fun r => r.2.1)
  let waiting := (reserves.filter (fun r => !(inReserve here r.2.2.2.1 r.2.2.2.2))).map (fun r => r.2.1)
  let wantsMonitor : Bool := p.debug && s.mayDebug ctx
  let monitor : Bool := s.monitorHeld core || wantsMonitor || (s.mayDebug ctx && waiting.any Packet.debug)
  here.all (fun b => b.2.ctx = ctx) && (s.reservesOn core).all (fun r => r.1 = ctx) && c.request.isNone
    && (!wantsMonitor || !((s.heldSlots core).contains 15))
    && (List.range 4).all (fun q =>
      (s.freeSlots core q monitor).length ≥ p.inQuad q + (waiting.map (fun w => w.inQuad q)).sum
        && (packs.map (fun w => w.quadRegs q)).sum + p.quadRegs q ≤ 2048)
    && (packs.map Packet.scratch).sum + p.scratch ≤ 128
    && !(p.matrix && packs.any Packet.matrix)
    && !(p.dune && (packs.any Packet.dune || c.dune.calibrating.isSome || s.healthOf core = 2))
    && (packs.map (fun w => w.gcount + 1)).sum + (p.gcount + 1) ≤ 256

/-- The core, or the cores of a pair, of a die on which a block of a packet is placed (R239, R240). -/
def State.findCores (s : State) (die ctx : Nat) (p : Packet) : Option (List Nat) :=
  if p.paired then
    ((List.range 24).map (fun i => 48 * die + 2 * i)).findSome? (fun n =>
      if s.fits n ctx p none && s.fits (n + 1) ctx p none then some [n, n + 1] else none)
  else
    ((List.range 48).map (fun i => 48 * die + i)).findSome? (fun n => if s.fits n ctx p none then some [n] else none)

/-! ### The start of a block -/

/-- The slots of a block's caravans on a core, by caravan index (R236). -/
def State.takeSlots (s : State) (core : Nat) (p : Packet) (monitor : Bool) : List Nat :=
  (List.range p.count).map (fun c => (s.freeSlots core (c % 4) monitor).getD (c / 4) (16 * (c % 4)))

/-- The member slots of a mask of caravan indices (R235). -/
def memberSlots (slots : List Nat) (mask : Nat) : BitVec 64 :=
  BitVec.ofNat 64 (((slots.zipIdx).filter (fun x => flag mask x.2)).map (fun x => 2 ^ x.1)).sum

/-- An empty group with its members (R57). -/
def Group.start (members partner : BitVec 64) : Group :=
  { members := members, partner := partner, arr := 0, partnerArr := 0, arrived := 0, phase := false, abandoned := false }

/-- A path at the start of its caravan (R49). -/
def Path.start (spc : Word) : Path :=
  { spc := spc, em := BitVec.allOnes 32, laneq := [], burst := none, recs := [], stall := none, pending := none,
    token := none, storeq := [], relScope := 0, loaded := [], handler := none, matchDone := false, fences := [],
    arrivals := [], arrived := [] }

/-- A caravan at its start (R49): its place, its packet, its block's index, the local cycle, the fill of its lane registers and the
record list of a stage-node block. -/
def Caravan.start (uid starts bid block half index core slot : Nat) (p : Packet) (born : Nat) (fill : Fill) (rec : Word × Nat) :
    Caravan :=
  let base := p.stackBase + BitVec.ofNat 64 ((carKey core slot + 1) * 256 * p.stack)
  { uid := uid, born := born, starts := starts, block := block, half := half, index := index,
    sregs := [(1, rec.1), (2, BitVec.ofNat 64 rec.2), (61, base), (62, p.params)], lanes := ⟨fill, []⟩, lbud := 8 * p.regs8,
    xm := 0, preds := [], queues := [], fpm := 0,
    drawctr := BitVec.ofNat 64 ((2 ^ 29 * half + bid * 32 + index) * 2 ^ 32), rkey := 0, trapvec := 0, trapcause := 0,
    trapaddr := 0, trappc := 0, stklim := base - BitVec.ofNat 64 (256 * p.stack), stkbase := base, wkcnt := 0,
    paths := [(0, Path.start p.entry)], split := none, baseRecs := [], stack := [], sealCount := 0, openSet := [],
    batches := [], engineFaults := [], matrixOutcomes := [], capsule := none, notice := none, orderedSeq := 0, hints := none,
    savePoint := none, halted := false, shadow := [] }

/-- The places in a list of units of those that a block of another context claimed last (R49). -/
def foreignUnits (last : Tab Nat) (ctx : Nat) (units : List Nat) : List Nat :=
  (units.zipIdx.filter (fun u => match Tab.get? last u.1 with
    | some c => c ≠ ctx
    | none => false)).map Prod.snd

/-- Units of storage claimed by a context. -/
def claimUnits (last : Tab Nat) (ctx : Nat) (units : List Nat) : Tab Nat := units.foldl (fun t u => Tab.set t u ctx) last

/-- What claimed storage holds before anything is written to it (R49): zero in the units that another context claimed last, an
undefined value in the others. -/
def unitFill (last : Tab Nat) (ctx cells : Nat) (units : List Nat) (seed : Nat) : Fill :=
  match foreignUnits last ctx units with
  | [] => .free seed
  | us => .zeroUnits cells us seed

/-- The free units of lane registers of a quadrant, 256 × q + unit, in ascending order (R237). -/
def State.freeLaneUnits (s : State) (core q : Nat) : List Nat :=
  let held := (s.blocksOn core).flatMap (fun b => (b.2.halves.filter (fun h => h.core = core)).flatMap Half.laneUnits)
  ((List.range 256).map (fun u => 256 * q + u)).filter (fun u => !held.contains u)

/-- The free 4 KiB units of a core's scratchpad in ascending order (R237). -/
def State.freeScratchUnits (s : State) (core : Nat) : List Nat :=
  let held := (s.blocksOn core).flatMap (fun b => (b.2.halves.filter (fun h => h.core = core)).flatMap Half.scratchUnits)
  (List.range 128).filter (fun u => !held.contains u)

/-- The lane units that a block takes on a core: the lowest free ones of each quadrant (DESIGN CHOICE, log entry 41). -/
def State.takeLaneUnits (s : State) (core : Nat) (p : Packet) : List Nat :=
  (List.range 4).flatMap (fun q => (s.freeLaneUnits core q).take (p.quadRegs q / 8))

/-- The scratchpad units that a block takes on a core. -/
def State.takeScratchUnits (s : State) (core : Nat) (p : Packet) : List Nat := (s.freeScratchUnits core).take p.scratch

/-- The units of the registers that the caravan of an index starts with, of those of its block. -/
def caravanUnits (units : List Nat) (p : Packet) (index : Nat) : List Nat :=
  ((units.filter (fun u => u / 256 = index % 4)).drop (index / 4 * p.regs8)).take p.regs8

/-- The bound registers of a core as a block of a context finds them (R58): they stay with the context. -/
def Core.useBounds (c : Core) (ctx : Nat) : Core :=
  if c.boundCtx = ctx then c
  else
    let kept := Tab.set c.boundsOf c.boundCtx (c.bndv, c.bndc)
    let mine := Tab.getD kept ctx ([], [])
    { c with bndv := mine.1, bndc := mine.2, boundCtx := ctx, boundsOf := Tab.erase kept ctx }

/-- A matrix engine as a matrix block of a context finds it (R49, R53, R207, R208): what another context claimed last is zero, the
rest of the claim undefined. The posts of the core's other blocks stay. -/
def Matrix.claim (m : Matrix) (accCtx obCtx : Tab Nat) (ctx : Nat) (p : Packet) (free : Nat) : Matrix :=
  let tiles := foreignUnits accCtx ctx (List.range p.acc)
  let units := foreignUnits obCtx ctx (List.range p.ob)
  let bits (us : List Nat) : Nat := us.foldl (fun n u => Nat.lor n (2 ^ u)) 0
  { m with counters := [], records := [], lastRow := 0, acc := ⟨unitFill accCtx ctx 2048 (List.range p.acc) free, []⟩,
           ob := ⟨unitFill obCtx ctx 4096 (List.range p.ob) (free + 1), []⟩,
           accPoison := m.accPoison &&& ~~~ BitVec.ofNat 64 (bits tiles), obPoison := units.foldl (fun p u => p &&& ~~~ obSectors (4096 * u) 4096) m.obPoison }

/-- The storage of a core marked as claimed by a context: the units of a half, and a matrix block's tiles and buffer (R49). -/
def Core.markUnits (c : Core) (ctx : Nat) (p : Packet) (lanes scratch : List Nat) : Core :=
  { c with laneCtx := claimUnits c.laneCtx ctx lanes, scratchCtx := claimUnits c.scratchCtx ctx scratch,
           accCtx := claimUnits c.accCtx ctx (List.range p.acc), obCtx := claimUnits c.obCtx ctx (List.range p.ob) }

/-- A core as a block of a context finds it at its start (R49, R58, R207). -/
def Core.claim (c : Core) (ctx : Nat) (p : Packet) (lanes scratch : List Nat) (free : Nat) : Core :=
  let mat : Matrix := if p.matrix then c.mat.claim c.accCtx c.obCtx ctx p (free + 1) else c.mat
  let dune : Dune := if p.dune then { c.dune with states := ⟨.free free, []⟩ }.snapshot else c.dune
  ({ c with mat := mat, dune := dune }.markUnits ctx p lanes scratch).useBounds ctx

/-- What a core knows of a context that is removed: its storage is another context's from then on, and its bound registers end
(R3, R49, R58). -/
def Core.forget (c : Core) (ctx : Nat) : Core :=
  let lose (t : Tab Nat) : Tab Nat := t.map (fun x => (x.1, if x.2 = ctx then 2 ^ 32 else x.2))
  { c with laneCtx := lose c.laneCtx, scratchCtx := lose c.scratchCtx, accCtx := lose c.accCtx, obCtx := lose c.obCtx,
           boundsOf := Tab.erase c.boundsOf ctx, bndv := if c.boundCtx = ctx then [] else c.bndv,
           bndc := if c.boundCtx = ctx then [] else c.bndc }

/-- A block started on its cores (R236 to R241, R320): all its caravans at once, after the dispatch's acquire. -/
def State.startBlock (s : State) (launch ctx bid : Nat) (p : Packet) (groups : List Nat) (cores : List Nat)
    (record : Option RecordBlock) : State :=
  let (block, s1) := s.fresh
  let f := s1.free
  let wants : Bool := p.debug && s.mayDebug ctx
  let half (n i : Nat) : Half :=
    let scratch := s.takeScratchUnits n p
    { core := n, slots := s.takeSlots n p (s.monitorHeld n || wants), laneUnits := s.takeLaneUnits n p, scratchUnits := scratch,
      scratch := ⟨unitFill (s.core n).scratchCtx ctx 4096 scratch (f + 64 + i), []⟩, scratchPoison := 0, pool := 0, claims := [] }
  let halves := cores.zipIdx.map (fun x => half x.1 x.2)
  let members (i mask : Nat) : BitVec 64 := match halves[i]? with
    | some h => memberSlots h.slots mask
    | none => 0
  let all := 2 ^ p.count - 1
  let g0 := Group.start (members 0 all) (members 1 all)
  let gs := groups.map (fun e => Group.start (members 0 (fld e 0 32)) (members 1 (fld e 32 32)))
  let rec_ : Word × Nat := match record with
    | some r => (r.listAddr, r.count)
    | none => (0, 0)
  let b : Block := { launch := launch, ctx := ctx, bid := bid, pk := p, halves := halves, groups := g0 :: gs, barriers := [],
                     live := p.count * halves.length, faulted := none, record := record }
  let s2 : State := { s1 with blocks := Tab.set s1.blocks block b, free := f + 72 }
  let one (t : State) (h : Half) (i c slot : Nat) : State :=
    let (uid, t1) := t.fresh
    let starts := Tab.getD (t1.core h.core).starts slot 0 + 1
    let fill := unitFill (s.core h.core).laneCtx ctx 256 (caravanUnits h.laneUnits p c) (f + 32 * i + c)
    let car := Caravan.start uid starts bid block i c h.core slot p (t1.die (coreDie h.core)).cyc fill rec_
    (t1.setCaravan (carKey h.core slot) car).modCore h.core (fun x => { x with starts := Tab.set x.starts slot starts })
  let s3 := halves.zipIdx.foldl (fun t (h, i) => h.slots.zipIdx.foldl (fun t (slot, c) => one t h i c slot) t) s2
  halves.zipIdx.foldl (fun t (h, i) =>
    t.modCore h.core (fun c => (c.claim ctx p h.laneUnits h.scratchUnits (f + 66 + 3 * i)).dropClean)) s3

/-! ### The end of a block -/

/-- Whether every engine operation of a block has completed (R241). -/
def State.blockQuiet (s : State) (bid : Nat) (b : Block) : Bool :=
  b.halves.all (fun h =>
    let c := s.core h.core
    !(c.mat.queue.any (fun o => o.block = bid)) && !(match c.mat.running with
        | some o => o.block = bid
        | none => false)
      && !(c.copies.any (fun o => o.block = bid && !o.done)) && (!b.pk.dune || c.dune.queue.isEmpty))

/-- A dune array at the end of its block (R231): its links end, and every item returns to its value at claim but the
health, the witness windows and the publish list. A window that failed in a sweep that never completed makes the health SUSPECT
here (DESIGN CHOICE, log entry 51). -/
def State.releaseDune (s : State) (core : Nat) : State :=
  let t := ((s.core core).dune.horizon.map Prod.fst).foldl (fun t h => t.unlink core h) s
  let u := match (t.core core).dune.failed with
    | some f => t.endBias core f
    | none => t
  u.modDune core Dune.leave

/-- What a block leaves on one of its cores when its reservation is released (R175, R196, R231, R241, R263): its dirty
sectors are pushed, and a request to vacate the core ends with its last block. -/
def State.vacate (s : State) (core bid : Nat) (p : Packet) : State :=
  let s1 := (s.pushAll core).returnPairLines core
  let s2 := s1.modCore core (fun c =>
    { c with tiles := c.tiles.filter (fun t => t.2.block ≠ bid), copies := c.copies.filter (fun o => o.block ≠ bid),
             mat := { c.mat with posts := c.mat.posts.filter (fun q => q.block ≠ bid),
                                 records := if p.matrix then [] else c.mat.records } })
  if p.dune then s2.releaseDune core else s2

/-- A request to vacate a core ends when the core holds no block (R386). -/
def State.requestDone (s : State) (core : Nat) : State :=
  if (s.blocksOn core).isEmpty then s.modCore core (fun c => { c with request := none }) else s

/-- The lowest fault code of two (R337). -/
def lowestFault : Option Nat → Option Nat → Option Nat
  | some a, some b => some (min a b)
  | some a, none => some a
  | none, b => b

/-- BLOCK_END (R241, R242, R263): a block whose caravans and operations have all ended releases its reservation, as a
release at system scope of its accesses. -/
def execBlockEnd (block : Nat) (s : State) : Host.Outcome State Fault Refusal :=
  match Tab.get? s.blocks block with
  | none => .next s
  | some b =>
    if b.live > 0 || !s.blockQuiet block b then .next s
    else
      let s1 := s.freeRecords block
      let s2 := b.halves.foldl (fun t h => t.vacate h.core block b.pk) s1
      let s3 : State := { s2 with blocks := Tab.erase s2.blocks block }
      let s4 := b.halves.foldl (fun t h => t.requestDone h.core) s3
      let s5 := s4.modLaunch b.launch (fun l => { l with ended := l.ended + 1, faulted := lowestFault l.faulted b.faulted })
      match b.record with
      | none => .next s5
      | some r =>
        let s6 := s5.modRun r.graph (fun x => { x with faulted := lowestFault x.faulted b.faulted })
        .next (if r.reserved then s6.modNode r.graph r.node (fun n => { n with reserveBusy := false }) else s6)

/-! ### Distributors -/

/-- The pending launch whose turn it is (R239): the first that 256 turns have passed, else the next of the rotation. -/
def Die.turnOf (d : Die) : Option (Nat × Bool) :=
  match d.pending.find? (fun l => Tab.getD d.passes l 0 ≥ 256) with
  | some l => some (l, true)
  | none => (d.pending[d.turn % d.pending.length]?).map (fun l => (l, false))

/-- A launch whose last block is placed leaves every distributor. -/
def Die.dropPending (d : Die) (l : Nat) : Die :=
  match d.pending.findIdx? (· = l) with
  | none => d
  | some i =>
    { d with pending := d.pending.filter (· ≠ l), passes := Tab.erase d.passes l, turn := if i < d.turn then d.turn - 1 else d.turn }

/-- Whether an agent of a die has acted in the current local cycle. -/
def Die.acted (d : Die) (agent : Nat) : Bool := decide (d.cyc < Tab.getD d.acts agent 0)

/-- An agent of a die has acted in the current local cycle. -/
def Die.act (d : Die) (agent : Nat) : Die := { d with acts := Tab.set d.acts agent (d.cyc + 1) }

/-- DISTRIBUTOR_TURN (R239, R240, R248): once in a local cycle of the die, one pending launch places its next block on this die, or is
passed. Taking the number and starting the block are one step, so the blocks of a launch start in ascending index across dies
too (DESIGN CHOICE, log entry 51: R239 does not ask it of a launch that is not deterministic). -/
def execDistributorTurn (die : Nat) (s0 : State) : Host.Outcome State Fault Refusal :=
  if (s0.die die).acted 0 then .next s0
  else
  let s := s0.modDie die (fun d => d.act 0)
  let d := s.die die
  match d.turnOf with
  | none => .next s
  | some (id, starved) =>
    match Tab.get? s.launches id with
    | none => .next (s.modDie die (fun d => d.dropPending id))
    | some l =>
      let after (t : State) (placed : Bool) : State := t.modDie die (fun d =>
        { d with turn := if starved then d.turn else d.turn % d.pending.length + 1,
                 passes := Tab.set d.passes id (if placed then 0 else Tab.getD d.passes id 0 + 1) })
      match s.findCores die l.ctx l.pk with
      | none => .next (after s false)
      | some cores =>
        let s1 := (s.startBlock id l.ctx l.next l.pk (l.groups.map BitVec.toNat) cores none).modLaunch id
          (fun l => { l with next := l.next + 1 })
        let s2 := after s1 true
        .next (if l.next + 1 < l.total then s2
          else (List.range 4).foldl (fun t k => t.modDie k (fun d => d.dropPending id)) s2)

/-! ### Claim deadlock -/


/-- Whether a path waits in `rclaim` (R111). -/
def Block.claiming (b : Block) (half key p : Nat) : Bool :=
  match b.half? half with
  | some h => h.claims.any (fun q => q.1 = key && q.2.1 = p)
  | none => false

/-- Whether a caravan waits in `rclaim`. -/
def Block.claims (b : Block) (k : Nat × Caravan) : Bool := k.2.paths.any (fun p => b.claiming k.2.half k.1 p.1)

/-- Whether a path waits in `await` or `bar` on a group whose members still to arrive all wait in `rclaim` (R113). -/
def State.awaitsClaimers (s : State) (block : Nat) (b : Block) (x : Path) : Bool :=
  x.stall = some .group &&
    (match x.awaiting.bind (fun g => b.groups[g]?) with
      | none => false
      | some g => (s.members block).all (fun k =>
          !(g.has k.2.half (k.1 % 64)) || g.counted k.2.half (k.1 % 64) || b.claims k))

/-- Whether a path waits at the join of its caravan's split for its sibling (R100). -/
def Caravan.joins (c : Caravan) (x : Path) : Bool :=
  x.token = some true && c.split = some x.spc && x.recs.isEmpty && x.stall = some .data

/-- Whether a block is in claim deadlock (R113). A divided caravan waits when one of its paths does and the other does too or waits
for it at their join (DESIGN CHOICE, log entry 51: the rule speaks of caravans, not of paths). -/
def State.claimDeadlock (s : State) (block : Nat) (b : Block) : Bool :=
  let waits (k : Nat × Caravan) : Bool :=
    let stuck (p : Nat × Path) : Bool := b.claiming k.2.half k.1 p.1 || s.awaitsClaimers block b p.2
    k.2.paths.any stuck && k.2.paths.all (fun p => stuck p || k.2.joins p.2)
  let cs := s.members block
  cs.any b.claims && cs.all waits

/-- CLAIM_DEADLOCK (R113): the claims are withdrawn, none of them served, and every waiting claimer raises CLAIM_DEADLOCK at its
`rclaim`. -/
def execClaimDeadlock (block : Nat) (s : State) : Host.Outcome State Fault Refusal :=
  match Tab.get? s.blocks block with
  | none => .next s
  | some b =>
    if !s.claimDeadlock block b then .next s
    else
      let claimers := b.halves.flatMap (fun h => h.claims.map (fun q => (q.1, q.2.1)))
      let s1 := s.modBlock block (fun b => { b with halves := b.halves.map (fun h => { h with claims := [] }) })
      .next (claimers.foldl (fun t (key, p) =>
        match (t.caravan? key).bind (fun c => Tab.get? c.paths p) with
        | none => t
        | some x => t.raiseTrap key p
            { code := codeClaimDeadlock, cause := 0, addr := 0, pc := scalarPc x.spc, resume := x.spc, removed := [] }) s1)

/-! ### The L1 and the stack cache -/

/-- L1_EVICTION (R254, R428): a sector leaves the L1, its dirty bytes for their home slice, unless a re-execution holds them back. -/
def execL1Eviction (core sector : Nat) (s : State) : Host.Outcome State Fault Refusal :=
  match Tab.get? (s.core core).l1 sector with
  | none => .next s
  | some _ => .next (if s.pushHeld core sector then s else (s.pushSector core sector).modCore core (fun c => { c with l1 := Tab.erase c.l1 sector }))

/-- STACK_CACHE_SPILL (R51): a line of a caravan's stack cache goes to its stack memory; one below `stklim` raises
STACK_LIMIT. -/
def execStackCacheSpill (core slot : Nat) (s : State) : Host.Outcome State Fault Refusal :=
  let key := carKey core slot
  match s.caravan? key with
  | none => .next s
  | some c =>
    match Tab.get? s.blocks c.block with
    | none => .next s
    | some _ =>
      let (n, s1) := s.choose
      match c.stackLines[n % c.stackLines.length]?, c.paths with
      | some line, (p, x) :: _ =>
        if c.lineBelow line then
          .next (s1.raiseTrap key p { code := codeStackLimit, cause := 0, addr := BitVec.ofNat 64 (line * 512),
                                      pc := scalarPc x.spc, resume := x.spc, removed := [] })
        else .next (s1.spillLine key line)
      | _, _ => .next s

/-! ### Ordered updates -/

/-- The issuer index order (R268). -/
def OrderedUpdate.before (a b : OrderedUpdate) : Bool :=
  if a.bid ≠ b.bid then a.bid < b.bid
  else if a.car ≠ b.car then a.car < b.car
  else if a.lane ≠ b.lane then a.lane < b.lane
  else if a.seq ≠ b.seq then a.seq < b.seq
  else a.launch < b.launch

/-- Whether two updates are one. -/
def OrderedUpdate.same (a b : OrderedUpdate) : Bool :=
  a.launch = b.launch && a.bid = b.bid && a.car = b.car && a.lane = b.lane && a.seq = b.seq && a.addr = b.addr

/-- An update as it stands in its port changed, or removed where `f` gives none. -/
def State.modUpdate (s : State) (u : OrderedUpdate) (f : OrderedUpdate → Option OrderedUpdate) : State :=
  let port (p : Nat × List OrderedUpdate) : Nat × List OrderedUpdate :=
    (p.1, p.2.filterMap (fun v => if v.same u then f v else some v))
  { s with cores := s.cores.map (fun c => (c.1, { c.2 with ports := (c.2.ports.map port).filter (fun p => !p.2.isEmpty) })) }

/-- The largest or the smallest update of a list. -/
def extremeUpdate (better : OrderedUpdate → OrderedUpdate → Bool) : List OrderedUpdate → Option OrderedUpdate
  | [] => none
  | u :: r => match extremeUpdate better r with
    | none => some u
    | some v => some (if better u v then u else v)

/-- The smallest update held at an address. -/
def smallest (us : List OrderedUpdate) : Option OrderedUpdate := extremeUpdate OrderedUpdate.before us

/-- The largest update held at an address. -/
def largest (us : List OrderedUpdate) : Option OrderedUpdate := extremeUpdate (fun a b => b.before a) us

/-- An update returned to its port, which resends it (R269, R270). -/
def State.giveBack (s : State) (u : OrderedUpdate) : State :=
  s.modUpdate u (fun v => some { v with held := false, refused := true })

/-- An update accepted by its unit. -/
def State.accept (s : State) (u : OrderedUpdate) : State :=
  let t := s.modUpdate u (fun v => some { v with held := true, refused := false })
  { t with tracked := Tab.set t.tracked u.addr (Tab.getD t.tracked u.addr [] ++ [{ u with held := true, refused := false }]) }

/-- An update that reaches its unit (R270): the state after it is accepted, or none where it is refused. -/
def State.offer (s : State) (u : OrderedUpdate) : Option State :=
  match Tab.get? s.tracked u.addr with
  | some us =>
    if us.length < 16 then some (s.accept u)
    else
      match largest us with
      | none => none
      | some v =>
        if u.before v then
          let t : State := { s with tracked := Tab.set s.tracked u.addr (us.filter (fun x => !x.same v)) }
          some ((t.giveBack v).accept u)
        else none
  | none =>
    let mine := s.tracked.filter (fun a => a.2.any (fun v => v.slice = u.slice))
    if mine.length < 256 then some (s.accept u)
    else
      let heads := mine.filterMap (fun a => (smallest a.2).map (fun v => (a.1, v)))
      match largest (heads.map Prod.snd) with
      | none => none
      | some v =>
        if u.before v then
          let out := Tab.getD s.tracked v.addr []
          let t : State := { s with tracked := Tab.erase s.tracked v.addr }
          some ((out.foldl State.giveBack t).accept u)
        else none

/-- Whether the caravan that issued an update has not ended: it is on its core, or in the save of its block. -/
def State.issuerLives (s : State) (launch : Nat) (p : Nat → Nat → Bool) : Bool :=
  let of (b : Option Block) (c : Caravan) : Bool := match b with
    | some x => x.launch = launch && p x.bid (32 * c.half + c.index)
    | none => false
  s.caravans.any (fun c => of (Tab.get? s.blocks c.2.block) c.2)
    || s.saved.any (fun b => b.2.caravans.any (fun c => of (some b.2.block) c.2))

/-- The updates that a slot's port may send next (R269): after its caravan has ended, for each address the smallest one. -/
def State.mayOffer (s : State) (port : List OrderedUpdate) (u : OrderedUpdate) : Bool :=
  !u.held && (s.issuerLives u.launch (fun b c => b = u.bid && c = u.car)
    || !(port.any (fun v => v.addr = u.addr && !v.held && v.before u)))

/-- ORDERED_UPDATE_ARRIVAL (R270): the next update that a port has not sent yet reaches its unit. -/
def execOrderedUpdateArrival (core slot : Nat) (s : State) : Host.Outcome State Fault Refusal :=
  let port := Tab.getD (s.core core).ports slot []
  match port.find? (fun u => !u.refused && s.mayOffer port u) with
  | none => .next s
  | some u => .next ((s.offer u).getD (s.giveBack u))

/-- PORT_RESEND (R269, R270): a refused or displaced update is sent again. -/
def execPortResend (core slot : Nat) (s : State) : Host.Outcome State Fault Refusal :=
  let port := Tab.getD (s.core core).ports slot []
  match (port.filter (fun u => u.refused && s.mayOffer port u)).findSome? s.offer with
  | none => .next s
  | some t => .next t

/-- Whether an update may be folded (R271): its caravan, and every caravan of its launch before it, has ended, all updates of those are
folded, and its own caravan has no smaller update at the address that its unit does not hold. -/
def State.foldable (s : State) (u : OrderedUpdate) : Bool :=
  let started : Bool := match Tab.get? s.launches u.launch with
    | some l => u.bid ≤ l.next
    | none => true
  let earlier (b c : Nat) : Bool := b < u.bid || (b = u.bid && c < u.car)
  started && !(s.issuerLives u.launch (fun b c => earlier b c || (b = u.bid && c = u.car)))
    && !(s.cores.any (fun k => k.2.ports.any (fun p => p.2.any (fun v =>
      v.launch = u.launch && (earlier v.bid v.car || (v.addr = u.addr && !v.held && v.before u))))))

/-- ORDERED_UPDATE_FOLD (R157, R271, R428): the unit folds the smallest update held at an address. -/
def execOrderedUpdateFold (addr : Nat) (s : State) : Host.Outcome State Fault Refusal :=
  match Tab.get? s.tracked addr with
  | none => .next s
  | some us =>
    match smallest us with
    | none => .next s
    | some u =>
      let handles := ((Tab.get? s.launches u.launch).map Launch.handle).toList
      if !s.foldable u || s.logHolds handles (addr / 64) unitTag then .next s
      else
        let old := leNat ((List.range 4).map (fun i => s.rawByte (addr + i)))
        let sum := (fpAdd 0 false .rne u.fsat old u.value.toNat).1
        let new := match decode (formatOf 0) sum with
          | .nan => canonicalNaN (formatOf 0)
          | _ => sum
        let rest := us.filter (fun v => !v.same u)
        let e : LogEntry := { sector := addr / 64, tag := unitTag, wkcnt := 0, value := none }
        let t := (s.logHome handles e).modUpdate u (fun _ => none)
        .next { t with writes := if addr < hbmBytes then byteWrites addr (leBytes 4 new) t.writes else t.writes,
                       tracked := Tab.put t.tracked addr (if rest.isEmpty then none else some rest) }

end Sys2Proof.Machine
end

