-- ==== Sys2Proof/Machine/Launches.lean ====
section
/-!
DEFINITION. Dispatch operations with their prologues, the completion of launches, commands and launch-graph entries
(R157, R263, R335, R337, R344 to R348, R350).
-/

namespace Sys2Proof.Machine

/-! ### Prologues -/

/-- Whether a feature of R332 is enabled. -/
def State.feature (s : State) (n : Nat) : Bool := s.bar.enabled && s.bar.featEn.toNat / 2 ^ n % 2 = 1

/-- A front-end core. -/
def Die.hart (d : Die) (h : Nat) : Hart := Tab.getD d.harts h Hart.reset

/-- The state with a front-end core changed. -/
def State.modHart (s : State) (die h : Nat) (f : Hart → Hart) : State :=
  s.modDie die (fun d => { d with harts := Tab.set d.harts h (f (d.hart h)) })

/-- The state with a dispatch operation changed. -/
def State.modDispatch (s : State) (die h : Nat) (f : Dispatch → Dispatch) : State :=
  s.modDie die (fun d => { d with dispatches := Tab.modify d.dispatches h f })

/-- A front-end core that can run a prologue: one that runs none and waits in none. -/
def Die.idleHart (d : Die) : Option Nat := (List.range 4).find? (fun h => (d.hart h).dispatch.isNone && !(d.hart h).waiting)

/-- The prologue of a dispatch operation started (R346): user mode, with the registers given; the copy's address, the
stack and the return address, an even one, are the front end's choice, which the spec leaves open. The firmware's registers are set
aside. -/
def State.startPrologue (s : State) (die handle h : Nat) (d : Dispatch) : State :=
  let f := s.free
  let open_ (k : Nat) : Word := BitVec.ofNat 64 (2 * Config.freeNat f k)
  let p := packetOf d.copy.toNat
  let t := s.modHart die h (fun x =>
    { x with machineMode := false, fctx := d.ctx, pc := p.prologue, dispatch := some handle, waiting := false, reserved := none,
             firmware := some { xregs := x.xregs, pc := x.pc, fctx := x.fctx },
             xregs := [(1, open_ 1), (2, open_ 2), (10, open_ 10), (11, BitVec.ofNat 64 d.iteration), (12, p.params)] })
  { t.modDispatch die handle (fun x =>
      { x with hart := some h, instructions := 0, started := (s.die die).cyc, copyAt := open_ 10, stackTop := open_ 2,
               returnTo := open_ 1, stack := [] })
    with free := f + 1 }

/-- The dispatch operations whose prologue waits for a front-end core, served while there is one, lowest handle first. -/
def State.nextPrologue (s : State) (die : Nat) : State :=
  match (s.die die).idleHart, (s.die die).dispatches.find? (fun d => d.2.hart.isNone && d.2.launch.isNone) with
  | some h, some (handle, d) => s.startPrologue die handle h d
  | _, _ => s

/-- The registers of a core that goes back from a prologue to the firmware. -/
def Hart.leave (x : Hart) : Hart :=
  match x.firmware with
  | some f => { x with machineMode := true, dispatch := none, firmware := none, xregs := f.xregs, pc := f.pc, fctx := f.fctx }
  | none => { x with machineMode := true, dispatch := none }

/-- A front-end core leaves a prologue and goes back to the firmware. -/
def State.leavePrologue (s : State) (die h : Nat) : State := s.modHart die h Hart.leave

/-! ### Starting a launch -/

/-- What the checks of R344 step 3 find of a packet in a context: the detail of the first that fails, or the group list.
A reserved bit of the packet or of its group list comes first (R348). -/
def State.checkPacket (s : State) (ctx : Nat) (p : Packet) (dies : BitVec 4) : Found (Nat × List Nat) :=
  let first := p.detail
  if first = some 1 || p.glist % 16 ≠ 0 then .ok (first.getD 2, []) s
  else
    match s.readGroups ctx p with
    | .fail c k a t =>
      match first with
      | some d => .ok (d, []) t
      | none => .fail c k a t
    | .wait t => .wait t
    | .ok es t =>
      .ok (if es.any (fun e => e ≥ 2 ^ 64) then 1
        else first.getD (if !groupsOk p es then 6 else if dies = 0 then 7 else 0), es) t

/-- How a dispatch operation goes on: it is under way, it has ended, or it waits for the driver. -/
inductive Begun where
  | going (s : State)
  | ended (x : Status) (s : State)
  | wait (s : State)

/-- The packet of a dispatch operation checked and handed to the distributors of the named dies (R344). -/
def State.launchPacket (s : State) (die handle : Nat) (d : Dispatch) : Begun :=
  let p := packetOf d.copy.toNat
  let status (code detail : Nat) : Status := { code := code, detail := detail, launches := d.launches }
  match s.checkPacket d.ctx p d.dies with
  | .fail code cause addr t => .ended { faultStatus t d.ctx code cause addr with launches := d.launches } t
  | .wait t => .wait t
  | .ok (detail, es) t =>
    if detail ≠ 0 then .ended (status statusRejected detail) t
    else
      let (id, t1) := t.fresh
      let l : Launch := { ctx := d.ctx, pk := p, dies := d.dies, next := 0, total := p.blocks, ended := 0, faulted := none,
                          home := die, handle := handle, groups := es.map (BitVec.ofNat 64), ordered := [] }
      let t2 : State := { t1 with launches := Tab.set t1.launches id l }
      let t3 := (List.range 4).foldl (fun u k =>
        if d.dies.toNat / 2 ^ k % 2 = 1 then u.modDie k (fun x => { x with pending := x.pending ++ [id] }) else u) t2
      .going (t3.modDispatch die handle (fun x => { x with launch := some id, launches := x.launches + 1, hart := none }))

/-- The handle that a die gives next (R344): not zero, and not in use. -/
def Die.freeHandle (d : Die) : Nat → Nat → Nat
  | 0, h => h
  | fuel + 1, h => if h % 2 ^ 32 = 0 ∨ (Tab.get? d.dispatches (h % 2 ^ 32)).isSome then Die.freeHandle d fuel (h + 1) else h % 2 ^ 32

/-- A dispatch operation for the bits of a packet, on a die and in a context (R344): its handle, and how it goes on. -/
def State.dispatchPacket (s : State) (die ctx : Nat) (w : BitVec 512) (dies : BitVec 4) (c : Completion) : Nat × Begun :=
  let handle := (s.die die).freeHandle 64 (s.die die).nextHandle
  let d : Dispatch := { die := die, ctx := ctx, original := w, copy := w, dies := dies, completion := c, copyAt := 0, stackTop := 0,
                        returnTo := 0, stack := [], iteration := 0, marked := false, launches := 0, hart := none, instructions := 0, started := 0, launch := none }
  let s1 := s.modDie die (fun x => { x with nextHandle := handle + 1, dispatches := Tab.set x.dispatches handle d })
  let begun :=
    if (packetOf w.toNat).prologue = 0 then s1.launchPacket die handle d
    else if s.feature 1 then .going (s1.nextPrologue die)
    else
      match s1.checkPacket ctx (packetOf w.toNat) dies with
      | .fail code cause addr t => .ended (faultStatus t ctx code cause addr) t
      | .wait t => .wait t
      | .ok (detail, _) t => .ended (.rejected (if detail = 0 then 8 else detail)) t
  (handle, match begun with
    | .ended x t => .ended x (t.modDie die (fun y => { y with dispatches := Tab.erase y.dispatches handle }))
    | .wait t => .wait (t.modDie die (fun y => { y with dispatches := Tab.erase y.dispatches handle }))
    | .going t => .going t)

/-- A dispatch operation for the packet at an address, read once as an acquire at system scope (R344). -/
def State.startDispatch (s : State) (die ctx : Nat) (va : Word) (dies : BitVec 4) (c : Completion) : Nat × Begun :=
  match s.frontNat ctx va 64 with
  | .fail code cause addr t =>
    let handle := (t.die die).freeHandle 64 (t.die die).nextHandle
    (handle, .ended (faultStatus t ctx code cause addr) (t.modDie die (fun x => { x with nextHandle := handle + 1 })))
  | .wait t => (0, .wait t)
  | .ok w t => t.dispatchPacket die ctx (BitVec.ofNat 512 w) dies c

/-- Whether a die has 32 dispatch operations in progress (R344). -/
def Die.dispatchFull (d : Die) : Bool := d.dispatches.length ≥ 32

/-! ### Launch graphs -/

/-- The number of an entry that runs, in the table of a run's entries; an ended entry is listed with its status word. -/
def entryRunning : Nat := 2 ^ 32

/-- Entries of a launch graph (R350). -/
def entryCount (desc : List Byte) : Nat := fld (leNat (desc.take 64)) 0 7

/-- Entry `i` of a launch graph as a number of 1,024 bits (R350). -/
def entryWord (desc : List Byte) (i : Nat) : Nat := leNat ((desc.drop (64 + 128 * i)).take 128)

/-- Whether an entry can be dispatched: it has not been, and every predecessor has ended COMPLETE or CANCELLED (R350). -/
def GraphRun.entryReady (r : GraphRun) (desc : List Byte) (i : Nat) : Bool :=
  (Tab.get? r.entries i).isNone &&
    (List.range (entryCount desc)).all (fun j =>
      !(flag (entryWord desc i) (512 + j)) || (match Tab.get? r.entries j with
        | some v => v % 2 ^ 8 ≤ 1 && v ≠ entryRunning
        | none => false))

/-- The entries of a launch-graph run that are ready, dispatched in ascending index while the die has room (R350). -/
def State.progress (s : State) (g : Nat) : Nat → State
  | 0 => s
  | fuel + 1 =>
    match Tab.get? s.graphs g with
    | none => s
    | some x =>
      match x.run with
      | none => s
      | some r =>
        if x.stage || !r.begun || (s.die r.home).dispatchFull then s
        else
          match (List.range (entryCount x.desc)).find? (r.entryReady x.desc) with
          | none => s
          | some i =>
            let w := entryWord x.desc i
            let mark (v : Nat) (started : Nat) (t : State) : State := t.modRun g (fun r =>
              { r with entries := Tab.set r.entries i v, dispatched := r.dispatched + started })
            match (s.dispatchPacket r.home x.ctx (BitVec.ofNat 512 w) (BitVec.ofNat 4 (w / 2 ^ 576)) (.entry g i)).2 with
            | .going t => State.progress (mark entryRunning 1 t) g fuel
            | .ended y t => State.progress (mark y.image 1 t) g fuel
            | .wait t => t

/-! ### Telling what has ended -/

/-- A command that has completed (R335): it leaves its queue's open commands, its signal is written, and its vector is
sent if it asks for one. -/
def State.completeCommand (s : State) (id : Nat) (x : Status) : State :=
  match Tab.get? s.commands id with
  | none => s
  | some c =>
    let s1 : State := { s with commands := Tab.erase s.commands id,
                               queues := Tab.modify s.queues c.queue (fun q => { q with open_ := q.open_.filter (· ≠ id) }) }
    let s2 := s1.tellSignal c.ctx c.command.w7 x
    if flag c.command.w0.toNat 9 then s2.sendVector (fld c.command.w0.toNat 16 8) else s2

/-- What has ended is told as it was asked for (R337, R344, R350, R352, R355). -/
def State.tell (s : State) (c : Completion) (x : Status) : State :=
  match c with
  | .nothing => s
  | .signal ctx va => s.tellSignal ctx va x
  | .command id => s.completeCommand id x
  | .entry g i => (s.modRun g (fun r => { r with entries := Tab.set r.entries i x.image })).progress g 64
  | .timer die t ctx va =>
    (s.modDie die (fun d => { d with timers := Tab.modify d.timers t (fun y => { y with busy := false }) })).tellSignal ctx va x

/-- Whether what has ended cannot be told yet, a page of its signal being served by the driver (R374). -/
def State.tellWait (s : State) (c : Completion) : Option State :=
  match c with
  | .nothing | .entry _ _ => none
  | .signal ctx va | .timer _ _ ctx va => s.signalWait ctx va
  | .command id =>
    match Tab.get? s.commands id with
    | none => none
    | some c => s.signalWait c.ctx c.command.w7

/-- A dispatch operation ends (R344): its status is told, and a prologue that waits for a front-end core may start. -/
def State.endDispatch (s : State) (die handle : Nat) (x : Status) : State :=
  match Tab.get? (s.die die).dispatches handle with
  | none => s
  | some d =>
    let t := s.modDie die (fun y => { y with dispatches := Tab.erase y.dispatches handle })
    (t.tell d.completion x).nextPrologue die

/-! ### The completion of a launch -/

/-- The locations of a launch's ordered updates that another access has left undefined hold undefined values (R157). -/
def State.settle (s : State) (l : Launch) : State :=
  let f := s.free
  let lost := (l.ordered.filter (fun o => o.2)).map Prod.fst
  let put (ws : List HomeWrite) (a : Nat) : List HomeWrite :=
    byteWrites a ((List.range 4).map (fun i => (BitVec.ofNat 8 (Config.freeNat f (a + i)) : Byte))) ws
  { s with writes := lost.foldl put s.writes, free := f + 1 }

/-- LAUNCH_COMPLETE (R263, R344, R347, R416): every block has ended and every ordered update has been folded. A marked
iteration repeats its prologue, else the dispatch operation ends. -/
def execLaunchComplete (launch : Nat) (s : State) : Host.Outcome State Fault Refusal :=
  match Tab.get? s.launches launch with
  | none => .next s
  | some l =>
    let folding : Bool := s.cores.any (fun c => c.2.ports.any (fun p => p.2.any (fun u => u.launch = launch)))
    if l.next < l.total || l.ended < l.total || folding then .next s
    else
      match Tab.get? (s.die l.home).dispatches l.handle with
      | none => .next (State.settle { s with launches := Tab.erase s.launches launch } l)
      | some d =>
        match if d.marked then none else s.tellWait d.completion with
        | some t => .next t
        | none =>
          let s1 := State.settle { s with launches := Tab.erase s.launches launch } l
          let s2 := match l.faulted with
            | some c => s1.trail l.home l.ctx 0x3f 0x02 statusFaulted c (some l.handle)
            | none => s1
          if d.marked then
            .next ((s2.modDispatch l.home l.handle (fun x =>
              { x with copy := x.original, iteration := x.iteration + 1, marked := false, hart := none, launch := none })).nextPrologue
              l.home)
          else
            let x : Status := match l.faulted with
              | some c => { code := statusFaulted, detail := c, launches := d.launches }
              | none => { code := statusComplete, detail := 0, launches := d.launches }
            .next (s2.endDispatch l.home l.handle x)

/-! ### The ends of a prologue -/

/-- The dispatch operation whose prologue a front-end core runs. -/
def State.prologueOf (s : State) (die h : Nat) : Option (Nat × Dispatch) :=
  let d := s.die die
  (d.hart h).dispatch.bind (fun k => (Tab.get? d.dispatches k).map (fun x => (k, x)))

/-- A prologue ends and its dispatch operation with it (R346, R347). -/
def State.endPrologue (s : State) (die h : Nat) (code detail : Nat) : State :=
  match s.prologueOf die h with
  | none => s
  | some (k, d) =>
    match s.tellWait d.completion with
    | some t => t
    | none => (s.leavePrologue die h).endDispatch die k { code := code, detail := detail, launches := d.launches }

/-- PROLOGUE_INSTRUCTION_LIMIT (R346): the prologue has retired its 257th instruction. -/
def execPrologueInstructionLimit (die hart : Nat) (s : State) : Host.Outcome State Fault Refusal :=
  match s.prologueOf die hart with
  | none => .next s
  | some (_, d) => .next (if d.instructions > Config.prologueInstructions then s.endPrologue die hart statusPrologue 0xfe else s)

/-- PROLOGUE_CYCLE_LIMIT (R346): the prologue has run for more than 4,096 local cycles. -/
def execPrologueCycleLimit (die hart : Nat) (s : State) : Host.Outcome State Fault Refusal :=
  match s.prologueOf die hart with
  | none => .next s
  | some (_, d) =>
    .next (if (s.die die).cyc > d.started + Config.prologueCycles then s.endPrologue die hart statusPrologue 0xff else s)

/-- PROLOGUE_EXCEPTION (R346): a prologue that has taken an exception with an mcause, its core being in machine mode since, ends. -/
def execPrologueException (die hart cause : Nat) (s : State) : Host.Outcome State Fault Refusal :=
  let x := (s.die die).hart hart
  .next (if x.machineMode && x.mcause.toNat = cause then s.endPrologue die hart statusPrologue cause else s)

/-- PROLOGUE_RETURN (R347): a prologue that has come to its return address ends, and the packet copy is checked and handed
to the distributors. -/
def execPrologueReturn (die hart : Nat) (s : State) : Host.Outcome State Fault Refusal :=
  match s.prologueOf die hart with
  | none => .next s
  | some (k, d) =>
    if ((s.die die).hart hart).pc ≠ d.returnTo then .next s
    else
      match s.launchPacket die k d with
      | .wait u => .next u
      | .going u => .next ((u.leavePrologue die hart).nextPrologue die)
      | .ended x u =>
        match s.tellWait d.completion with
        | some v => .next v
        | none => .next ((u.leavePrologue die hart).endDispatch die k x)

end Sys2Proof.Machine
end

