-- ==== Sys2Proof/Machine/Graphs.lean ====
section
/-!
DEFINITION. Graph slots, stage graphs and launch graphs: upload checks, triggers, patch lists, seeds, reserves, the
cumulus launcher, and the ends of runs (R308 to R315, R323 to R327, R349 to R353).
-/

namespace Sys2Proof.Machine

/-! ### Checks at upload -/

/-- Whether two ranges of addresses share a byte. -/
def overlap (a : Nat × Nat) (b : Nat × Nat) : Bool := a.1 < b.1 + b.2 && b.1 < a.1 + a.2

/-- Whether no two ranges of a list share a byte (R310). -/
def apart : List (Nat × Nat) → Bool
  | [] => true
  | a :: r => r.all (fun b => !(overlap a b)) && apart r

/-- The pool and list areas of a node (R309). -/
def NodeInfo.areas (d : NodeInfo) : List (Nat × Nat) :=
  [(d.pbase.toNat, d.slots * d.size), (d.lbase.toNat, d.slots * 8 * d.group)]

/-- Whether the fields of a node keep R310, apart from its group list. -/
def NodeInfo.ok (d : NodeInfo) : Bool :=
  d.pk.detail.isNone && d.slots > 0 && d.pbase.toNat % 512 = 0 && d.lbase.toNat % 512 = 0

/-- Whether a block of a packet fits beside others on a core that holds nothing else (R233, R311): where the context holds the debug
right, one of them with the debug flag keeps the monitor's slot out of quadrant 0. -/
def besides (debug : Bool) (p : Packet) (others : List Packet) : Bool :=
  let slots (q : Nat) : Nat := if q = 0 && debug && (p :: others).any Packet.debug then 15 else 16
  (List.range 4).all (fun q => (others.map (fun w => w.inQuad q)).sum + p.inQuad q ≤ slots q
      && (others.map (fun w => w.quadRegs q)).sum + p.quadRegs q ≤ 2048)
    && (others.map Packet.scratch).sum + p.scratch ≤ 128 && !(p.matrix && others.any Packet.matrix)
    && !(p.dune && others.any Packet.dune) && (others.map (fun w => w.gcount + 1)).sum + (p.gcount + 1) ≤ 256

/-- Whether the reserves of nodes fit on the empty cores of their dies (R311): the packets set so far with their cores. -/
def reservesFit (debug : Bool) : List NodeInfo → List (Nat × Packet) → Bool
  | [], _ => true
  | d :: r, set_ =>
    match ((List.range 48).map (fun i => 48 * d.die + i)).find? (fun n =>
        besides debug d.pk ((set_.filter (fun x => x.1 = n)).map Prod.snd)) with
    | none => false
    | some n => reservesFit debug r ((n, d.pk) :: set_)

/-- The bytes of a stage graph before its group lists (R308). -/
def stageBytes (desc : List Byte) : Nat := 64 + 64 * graphNodes desc

/-- The reserved fields of a graph header (R308). -/
def headerReserved : Nat := fieldMask [(192, 320), (176, 16), (13, 51), (7, 1)]

/-- The group lists of the nodes of a stage graph, read in its context, and whether they keep R235. -/
def State.nodeGroups (s : State) (ctx : Nat) : List NodeInfo → Found (List (List Nat))
  | [] => .ok [] s
  | d :: r =>
    match s.readGroups ctx d.pk with
    | .fail c k a t => .fail c k a t
    | .wait t => .wait t
    | .ok es t =>
      match State.nodeGroups t ctx r with
      | .ok gs u => .ok (es :: gs) u
      | x => x

/-- The nodes of a stage graph in ascending index. -/
def allNodes (desc : List Byte) : List NodeInfo := (List.range (graphNodes desc)).map (graphNode desc)

/-- The check of a stage graph (R310): the bytes to store, with the group lists after the nodes, or none. -/
def State.checkStage (s : State) (ctx : Nat) (desc : List Byte) : Found (Option (List Byte)) :=
  let h := descWord desc 0
  let nodes := allNodes desc
  if Nat.land h headerReserved ≠ 0 ∨ fld h 128 4 ≠ 0 ∨ nodes = [] ∨ nodes.length > 64 ∨ !(nodes.all NodeInfo.ok)
      ∨ !(apart (nodes.flatMap NodeInfo.areas)) ∨ !(reservesFit (s.mayDebug ctx) nodes []) then .ok none s
  else
    match s.nodeGroups ctx nodes with
    | .fail c k a t => .fail c k a t
    | .wait t => .wait t
    | .ok gs t =>
      if (nodes.zip gs).all (fun x => groupsOk x.1.pk x.2) then
        .ok (some (desc.take (stageBytes desc) ++ gs.flatMap (fun es => es.flatMap (leBytes 16)))) t
      else .ok none t

/-- The group list of a node, kept with its descriptor. -/
def storedGroups (desc : List Byte) (i : Nat) : List Nat :=
  let before := (((allNodes desc).take i).map (fun d => d.pk.gcount)).sum
  (List.range (graphNode desc i).pk.gcount).map (fun k => leNat ((desc.drop (stageBytes desc + 16 * (before + k))).take 16))

/-- Whether the entries of a launch graph have no cycle (R350): entries are taken while their predecessors are. -/
def acyclic (masks : List Nat) : Nat → List Nat → Bool
  | 0, done => done.length = masks.length
  | fuel + 1, done =>
    acyclic masks fuel (done ++ (List.range masks.length).filter (fun i =>
      !done.contains i && (List.range masks.length).all (fun j => !(flag (masks.getD i 0) j) || done.contains j)))

/-- The packets of a launch graph checked with their group lists (R350). -/
def State.entryGroups (s : State) (ctx : Nat) : List Packet → Found Bool
  | [] => .ok true s
  | p :: r =>
    match s.readGroups ctx p with
    | .fail c k a t => .fail c k a t
    | .wait t => .wait t
    | .ok es t => if groupsOk p es then State.entryGroups t ctx r else .ok false t

/-- The check of a launch graph (R350). -/
def State.checkLaunchGraph (s : State) (ctx : Nat) (desc : List Byte) : Found (Option (List Byte)) :=
  let n := entryCount desc
  let es := (List.range n).map (entryWord desc)
  let masks := es.map (fun w => fld w 512 64)
  let packets := es.map (fun w => packetOf (w % 2 ^ 512))
  let ok (i w : Nat) : Bool := fld w 512 64 < 2 ^ n && !(flag w (512 + i)) && fld w 580 444 = 0
  if leNat (desc.take 64) ≥ 2 ^ 7 ∨ n = 0 ∨ n > 64 ∨ !((es.zipIdx).all (fun x => ok x.2 x.1)) ∨ !(acyclic masks n [])
      ∨ !(packets.all (fun p => p.detail.isNone)) then .ok none s
  else
    match s.entryGroups ctx packets with
    | .fail c k a t => .fail c k a t
    | .wait t => .wait t
    | .ok good t => .ok (if good then some desc else none) t

/-- The check of a descriptor of a kind. -/
def State.checkGraphDesc (s : State) (ctx : Nat) (stage : Bool) (desc : List Byte) : Found (Option (List Byte)) :=
  if stage then s.checkStage ctx desc else s.checkLaunchGraph ctx desc

/-- The descriptor at an address, read once (R308, R349, R350); a count out of range reads the header only. -/
def State.readDesc (s : State) (ctx : Nat) (va : Word) (stage : Bool) : Found (List Byte) :=
  match s.frontRead ctx va 64 with
  | .fail c k a t => .fail c k a t
  | .wait t => .wait t
  | .ok h t =>
    let n := fld (leNat h) 0 7
    if n > 64 then .ok h t
    else
      match t.frontRead ctx (va + 64) ((if stage then 64 else 128) * n) with
      | .ok r u => .ok (h ++ r) u
      | x => x

/-! ### Triggers -/

/-- Whether a slot has a run in progress, one due to start included (R351). -/
def GraphSlot.busy (g : GraphSlot) : Bool := g.run.isSome || g.due.isSome

/-- A trigger of a slot that holds a graph (R351): a run is due, or pending, or the trigger is discarded with the slot's
lost bit set, which is told as BUSY. -/
def State.triggerSlot (s : State) (g : Nat) (x : GraphSlot) (t : Trigger) : State × Bool :=
  if !x.busy then (s.modGraph g (fun y => { y with due := some t }), true)
  else if x.pending.isNone then (s.modGraph g (fun y => { y with pending := some t }), true)
  else ({ s with bar := { s.bar with lostTriggers := s.bar.lostTriggers ||| BitVec.ofNat 16 (2 ^ g) } }, false)

/-- TRIGGER_WRITE (R351, R352): a write to `trig`g; a slot without a graph sets its lost bit. -/
def execTriggerWrite (slot : Nat) (value : BitVec 64) (s : State) : Host.Outcome State Fault Refusal :=
  if slot ≥ 16 then .next s
  else
    match Tab.get? s.graphs slot with
    | none => .next { s with bar := { s.bar with lostTriggers := s.bar.lostTriggers ||| BitVec.ofNat 16 (2 ^ slot) } }
    | some x => .next (s.triggerSlot slot x { value := value, completions := [], home := 0 }).1

/-! ### Patch lists -/

/-- A patch entry (R353): its kind, its target, its offset, its bytes. -/
structure Patch where
  kind : Nat
  target : Nat
  offset : Nat
  bytes : List Byte

/-- A patch entry of two words, where it is well formed for a descriptor of `n` elements of `size` bytes (R353). -/
def patchOf (n : Nat) (w0 w1 : Nat) : Option Patch :=
  let width := 2 ^ fld w0 2 2
  let kind := fld w0 0 2
  let target := fld w0 16 48
  let offset := fld w0 8 8
  let value : Bool := w1 < 2 ^ (8 * width)
  let p : Patch := { kind := kind, target := target, offset := offset, bytes := leBytes width w1 }
  if kind = 0 then
    if fld w0 4 4 = 0 ∧ offset = 0 ∧ target % width = 0 ∧ value then some p else none
  else if kind = 1 then
    if fld w0 4 4 = 0 ∧ (target < n ∨ target = 0xffff) ∧ offset < 64 ∧ offset % width = 0 ∧ value then some p else none
  else none

/-- The place of an element in a descriptor: a node, the packet of an entry, or the header (R353). -/
def elementAt (stage : Bool) (target : Nat) : Nat :=
  if target = 0xffff then 0 else 64 + (if stage then 64 else 128) * target

/-- A descriptor with bytes replaced. -/
def patchDesc (desc : List Byte) (at_ : Nat) (bs : List Byte) : List Byte := desc.take at_ ++ bs ++ desc.drop (at_ + bs.length)

/-- The stores of a patch list performed in order (R353). -/
def State.patchStores (s : State) (ctx : Nat) : List Patch → Found Unit
  | [] => .ok () s
  | p :: r =>
    if p.kind ≠ 0 then State.patchStores s ctx r
    else
      match s.frontWrite ctx ((BitVec.ofNat 48 p.target).signExtend 64) p.bytes with
      | .ok _ t => State.patchStores t ctx r
      | x => x

/-- What the patch list of a trigger leaves (R353): the new descriptor and the list's own signal, a status that ends the
run, or a wait. -/
inductive Patched where
  | ok (desc : List Byte) (signal : Word) (s : State)
  | ended (x : Status) (signal : Word) (s : State)
  | wait (s : State)

/-- The patch list of a trigger applied (R351, R353). -/
def State.applyPatches (s : State) (x : GraphSlot) (value : Word) : Patched :=
  let va := addr48 value.toNat 0
  if value = 0 then .ok x.desc 0 s
  else
    match s.frontNat x.ctx va 16 with
    | .wait t => .wait t
    | .fail c k a t => .ended (faultStatus t x.ctx c k a) 0 t
    | .ok h t =>
      let signal : Word := BitVec.ofNat 64 (h / 2 ^ 64)
      let count := fld h 0 13
      if Nat.land value.toNat (2 ^ 64 - 2 ^ 48 + 15) ≠ 0 ∨ fld h 13 51 ≠ 0 ∨ count > 4096 ∨ signal.toNat % 16 ≠ 0 then
        .ended (.rejected 11) signal t
      else
        match t.frontRead x.ctx (va + 16) (16 * count) with
        | .wait u => .wait u
        | .fail c k a u => .ended (faultStatus u x.ctx c k a) signal u
        | .ok bs u =>
          let n := if x.stage then graphNodes x.desc else entryCount x.desc
          let word (i : Nat) : Nat := leNat ((bs.drop (8 * i)).take 8)
          match (List.range count).mapM (fun i => patchOf n (word (2 * i)) (word (2 * i + 1))) with
          | none => .ended (.rejected 11) signal u
          | some ps =>
            let body := if x.stage then x.desc.take (stageBytes x.desc) else x.desc
            let candidate := ps.foldl (fun d p =>
              if p.kind = 1 then patchDesc d (elementAt x.stage p.target + p.offset) p.bytes else d) body
            match u.checkGraphDesc x.ctx x.stage candidate with
            | .wait v => .wait v
            | .fail c k a v => .ended (faultStatus v x.ctx c k a) signal v
            | .ok none v => .ended (.rejected 11) signal v
            | .ok (some desc) v =>
              match v.patchStores x.ctx ps with
              | .wait w => .wait w
              | .fail c k a w => .ended (faultStatus w x.ctx c k a) signal { v with netin := w.netin }
              | .ok _ w => .ok desc signal w

/-! ### The start of a run -/

/-- The signal that a run reports to: the patch list's, or that of the UPLOAD (R352). -/
def GraphSlot.report (x : GraphSlot) (signal : Word) : Completion := .signal x.ctx (if signal = 0 then x.signal else signal)

/-- The reserves of the nodes of a graph set aside one after the other, or none while one does not fit (R311). -/
def State.setReserves (s : State) (g : Nat) (x : GraphSlot) : List Nat → Option State
  | [] => some s
  | i :: r =>
    let d := graphNode x.desc i
    match ((List.range 48).map (fun k => 48 * d.die + k)).find? (fun n => s.fits n x.ctx d.pk none) with
    | none => none
    | some n =>
      let node : Node := { pool := [], commits := 0, started := 0, reserve := n, reserveBusy := false, waiters := [], served := [] }
      State.setReserves (s.modRun g (fun y => { y with nodes := Tab.set y.nodes i node })) g x r

/-- The seeds of a graph applied from seed `k` at an address on (R315): the number of the first that fails. -/
def State.applySeeds (s : State) (g : Nat) (x : GraphSlot) (va : Word) (k : Nat) : Nat → Found (Option Nat)
  | 0 => .ok none s
  | n + 1 =>
    match s.frontNat x.ctx va 16 with
    | .wait t => .wait t
    | .fail _ _ _ t => .ok (some k) t
    | .ok h t =>
      let i := fld h 0 6
      let d := graphNode x.desc i
      if i ≥ graphNodes x.desc ∨ h ≥ 2 ^ 64 ∨ (d.join ∧ fld h 8 8 = 0) then .ok (some k) t
      else
        match t.frontNat x.ctx (va + 16) d.size with
        | .wait u => .wait u
        | .fail _ _ _ u => .ok (some k) u
        | .ok payload u =>
          match u.emit g x.ctx i d h payload 0 with
          | .done _ v => State.applySeeds v g x (va + BitVec.ofNat 64 (16 + d.size)) (k + 1) n
          | .wait v => .wait v
          | _ => .ok (some k) u

/-- A run that has not begun (R311). -/
def GraphRun.start (cs : List Completion) (home : Nat) : GraphRun :=
  { begun := false, completions := cs, nodes := [], committed := 0, blocks := 0, partials := 0, fulls := 0, faulted := none,
    seedFail := none, entries := [], dispatched := 0, home := home }

/-- A run ended: its completions are told, and the pending trigger is due (R327, R351, R352). -/
def State.endRun (s : State) (g : Nat) (cs : List Completion) (x : Status) : State :=
  let s1 := s.modGraph g (fun y => { y with run := none, due := y.pending, pending := none })
  cs.foldl (fun t c => t.tell c x) s1

/-- Whether some completion cannot be told yet. -/
def State.tellWaits (s : State) (cs : List Completion) : Option State := cs.findSome? s.tellWait

/-- A run begins once its reserves are set aside (R311), and its seeds are applied before any block starts (R315). -/
def State.beginRun (s : State) (g : Nat) (x : GraphSlot) : State :=
  if !x.stage then (s.modRun g (fun r => { r with begun := true })).progress g 64
  else
    match (s.modRun g (fun r => { r with begun := true })).setReserves g x (List.range (graphNodes x.desc)) with
    | none => s
    | some t =>
      let h := descWord x.desc 0
      match t.applySeeds g x (addr48 h 128) 0 (fld h 112 16) with
      | .wait u => { s with contexts := u.contexts, cores := u.cores, writes := u.writes, bar := u.bar,
                            netin := u.netin, free := u.free, nextUid := u.nextUid }
      | .fail _ _ _ u => u
      | .ok bad u => u.modRun g (fun r => { r with seedFail := bad })

/-- GRAPH_RUN_START (R311, R315, R350, R353): the patch list of a due trigger is applied, and the run begins when its
reserves can be set aside. -/
def execGraphRunStart (slot : Nat) (s : State) : Host.Outcome State Fault Refusal :=
  match Tab.get? s.graphs slot with
  | none => .next s
  | some x =>
    match x.run, x.due with
    | some r, _ => .next (if r.begun then s else s.beginRun slot x)
    | none, none => .next s
    | none, some due =>
      match s.applyPatches x due.value with
      | .wait t => .next t
      | .ended st signal t =>
        let cs := x.report signal :: due.completions
        match s.tellWaits cs with
        | some u => .next u
        | none => .next ((t.endRun slot cs st).trail due.home x.ctx 0x3f 0x02 st.code st.detail (some 0))
      | .ok desc signal t =>
        let y : GraphSlot := { x with desc := desc, due := none,
                                      run := some (GraphRun.start (x.report signal :: due.completions) due.home) }
        .next (({ t with graphs := Tab.set t.graphs slot y }).beginRun slot y)

/-! ### The cumulus launcher -/

/-- The PENDING slots of a node, the lowest ready key first (R324). -/
def Node.ready (n : Node) : List Nat :=
  let ks := (n.inState .pending).map (fun i => ((n.slot i).key, i))
  (ks.mergeSort (fun a b => a.1 ≤ b.1)).map Prod.snd

/-- Whether a node is DUE (R323). -/
def State.nodeDue (s : State) (g : Nat) (d : NodeInfo) (n : Node) : Bool :=
  let ps := n.inState .pending
  let now := (s.die d.die).cyc
  let oldest := (ps.map (fun i => (n.slot i).since)).foldl min now
  !ps.isEmpty && (ps.length ≥ d.group || (d.timer ≠ 0 && now - oldest ≥ d.timer) || s.nodeBlocks g none = 0)

/-- The DUE nodes that a die serves, in the ready queue order: priority, ready key, node, and slot (R324). -/
def State.dueNodes (s : State) (die : Nat) : List (Nat × Nat) :=
  let found := s.graphs.flatMap (fun g =>
    match g.2.run with
    | none => []
    | some r =>
      if !(g.2.stage && r.begun && r.seedFail.isNone) then []
      else r.nodes.filterMap (fun n =>
        let d := graphNode g.2.desc n.1
        if d.die = die ∧ s.nodeDue g.1 d n.2 then
          some ((7 - d.prio, (n.2.slot (n.2.ready.getD 0 0)).key), n.1, g.1)
        else none))
  let before (a b : (Nat × Nat) × Nat × Nat) : Bool :=
    if a.1.1 ≠ b.1.1 then a.1.1 < b.1.1
    else if a.1.2 ≠ b.1.2 then a.1.2 < b.1.2
    else if a.2.1 ≠ b.2.1 then a.2.1 < b.2.1
    else a.2.2 ≤ b.2.2
  (found.mergeSort before).map (fun x => (x.2.2, x.2.1))

/-- A block of a DUE node handed to the distributor (R311, R313, R314, R324): on a core outside the reserves, else in the
node's reserve. It is not placed while a record's release covers a burst that has not committed (R320), or its record list cannot be
written yet; a fault of the list is recorded. The state, and whether the block was placed. -/
def State.launchNode (s : State) (g i : Nat) : State × Bool :=
  match (Tab.get? s.graphs g).bind (fun x => x.run.map (fun r => (x, r))) with
  | none => (s, false)
  | some (x, r) =>
    match Tab.get? r.nodes i with
    | none => (s, false)
    | some n =>
      let d := graphNode x.desc i
      let covered : Bool := (n.ready.take d.group).all (fun k => (n.slot k).owed.isEmpty)
      let place : Option (List Nat × Bool) :=
        if !covered then none
        else
        match s.findCores d.die x.ctx d.pk with
        | some cs => some (cs, false)
        | none => if !n.reserveBusy && s.fits n.reserve x.ctx d.pk (some (g, i)) then some ([n.reserve], true) else none
      match place with
      | none => (s, false)
      | some (cores, inReserve) =>
        let take := (n.ready).take d.group
        let first := take.getD 0 0
        let addr := d.lbase + BitVec.ofNat 64 (8 * d.group * first)
        let bytes := take.flatMap (fun k => leBytes 8 (d.pbase + BitVec.ofNat 64 (d.size * k)).toNat)
        match s.frontWrite x.ctx addr bytes with
        | .wait t => (t, false)
        | .fail c k a t => (t.logFault x.ctx [recordWord c k 1 0, 0, a, 0, 0, 0, 0, 0], false)
        | .ok _ t =>
          let depth := (take.map (fun k => (n.slot k).depth)).foldl max 0
          let rec_ : RecordBlock := { graph := g, node := i, depth := depth, held := take, listAddr := addr,
                                      count := take.length, reserved := inReserve, freed := [] }
          let hold (p : Tab RecordSlot) (k : Nat) : Tab RecordSlot := Tab.modify p k (fun z => { z with state := .held })
          let t1 := t.modNode g i (fun n => { n with pool := take.foldl hold n.pool, started := n.started + 1,
                                                     reserveBusy := n.reserveBusy || inReserve })
          let t2 := t1.modRun g (fun r => { r with blocks := r.blocks + 1,
                                                   partials := r.partials + (if take.length < d.group then 1 else 0) })
          (t2.startBlock 0 x.ctx (n.started % 2 ^ 24) d.pk (storedGroups x.desc i) cores (some rec_), true)

/-- The first of some DUE nodes that a block can be placed of now (R324). -/
def State.launchFirst (s : State) : List (Nat × Nat) → State
  | [] => s
  | x :: r =>
    match s.launchNode x.1 x.2 with
    | (t, true) => t
    | (t, false) => State.launchFirst t r

/-- The waiters of the pools that a die serves: those whose service waited for a page are served again (R324, R325). -/
def State.serveWaiters (s : State) (die : Nat) : State :=
  s.graphs.foldl (fun t g =>
    match g.2.run with
    | none => t
    | some r => r.nodes.foldl (fun t n =>
        let d := graphNode g.2.desc n.1
        if n.2.waiters.isEmpty || d.die ≠ die then t else t.serveNode g.1 g.2.ctx n.1 d n.2.waiters.length) t) s

/-- LAUNCHER_CYCLE (R323, R324, R350): once in a local cycle of the die, its launcher hands over at most one block, of its first DUE
node that can be placed; launch graphs of the die go on while there is room for a dispatch operation. -/
def execLauncherCycle (die : Nat) (s0 : State) : Host.Outcome State Fault Refusal :=
  if (s0.die die).acted 2 then .next s0
  else
  let s := (s0.modDie die (fun d => d.act 2)).serveWaiters die
  let s1 := s.launchFirst (s.dueNodes die)
  let mine := (s1.graphs.filter (fun g => match g.2.run with
    | some r => r.home = die
    | none => false)).map Prod.fst
  .next (mine.foldl (fun t g => t.progress g 64) s1)

/-- LAUNCHER_AGE_TIMEOUT (R323): the age of a node's oldest PENDING record reaches T. The state DUE follows from the ages
as they stand, so that nothing else changes. -/
def execLauncherAgeTimeout (_slot _node : Nat) (s : State) : Host.Outcome State Fault Refusal := .next s

/-! ### The end of a run -/

/-- Whether a graph is in pool stall (R326). A divided caravan waits when one of its paths does and the other does too or waits for
it at their join. -/
def State.poolStalled (s : State) (g : Nat) (r : GraphRun) : Bool :=
  let emits (k p : Nat) : Bool := r.nodes.any (fun n => n.2.waiters.any (fun w => w.path = 2 * k + p))
  let waiting (k : Nat) : Bool := match s.caravan? k with
    | some c => c.paths.any (fun p => emits k p.1) && c.paths.all (fun p => emits k p.1 || c.joins p.2)
    | none => false
  let mine (b : Block) : Bool := match b.record with
    | some x => x.graph = g
    | none => false
  r.nodes.any (fun n => !n.2.waiters.isEmpty)
    && (s.blocks.filter (fun b => mine b.2)).all (fun b =>
      b.2.live > 0 && b.2.caravanKeys.all (fun k => match s.caravan? k with
        | some c => c.block ≠ b.1 || waiting k
        | none => true))
    && !(s.saved.any (fun b => mine b.2.block))
    && r.nodes.all (fun n => n.2.waiters.isEmpty || (n.2.inState .pending).isEmpty)

/-- POOL_STALL (R326): every waiter raises POOL_STALL at its instruction, and its emit is withdrawn. -/
def execPoolStall (slot : Nat) (s : State) : Host.Outcome State Fault Refusal :=
  match (Tab.get? s.graphs slot).bind (fun x => x.run) with
  | none => .next s
  | some r =>
    if !s.poolStalled slot r then .next s
    else
      let waiters := r.nodes.flatMap (fun n => n.2.waiters.map (fun w => w.path))
      .next (waiters.foldl (fun t w =>
        match (t.caravan? (w / 2)).bind (fun c => Tab.get? c.paths (w % 2)) with
        | none => t
        | some x => (t.withdraw (w / 2) (w % 2)).raiseTrap (w / 2) (w % 2)
            { code := codePoolStall, cause := 0, addr := 0, pc := scalarPc x.spc, resume := x.spc, removed := [] }) s)

/-- The status of a launch graph that has nothing running and nothing left to dispatch (R350). -/
def GraphRun.launchStatus (r : GraphRun) : Status :=
  let failed := (r.entries.filter (fun e => e.2 % 2 ^ 8 > 1)).map Prod.snd
  let first := failed.getD 0 0
  { code := fld first 0 8, detail := fld first 8 8, launches := r.dispatched }

/-- The status of a stage graph whose run ends (R327). -/
def GraphRun.stageStatus (r : GraphRun) : Status :=
  match r.seedFail, r.faulted with
  | some k, _ => .of statusSeedFail (k % 256)
  | none, some c => .of statusFaulted c
  | none, none =>
    if r.nodes.any (fun n => !(n.2.inState .counting).isEmpty) then .of statusIncomplete else .of statusComplete

/-- Whether the run of a slot ends now (R327, R350). -/
def State.runOver (s : State) (g : Nat) (x : GraphSlot) (r : GraphRun) : Bool :=
  r.begun &&
    (if x.stage then
        r.seedFail.isSome || (s.nodeBlocks g none = 0 && r.nodes.all (fun n => (n.2.inState .pending).isEmpty))
      else
        !(r.entries.any (fun e => e.2 = entryRunning)) && !((List.range (entryCount x.desc)).any (r.entryReady x.desc)))

/-- GRAPH_RUN_END (R327, R350 to R352, R416): the run ends with its status; every COUNTING slot is recorded and
discarded, and the reserves are released. -/
def execGraphRunEnd (slot : Nat) (s : State) : Host.Outcome State Fault Refusal :=
  match Tab.get? s.graphs slot with
  | none => .next s
  | some x =>
    match x.run with
    | none => .next s
    | some r =>
      if !s.runOver slot x r then .next s
      else
        match s.tellWaits r.completions with
        | some t => .next t
        | none =>
          let st := if x.stage then r.stageStatus else r.launchStatus
          let counting := r.nodes.flatMap (fun n => (n.2.inState .counting).map (fun i => (n.1, n.2.slot i)))
          let s1 := counting.foldl (fun t (n, z) =>
            t.trail r.home x.ctx 0x3f 0x0b statusIncomplete n (some (z.key / 2 ^ 32 + 2 ^ 32 * z.count))) s
          let s2 := if st.code = statusComplete then s1 else s1.trail r.home x.ctx 0x3f 0x02 st.code st.detail (some 0)
          .next (s2.endRun slot r.completions st)

end Sys2Proof.Machine
end

