-- ==== Sys2Proof/Machine/ScalarInt.lean ====
section
/-!
DEFINITION. The integer instructions of the scalar stream (R89 to R94).
-/

namespace Sys2Proof.Machine

/-- An instruction that writes a function of two registers (R86: both are read before the write). -/
def regOp (i : Instr) (sd sa sb : BitVec 6) (f : Word → Word → Word) (s : State) : Host.Outcome State Fault Refusal :=
  scalarOp i (pure ()) (writes sd (do
    let x ← reg sa
    let y ← reg sb
    pure (f x y))) s

/-- An instruction that writes a function of one register. -/
def regImm (i : Instr) (sd sa : BitVec 6) (f : Word → Word) (s : State) : Host.Outcome State Fault Refusal :=
  scalarOp i (pure ()) (writes sd (do
    let x ← reg sa
    pure (f x))) s

/-- An instruction that writes a function of the old destination and two registers. -/
def regOld (i : Instr) (sd sa sb : BitVec 6) (f : Word → Word → Word → Word) (s : State) :
    Host.Outcome State Fault Refusal :=
  scalarOp i (pure ()) (writes sd (do
    let o ← reg sd
    let x ← reg sa
    let y ← reg sb
    pure (f o x y))) s

/-- `add` (R89): the sum. -/
def execAdd (sd sa sb : BitVec 6) (s : State) : Host.Outcome State Fault Refusal :=
  regOp (.add sd sa sb) sd sa sb (fun x y => x + y) s

/-- `sub` (R89): the difference. -/
def execSub (sd sa sb : BitVec 6) (s : State) : Host.Outcome State Fault Refusal :=
  regOp (.sub sd sa sb) sd sa sb (fun x y => x - y) s

/-- `mul` (R89): the low 64 bits of the product. -/
def execMul (sd sa sb : BitVec 6) (s : State) : Host.Outcome State Fault Refusal :=
  regOp (.mul sd sa sb) sd sa sb (fun x y => x * y) s

/-- `mulh` (R89): the high 64 bits of the signed product. -/
def execMulh (sd sa sb : BitVec 6) (s : State) : Host.Outcome State Fault Refusal :=
  regOp (.mulh sd sa sb) sd sa sb (fun x y => mulHighS x y) s

/-- `mulh.u` (R89): the high 64 bits of the unsigned product. -/
def execMulhU (sd sa sb : BitVec 6) (s : State) : Host.Outcome State Fault Refusal :=
  regOp (.mulhU sd sa sb) sd sa sb (fun x y => mulHighU x y) s

/-- `div` (R90): the signed quotient. -/
def execDiv (sd sa sb : BitVec 6) (s : State) : Host.Outcome State Fault Refusal :=
  regOp (.div sd sa sb) sd sa sb (fun x y => quotS x y) s

/-- `div.u` (R90): the unsigned quotient. -/
def execDivU (sd sa sb : BitVec 6) (s : State) : Host.Outcome State Fault Refusal :=
  regOp (.divU sd sa sb) sd sa sb (fun x y => quotU x y) s

/-- `rem` (R90): the signed remainder. -/
def execRem (sd sa sb : BitVec 6) (s : State) : Host.Outcome State Fault Refusal :=
  regOp (.rem sd sa sb) sd sa sb (fun x y => remS x y) s

/-- `rem.u` (R90): the unsigned remainder. -/
def execRemU (sd sa sb : BitVec 6) (s : State) : Host.Outcome State Fault Refusal :=
  regOp (.remU sd sa sb) sd sa sb (fun x y => remU x y) s

/-- `and` (R89): the bitwise and. -/
def execAnd (sd sa sb : BitVec 6) (s : State) : Host.Outcome State Fault Refusal :=
  regOp (.and sd sa sb) sd sa sb (fun x y => x &&& y) s

/-- `or` (R89): the bitwise or. -/
def execOr (sd sa sb : BitVec 6) (s : State) : Host.Outcome State Fault Refusal :=
  regOp (.or sd sa sb) sd sa sb (fun x y => x ||| y) s

/-- `xor` (R89): the bitwise exclusive or. -/
def execXor (sd sa sb : BitVec 6) (s : State) : Host.Outcome State Fault Refusal :=
  regOp (.xor sd sa sb) sd sa sb (fun x y => x ^^^ y) s

/-- `shl` (R89): a shift to the left by `sb`[5:0]. -/
def execShl (sd sa sb : BitVec 6) (s : State) : Host.Outcome State Fault Refusal :=
  regOp (.shl sd sa sb) sd sa sb (fun x y => x <<< (y.toNat % 64)) s

/-- `shr` (R89): an unsigned shift to the right by `sb`[5:0]. -/
def execShr (sd sa sb : BitVec 6) (s : State) : Host.Outcome State Fault Refusal :=
  regOp (.shr sd sa sb) sd sa sb (fun x y => x >>> (y.toNat % 64)) s

/-- `sra` (R89): a signed shift to the right by `sb`[5:0]. -/
def execSra (sd sa sb : BitVec 6) (s : State) : Host.Outcome State Fault Refusal :=
  regOp (.sra sd sa sb) sd sa sb (fun x y => x.sshiftRight (y.toNat % 64)) s

/-- `min` (R89): the smaller signed value. -/
def execMin (sd sa sb : BitVec 6) (s : State) : Host.Outcome State Fault Refusal :=
  regOp (.min sd sa sb) sd sa sb (fun x y => if x.toInt ≤ y.toInt then x else y) s

/-- `min.u` (R89): the smaller unsigned value. -/
def execMinU (sd sa sb : BitVec 6) (s : State) : Host.Outcome State Fault Refusal :=
  regOp (.minU sd sa sb) sd sa sb (fun x y => if x.toNat ≤ y.toNat then x else y) s

/-- `max` (R89): the larger signed value. -/
def execMax (sd sa sb : BitVec 6) (s : State) : Host.Outcome State Fault Refusal :=
  regOp (.max sd sa sb) sd sa sb (fun x y => if x.toInt ≤ y.toInt then y else x) s

/-- `max.u` (R89): the larger unsigned value. -/
def execMaxU (sd sa sb : BitVec 6) (s : State) : Host.Outcome State Fault Refusal :=
  regOp (.maxU sd sa sb) sd sa sb (fun x y => if x.toNat ≤ y.toNat then y else x) s

/-- `sel` (R89): `sa` where the old `sd` is not zero, else `sb`. -/
def execSel (sd sa sb : BitVec 6) (s : State) : Host.Outcome State Fault Refusal :=
  regOld (.sel sd sa sb) sd sa sb (fun o x y => if o ≠ 0 then x else y) s

/-- `clz` (R89): leading zero bits, 64 for zero. -/
def execClz (sd sa : BitVec 6) (s : State) : Host.Outcome State Fault Refusal :=
  regImm (.clz sd sa) sd sa (fun x => BitVec.ofNat 64 (leadingZeros x)) s

/-- `popc` (R89): one bits. -/
def execPopc (sd sa : BitVec 6) (s : State) : Host.Outcome State Fault Refusal :=
  regImm (.popc sd sa) sd sa (fun x => BitVec.ofNat 64 (popCount x)) s

/-- `cmp.cc` (R89, R91): 1 where the condition holds. -/
def execCmp (sd sa sb : BitVec 6) (c : BitVec 4) (s : State) : Host.Outcome State Fault Refusal :=
  regOp (.cmp sd sa sb c) sd sa sb (fun x y => ofBool (condHolds c.toNat x y)) s

/-- `bfx` (R93): a bit field under the control word `sb`. -/
def execBfx (sd sa sb : BitVec 6) (s : State) : Host.Outcome State Fault Refusal :=
  regOp (.bfx sd sa sb) sd sa sb bfxWord s

/-- `bfi` (R93): a bit field of the old `sd` replaced by the low bits of `sa`. -/
def execBfi (sd sa sb : BitVec 6) (s : State) : Host.Outcome State Fault Refusal :=
  regOld (.bfi sd sa sb) sd sa sb (fun o x c => insertField o x (c.toNat % 64) (c.toNat / 64 % 64 + 1)) s

/-- `aff` (R93): the old `sd` plus a product. -/
def execAff (sd sa sb : BitVec 6) (s : State) : Host.Outcome State Fault Refusal :=
  regOld (.aff sd sa sb) sd sa sb (fun o x y => o + x * y) s

/-- `add` with an immediate (R92). -/
def execAddImm (sd sa : BitVec 6) (imm : BitVec 14) (s : State) : Host.Outcome State Fault Refusal :=
  regImm (.addImm sd sa imm) sd sa (fun x => x + imm.signExtend 64) s

/-- `and` with an immediate (R92). -/
def execAndImm (sd sa : BitVec 6) (imm : BitVec 12) (s : State) : Host.Outcome State Fault Refusal :=
  regImm (.andImm sd sa imm) sd sa (fun x => x &&& imm.signExtend 64) s

/-- `or` with an immediate (R92). -/
def execOrImm (sd sa : BitVec 6) (imm : BitVec 12) (s : State) : Host.Outcome State Fault Refusal :=
  regImm (.orImm sd sa imm) sd sa (fun x => x ||| imm.signExtend 64) s

/-- `xor` with an immediate (R92). -/
def execXorImm (sd sa : BitVec 6) (imm : BitVec 12) (s : State) : Host.Outcome State Fault Refusal :=
  regImm (.xorImm sd sa imm) sd sa (fun x => x ^^^ imm.signExtend 64) s

/-- `shl` by an immediate amount (R92). -/
def execShlImm (sd sa : BitVec 6) (n : BitVec 6) (s : State) : Host.Outcome State Fault Refusal :=
  regImm (.shlImm sd sa n) sd sa (fun x => x <<< n.toNat) s

/-- `shr` by an immediate amount (R92). -/
def execShrImm (sd sa : BitVec 6) (n : BitVec 6) (s : State) : Host.Outcome State Fault Refusal :=
  regImm (.shrImm sd sa n) sd sa (fun x => x >>> n.toNat) s

/-- `sra` by an immediate amount (R92). -/
def execSraImm (sd sa : BitVec 6) (n : BitVec 6) (s : State) : Host.Outcome State Fault Refusal :=
  regImm (.sraImm sd sa n) sd sa (fun x => x.sshiftRight n.toNat) s

/-- `cmp.cc` with an immediate (R92). -/
def execCmpImm (sd sa : BitVec 6) (c : BitVec 4) (imm : BitVec 10) (s : State) : Host.Outcome State Fault Refusal :=
  regImm (.cmpImm sd sa c imm) sd sa (fun x => ofBool (condHolds c.toNat x (imm.signExtend 64))) s

/-- `lea` (R94): SPC plus a word displacement. -/
def execLea (sd : BitVec 6) (imm : BitVec 14) (s : State) : Host.Outcome State Fault Refusal :=
  scalarOp (.lea sd imm) (pure ()) (writes sd (do
    let m ← me
    pure (m.path.spc + 4 * imm.signExtend 64))) s

/-- `li` (R94): a signed immediate. -/
def execLi (sd : BitVec 6) (imm : BitVec 20) (s : State) : Host.Outcome State Fault Refusal :=
  scalarOp (.li sd imm) (pure ()) (writes sd (pure (imm.signExtend 64))) s

/-- `lui` (R94): the old `sd` shifted left by 20 bits, its low bits from the immediate. -/
def execLui (sd : BitVec 6) (imm : BitVec 20) (s : State) : Host.Outcome State Fault Refusal :=
  regImm (.lui sd imm) sd sd (fun x => x * 2 ^ 20 + imm.zeroExtend 64) s

end Sys2Proof.Machine
end

