-- ==== Sys2Proof/Machine/Harts.lean ====
section
/-!
DEFINITION. The queues as the front end maps them, and the front-end extension of the RISC-V cores with its exceptions
(R333 to R335, R338 to R347).
-/

namespace Sys2Proof.Machine

/-! ### Queues -/

/-- A queue descriptor (R333). -/
structure QueueDesc where
  enable : Bool
  host : Bool
  die : Nat
  log2n : Nat
  ring : Word
  headWb : Word
  ctx : Nat
deriving DecidableEq, Repr

/-- The number of queues (R330). -/
def State.queueCount (s : State) : Nat := fld s.bar.qtab.toNat 52 12 + 1

/-- The descriptor of a queue in the queue table (R330, R333). -/
def State.queueDesc (s : State) (q : Nat) : QueueDesc :=
  let w := s.homeNat (fld s.bar.qtab.toNat 6 42 * 64 + 32 * q) 32
  { enable := flag w 0, host := flag w 1, die := fld w 8 2, log2n := fld w 12 4, ring := addr48 w 112,
    headWb := addr48 w 160, ctx := fld w 208 16 }

/-- Whether a queue can have work (R333, R334). -/
def State.queueLive (s : State) (q : Nat) : Bool :=
  q < s.queueCount && (s.queueDesc q).enable && 4 ≤ (s.queueDesc q).log2n

/-- A queue as its front end keeps it. -/
def State.queue (s : State) (q : Nat) : Queue :=
  Tab.getD s.queues q { head := 0, tail := 0, mapped := none, held := none, open_ := [] }

/-- The state with a queue changed. -/
def State.modQueue (s : State) (q : Nat) (f : Queue → Queue) : State :=
  { s with queues := Tab.set s.queues q (f (s.queue q)) }

/-- Whether a queue has work (R338). -/
def State.hasWork (s : State) (q : Nat) : Bool :=
  s.queueLive q && ((s.queue q).head ≠ (s.queue q).tail || (s.queue q).held.isSome)

/-- A queue whose work has changed starts to wait for a slot, or gives its slot up (R338). -/
def State.refreshQueue (s : State) (q : Nat) : State :=
  let die := (s.queueDesc q).die
  let waiting : Bool := (s.die die).waitingQueues.contains q
  match (s.queue q).mapped with
  | some k =>
    if s.hasWork q then s
    else
      (s.modQueue q (fun x => { x with mapped := none })).modDie die (fun d =>
        { d with queueSlots := Tab.erase d.queueSlots k, slotSince := Tab.erase d.slotSince k })
  | none =>
    if s.hasWork q && !waiting then s.modDie die (fun d => { d with waitingQueues := d.waitingQueues ++ [q] })
    else if !s.hasWork q && waiting then s.modDie die (fun d => { d with waitingQueues := d.waitingQueues.filter (· ≠ q) })
    else s

/-- A command of its eight words (R335). -/
def commandOf (w : Nat) : Command :=
  let word (i : Nat) : Word := BitVec.ofNat 64 (w / 2 ^ (64 * i))
  { w0 := word 0, w1 := word 1, w2 := word 2, w3 := word 3, w4 := word 4, w5 := word 5, w6 := word 6, w7 := word 7 }

/-- The next command of a queue's ring, read as an acquire at system scope (R335, R341, R356). A ring in host memory holds
what this package cannot know: an undefined value each time (R3). -/
def State.ringCommand (s : State) (q : Nat) : Found Nat :=
  let d := s.queueDesc q
  if d.host then .ok (Config.freeNat s.free 0 % 2 ^ 512) { s with free := s.free + 1 }
  else s.frontNat d.ctx (d.ring + BitVec.ofNat 64 (64 * (s.queue q).head)) 64

/-- A command fetched: the head advances and is written back (R334). A fault of the head's address goes to the fault log
as that of a completion signal does. -/
def State.advanceHead (s : State) (q : Nat) : Found Unit :=
  let d := s.queueDesc q
  let head := ((s.queue q).head + 1) % 2 ^ d.log2n
  let s1 := s.modQueue q (fun x => { x with head := head })
  if d.host then .ok () s1
  else
    match s1.frontWrite d.ctx d.headWb (leBytes 8 head) with
    | .ok _ t => .ok () t
    | .wait t => .wait (t.modQueue q (fun x => { x with head := (s.queue q).head }))
    | .fail code cause addr t => .ok () (t.logFault d.ctx [recordWord code cause 1 0, 0, addr, 0, 0, 0, 0, 0])

/-! ### Front-end cores -/

/-- A register of a front-end core; `x0` reads as zero. -/
def Hart.reg (x : Hart) (n : BitVec 5) : Word := if n = 0 then 0 else Tab.getD x.xregs n.toNat 0

/-- A register of a front-end core written; a write of `x0` is discarded. -/
def Hart.setReg (x : Hart) (n : BitVec 5) (v : Word) : Hart :=
  if n = 0 then x else { x with xregs := Tab.set x.xregs n.toNat v }

/-- FE_OPERAND (R345). -/
def feOperand : Nat := 24
/-- FE_ALIGN (R345). -/
def feAlign : Nat := 25
/-- FE_MODE (R345). -/
def feMode : Nat := 26
/-- FE_XLATE (R345). -/
def feXlate : Nat := 27

/-- The registers of a front-end core that takes an exception (R339, R345): `mepc`, `mcause` and `mtval` are written, and
the core goes to `mtvec` in machine mode; `mstatus` (CSR 0x300) keeps the mode and the interrupt enable (PRESUMED, log entry 9). -/
def Hart.takeException (x : Hart) (cause : Nat) (value : Word) : Hart :=
  let status := (Tab.getD x.csrs 0x300 0).toNat
  let kept := (if flag status 3 then 0x80 else 0) + (if x.machineMode then 0x1800 else 0)
  { x with csrs := Tab.set x.csrs 0x300 (BitVec.ofNat 64 kept), mepc := x.pc, mcause := BitVec.ofNat 64 cause, mtval := value, pc := x.mtvec - BitVec.ofNat 64 (x.mtvec.toNat % 4),
           machineMode := true, waiting := false }

/-- TAKING AN EXCEPTION on a front-end core (R345, R346): a prologue that takes one ends with PROLOGUE_FAULT, which its core waits for
while the page of the dispatch's signal is being served. -/
def State.frontTrap (s : State) (die h cause : Nat) (value : Word) : State :=
  (s.modHart die h (fun x => x.takeException cause value)).endPrologue die h statusPrologue cause

/-- An exception whose `mtval` the spec does not give: an undefined value. -/
def State.frontTrapFree (s : State) (die h cause : Nat) : State :=
  { s with free := s.free + 1 }.frontTrap die h cause (BitVec.ofNat 64 (Config.freeNat s.free 0))

/-- An instruction of a front-end core retired (R346): the pc goes on at a target, and an instruction of a prologue is
counted; `minstret` (CSR 0xb02) counts every one (PRESUMED, log entry 9). -/
def State.retireHartTo (s : State) (die h : Nat) (target : Word) (f : Hart → Hart) : State :=
  let s1 := s.modHart die h (fun x =>
    let y := f x
    { y with pc := target, waiting := false, csrs := Tab.set y.csrs 0xb02 (Tab.getD y.csrs 0xb02 0 + 1) })
  match (s.die die |>.hart h).dispatch with
  | some k => s1.modDispatch die k (fun d => { d with instructions := d.instructions + 1 })
  | none => s1

/-- A word of the extension retired: the pc advances past it. -/
def State.retireHart (s : State) (die h : Nat) (f : Hart → Hart) : State :=
  s.retireHartTo die h (((s.die die).hart h).pc + 4) f

/-- The standard illegal-instruction exception of a custom-0 word that R340 does not define. -/
def State.frontIllegal (s : State) (die h : Nat) : State := s.frontTrapFree die h 2

/-- An instruction of the front-end core in focus that a mode may run (R340): in the other it raises FE_MODE. -/
def frontInstr (machine user : Bool) (s : State) (f : Nat → Nat → Hart → State) : Host.Outcome State Fault Refusal :=
  match s.focus with
  | .hart die h =>
    let x := (s.die die).hart h
    if if x.machineMode then machine else user then .next (f die h x) else .next (s.frontTrapFree die h feMode)
  | _ => .fault .noAgent

/-- Bytes of a front end's local memory written (R339), its address taken modulo 256 KiB. -/
def Die.localWrite (d : Die) (a : Nat) : List Byte → Die
  | [] => d
  | b :: bs => Die.localWrite { d with localMem := Tab.set d.localMem (a % 2 ^ 18) b } (a + 1) bs

/-- `qfetch` (R341). -/
def execQfetch (sb sa sd : BitVec 5) (s : State) : Host.Outcome State Fault Refusal :=
  frontInstr true false s (fun die h x =>
    let slot := (x.reg sa).toNat
    let at_ := (x.reg sb).toNat
    let answer (t : State) (v : Nat) (g : Hart → Hart) : State :=
      t.retireHart die h (fun y => (g y).setReg sd (BitVec.ofNat 64 v))
    if slot > 63 then s.frontTrap die h feOperand (x.reg sa)
    else if at_ % 64 ≠ 0 then s.frontTrap die h feAlign (x.reg sb)
    else
      match Tab.get? (s.die die).queueSlots slot with
      | none => answer s 2 id
      | some q =>
        if (s.queue q).held.isSome || (s.queue q).head = (s.queue q).tail then answer s 1 id
        else
          match s.ringCommand q with
          | .wait t => t
          | .fail code cause addr t =>
            answer (t.logFault (s.queueDesc q).ctx [recordWord code cause 1 0, 0, addr, 0, 0, 0, 0, 0]) 1 id
          | .ok w t =>
            if flag w 8 && !(s.queue q).open_.isEmpty then answer t 1 id
            else
              match t.advanceHead q with
              | .ok _ u =>
                answer ((u.modDie die (fun d => d.localWrite at_ (leBytes 64 w))).refreshQueue q) 0
                  (fun y => { y with fctx := (s.queueDesc q).ctx })
              | .wait u => u
              | .fail _ _ _ u => u)

/-- `fbfx` (R342): as `bfx` of R93. -/
def execFbfx (sb sa sd : BitVec 5) (s : State) : Host.Outcome State Fault Refusal :=
  frontInstr true true s (fun die h x => s.retireHart die h (fun y => y.setReg sd (bfxWord (x.reg sa) (x.reg sb))))

/-- `sigwait` (R343): a wait until the count of the signal is at least `rs2`; with `.poll` none. -/
def execSigwait (p e : BitVec 1) (sb sa sd : BitVec 5) (s : State) : Host.Outcome State Fault Refusal :=
  frontInstr true false s (fun die h x =>
    let va := x.reg sa
    if va.toNat % 16 ≠ 0 then s.frontTrap die h feAlign va
    else
      match s.frontNat x.fctx va 8 with
      | .wait t => t
      | .fail _ _ addr t => t.frontTrap die h feXlate addr
      | .ok v t =>
        if p = 1 ∨ v ≥ (x.reg sb).toNat then t.retireHart die h (fun y => y.setReg sd (BitVec.ofNat 64 v))
        else t.modHart die h (fun y => { y with waiting := true, waitExt := e = 1 }))

/-- `dispatch` (R344, R345): a dispatch operation for the packet at `rs1` under the dispatch word `rs2`. -/
def execDispatch (sb sa sd : BitVec 5) (s : State) : Host.Outcome State Fault Refusal :=
  frontInstr true false s (fun die h x =>
    let va := x.reg sa
    let w := (x.reg sb).toNat
    let signal : Completion := if fld w 8 44 = 0 then .nothing else .signal x.fctx (addr48 (fld w 8 44 * 16) 0)
    if va.toNat % 64 ≠ 0 then s.frontTrap die h feAlign va
    else if (s.die die).dispatchFull then s
    else
      match s.frontNat x.fctx va 64 with
      | .wait t => t
      | .fail _ _ addr t => t.frontTrap die h feXlate addr
      | .ok packet t =>
        match s.tellWait signal with
        | some u => u
        | none =>
          let (handle, begun) := t.dispatchPacket die x.fctx (BitVec.ofNat 512 packet) (BitVec.ofNat 4 w) signal
          let give (u : State) : State := u.retireHart die h (fun y => y.setReg sd (BitVec.ofNat 64 handle))
          match begun with
          | .wait u => u
          | .going u => give u
          | .ended y u => (give u).tell signal y)

/-- `pcancel` (R347): the prologue ends at once and its dispatch operation ends CANCELLED. -/
def execPcancel (s : State) : Host.Outcome State Fault Refusal :=
  frontInstr false true s (fun die h _ => s.endPrologue die h statusCancelled 0)

/-- `prepeat` (R347): the iteration is marked for repetition; in iteration 63 it raises PROLOGUE_FAULT, with a detail that
the spec does not give. -/
def execPrepeat (s : State) : Host.Outcome State Fault Refusal :=
  frontInstr false true s (fun die h _ =>
    match s.prologueOf die h with
    | none => s.retireHart die h id
    | some (k, d) =>
      if d.iteration ≥ 63 then { s with free := s.free + 1 }.endPrologue die h statusPrologue (Config.freeNat s.free 0 % 256)
      else (s.modDispatch die k (fun y => { y with marked := true })).retireHart die h id)

end Sys2Proof.Machine
end

