-- ==== Sys2Proof/Machine/Commands.lean ====
section
/-!
DEFINITION. Queue commands and their issue, the wheel timers, and the mapping of queues to slots (R335 to R338, R348, R349,
R351, R352, R354, R355, R369).
-/

namespace Sys2Proof.Machine

/-! ### Checks -/

/-- The bits that words 1 to 6 of a command may have (R336, R349, R351, R363, R364). -/
def commandMasks (op : Nat) : List Nat :=
  let all := 2 ^ 64 - 1
  match op with
  | 1 => [all, 0xf, 0, 0, 0, 0]
  | 2 => [all, 0x10f, 0, 0, 0, 0]
  | 3 => [2 ^ 48 - 16, 0xf, 0, 0, 0, 0]
  | 4 => [all, all, 0, 0, 0, 0]
  | 5 => [all, all, 1, 0, 0, 0]
  | 6 => [all, 0xf, 0x103ff, all, 2 ^ 32 - 1, all]
  | 7 => [0, 0, 0x3ff, 0, 0, 0]
  | 8 => [all, 2 ^ 41 - 1, all, all, 0, 0]
  | 9 => [all, all, 2 ^ 64 - 2 ^ 32 + 0x7ffff, 0, 0, 0]
  | 10 => [all, all, 2 ^ 64 - 2 ^ 32 + 0x7ffff, 0, 0, 0]
  | _ => [0, 0, 0, 0, 0, 0]

/-- Words 1 to 6 of a command. -/
def commandOperands (c : Command) : List Nat := [c.w1, c.w2, c.w3, c.w4, c.w5, c.w6].map BitVec.toNat

/-- Whether a reserved bit of a command is set (R335, R348); of an unknown opcode only word 0 is judged. -/
def commandReserved (c : Command) (op : Option Nat) : Bool :=
  c.w0.toNat / 2 ^ 24 ≠ 0 || fld c.w0.toNat 10 6 ≠ 0 || (match op with
    | some k => ((commandOperands c).zip (commandMasks k)).any (fun x => Nat.land x.1 x.2 ≠ x.1)
    | none => false)

/-- Whether an operand address of a command breaks its alignment (R337, R344, R348, R354). -/
def commandMisaligned (c : Command) (op : Option Nat) : Bool :=
  c.w7.toNat % 16 ≠ 0 || (match op with
    | some 1 => c.w1.toNat % 64 ≠ 0
    | some 4 => c.w1.toNat % 16 ≠ 0
    | some 5 => c.w1.toNat % 16 ≠ 0
    | some 6 => c.w1.toNat % 64 ≠ 0 || c.w6.toNat % 16 ≠ 0
    | _ => false)

/-- The features that a command needs (R332). -/
def commandNeeds (c : Command) (op : Nat) : List Nat :=
  match op with
  | 2 => if flag c.w2.toNat 8 then [2, 3] else [2]
  | 3 => if c.w1 ≠ 0 then [2, 4] else [2]
  | 6 => [5]
  | 7 => [5]
  | 8 => if flag c.w2.toNat 40 then [12, 13] else [12]
  | 9 => [12]
  | 10 => [12]
  | _ => [0]

/-- The detail with which a command is rejected at issue, in the order of R348. -/
def State.commandCheck (s : State) (op : Option Nat) (c : Command) : Option Nat :=
  if commandReserved c op then some 1
  else if commandMisaligned c op then some 2
  else
    match op with
    | none => some 9
    | some k => if (commandNeeds c k).all s.feature then none else some 8

/-! ### Issue -/

/-- What a command does at its issue: it completes, it stays in progress, or it waits and issues later. -/
inductive Issued where
  | done (x : Status) (s : State)
  | running (s : State)
  | hold (s : State)

/-- How a command goes on with what its operands hold: a fault of an operand ends it FAULTED (R337), and an operand whose page
the driver serves makes it wait (R374). -/
def Issued.after {α : Type} (ctx : Nat) (x : Found α) (f : α → State → Issued) : Issued :=
  match x with
  | .ok v t => f v t
  | .fail code cause addr t => .done (faultStatus t ctx code cause addr) t
  | .wait t => .hold t

/-- The issue of a command in its queue (R335 to R337, R348): it waits behind a command that holds the queue, and under its
barrier bit until every earlier one has completed. -/
def State.issueCommand (s : State) (q : Nat) (op : Option Nat) (c : Command) (run : Nat → QueueDesc → State → Issued) :
    Host.Outcome State Fault Refusal :=
  let x := s.queue q
  let d := s.queueDesc q
  let hold (t : State) : State := (t.modQueue q (fun y => { y with held := some c })).refreshQueue q
  if !s.queueLive q || (x.held.isSome && x.held ≠ some c) then .next s
  else if flag c.w0.toNat 8 && !x.open_.isEmpty then .next (hold s)
  else
    match s.signalWait d.ctx c.w7 with
    | some t => .next (hold t)
    | none =>
      let (id, s1) := s.fresh
      let cmd : OpenCommand := { queue := q, ctx := d.ctx, die := d.die, command := c }
      let s2 := { s1 with commands := Tab.set s1.commands id cmd }.modQueue q (fun y =>
        { y with held := none, open_ := y.open_ ++ [id] })
      let out : Issued := match s2.commandCheck op c with
        | some k => .done (.rejected k) s2
        | none => run id d s2
      match out with
      | .done y t => .next ((t.completeCommand id y).refreshQueue q)
      | .running t => .next (t.refreshQueue q)
      | .hold t =>
        .next (hold ({ t with commands := Tab.erase t.commands id }.modQueue q (fun y =>
          { y with open_ := y.open_.filter (· ≠ id) })))

/-- `NOP` (R336): it completes at issue. -/
def execNopCommand (queue : Nat) (c : Command) (s : State) : Host.Outcome State Fault Refusal :=
  s.issueCommand queue (some 0) c (fun _ _ t => .done (.of statusComplete) t)

/-- `LAUNCH` (R336, R344): a dispatch operation that completes the command. It waits while the die has 32 of them. -/
def execLaunchCommand (queue : Nat) (c : Command) (s : State) : Host.Outcome State Fault Refusal :=
  s.issueCommand queue (some 1) c (fun id d t =>
    if (t.die d.die).dispatchFull then .hold t
    else
      match (t.startDispatch d.die d.ctx c.w1 (BitVec.ofNat 4 c.w2.toNat) (.command id)).2 with
      | .going u => .running u
      | .ended x u => .done x u
      | .wait u => .hold u)

/-- `UPLOAD` (R336, R349): the descriptor is read once, checked and stored in its slot. -/
def execUploadCommand (queue : Nat) (c : Command) (s : State) : Host.Outcome State Fault Refusal :=
  s.issueCommand queue (some 2) c (fun _ d t =>
    let g := fld c.w2.toNat 0 4
    let stage : Bool := !flag c.w2.toNat 8
    let busy : Bool := match Tab.get? t.graphs g with
      | some x => x.busy || x.pending.isSome
      | none => false
    if busy then .done (.of statusBusy) t
    else
      .after d.ctx (t.readDesc d.ctx c.w1 stage) (fun desc u =>
        .after d.ctx (u.checkGraphDesc d.ctx stage desc) (fun kept v =>
          match kept with
          | none => .done (.rejected 10) v
          | some kept =>
            let x : GraphSlot := { stage := stage, ctx := d.ctx, desc := kept, signal := c.w7, due := none, run := none,
                                   pending := none }
            .done (.of statusComplete) { v with graphs := Tab.set v.graphs g x })))

/-- `TRIGGER` (R336, R351, R352): the command completes when the run that its trigger starts ends. -/
def execTriggerCommand (queue : Nat) (c : Command) (s : State) : Host.Outcome State Fault Refusal :=
  s.issueCommand queue (some 3) c (fun id d t =>
    let g := fld c.w2.toNat 0 4
    match Tab.get? t.graphs g with
    | none => .done (.rejected 15) t
    | some x =>
      if x.ctx ≠ d.ctx then .done (.rejected 15) t
      else
        let (u, taken) := t.triggerSlot g x { value := c.w1, completions := [.command id], home := d.die }
        if taken then .running u else .done (.of statusBusy) u)

/-- `SIGNAL` (R336): the value is added to the signal's count, as a release at system scope. -/
def execSignalCommand (queue : Nat) (c : Command) (s : State) : Host.Outcome State Fault Refusal :=
  s.issueCommand queue (some 4) c (fun _ d t =>
    .after d.ctx (t.addSignal d.ctx c.w1 c.w2.toNat) (fun _ u => .done (.of statusComplete) u))

/-- `WAIT` (R335, R336, R343): it issues, and completes, once the count is at least the value. -/
def execWaitCommand (queue : Nat) (c : Command) (s : State) : Host.Outcome State Fault Refusal :=
  s.issueCommand queue (some 5) c (fun _ d t =>
    .after d.ctx (t.frontNat d.ctx c.w1 8) (fun v u => if v ≥ c.w2.toNat then .done (.of statusComplete) u else .hold u))

/-- UNKNOWN_QUEUE_OPCODE (R335, R348): an opcode not in R336 ends REJECTED. -/
def execUnknownQueueOpcode (queue : Nat) (c : Command) (s : State) : Host.Outcome State Fault Refusal :=
  s.issueCommand queue none c (fun _ _ t => .done (.rejected 9) t)

/-! ### Timers -/

/-- A timer that has never been armed. -/
def Timer.idle : Timer :=
  { armed := false, fires := 0, misses := 0, ctx := 0, packet := 0, dies := 0, deadline := 0, period := none, status := 0,
    signal := 0, busy := false }

/-- A timer of a die's wheel. -/
def Die.timer (d : Die) (t : Nat) : Timer := Tab.getD d.timers t Timer.idle

/-- `TIMER_ARM` (R336, R354): a timer armed again keeps the launch that it has already fired. -/
def execTimerArm (queue : Nat) (c : Command) (s : State) : Host.Outcome State Fault Refusal :=
  s.issueCommand queue (some 6) c (fun _ d t =>
    let w := c.w3.toNat
    let n := fld w 0 8
    let periodic : Bool := flag w 16
    if periodic ∧ c.w5.toNat < 4096 then .done (.rejected 13) t
    else
      .done (.of statusComplete) (t.modDie (fld w 8 2) (fun y =>
        let x : Timer := { armed := true, fires := 0, misses := 0, ctx := d.ctx, packet := c.w1,
                           dies := BitVec.ofNat 4 c.w2.toNat, deadline := c.w4.toNat,
                           period := if periodic then some c.w5.toNat else none, status := c.w6, signal := c.w7,
                           busy := (y.timer n).busy }
        { y with timers := Tab.set y.timers n x })))

/-- `TIMER_OFF` (R336, R354): the timer is disarmed. -/
def execTimerOff (queue : Nat) (c : Command) (s : State) : Host.Outcome State Fault Refusal :=
  s.issueCommand queue (some 7) c (fun _ _ t =>
    let w := c.w3.toNat
    .done (.of statusComplete) (t.modDie (fld w 8 2) (fun y =>
      { y with timers := Tab.modify y.timers (fld w 0 8) (fun x => { x with armed := false }) })))

/-- The due timer that is first in ascending deadline and number (R355). -/
def Die.firstDue (d : Die) : Option (Nat × Timer) :=
  let due := d.timers.filter (fun t => t.2.armed && t.2.deadline ≤ d.cyc)
  due.foldl (fun r t =>
    match r with
    | none => some t
    | some u => if t.2.deadline < u.2.deadline then some t else some u) none

/-- A timer after it has fired in cycle `f` (R355). -/
def Timer.fire (x : Timer) (f : Nat) : Timer :=
  match x.period with
  | none => { x with armed := false, busy := true }
  | some p =>
    let m := (f - x.deadline) / p
    { x with busy := true, misses := x.misses + m, fires := x.fires + 1, deadline := x.deadline + (m + 1) * p }

/-- TIMER_FIRE (R355): the first due timer of a die fires, once its last launch has completed and the die has room; at most one in a
local cycle. -/
def execTimerFire (die : Nat) (s : State) : Host.Outcome State Fault Refusal :=
  let d := s.die die
  match d.firstDue with
  | none => .next s
  | some (n, x) =>
    if x.busy || d.dispatchFull || d.acted 1 then .next s
    else
      match (s.signalWait x.ctx x.signal).or (s.signalWait x.ctx x.status) with
      | some t => .next t
      | none =>
        let y := x.fire d.cyc
        let set_ (t : State) : State := t.modDie die (fun e => { e with timers := Tab.set e.timers n y }.act 1)
        let told (t : State) : State :=
          match t.frontWrite x.ctx x.status (leBytes 8 y.fires ++ leBytes 8 y.misses) with
          | .ok _ u => u
          | .wait u => u
          | .fail code cause addr u => u.logFault x.ctx [recordWord code cause 1 0, 0, addr, 0, 0, 0, 0, 0]
        let c : Completion := .timer die n x.ctx x.signal
        match (s.startDispatch die x.ctx x.packet x.dies c).2 with
        | .going t => .next (told (set_ t))
        | .ended st t => .next ((told (set_ t)).tell c st)
        | .wait t => .next t

/-! ### Slots -/

/-- A queue mapped to a slot of its die (R338); the queue that held the slot is unmapped, and waits if it has work. -/
def State.mapQueue (s : State) (die q slot : Nat) : State :=
  let s1 := match Tab.get? (s.die die).queueSlots slot with
    | none => s
    | some old =>
      let t := (s.modQueue old (fun x => { x with mapped := none })).modDie die (fun d =>
        { d with queueSlots := Tab.erase d.queueSlots slot, slotSince := Tab.erase d.slotSince slot })
      t.refreshQueue old
  (s1.modQueue q (fun x => { x with mapped := some slot })).modDie die (fun d =>
    { d with queueSlots := Tab.set d.queueSlots slot q, slotSince := Tab.set d.slotSince slot d.cyc,
             waitingQueues := d.waitingQueues.filter (· ≠ q), mapChange := none })

/-- The key of a die's mapping change among the records that wait for room in a fault log. -/
def mapKey (die : Nat) : Nat := 2 ^ 64 + die

/-- A mapping change: made at once in hardware mode; in host-assisted mode written to the fault log, to take effect at the
driver's acknowledgement (R338, R369, R385). -/
def State.changeMapping (s : State) (die q slot : Nat) : State :=
  let ctx := (s.queueDesc q).ctx
  if (s.die die).mapChange.isSome then s
  else if !s.hostMode ctx 3 then s.mapQueue die q slot
  else
    let (i, t) := s.logOrWait ctx (mapKey die)
      [recordWord 0 0 4 0, BitVec.ofNat 64 die, BitVec.ofNat 64 q, 0, 0, 0, 0, 0]
    t.modDie die (fun d => { d with mapChange := some (q, slot, i.getD unwritten) })

/-- QUEUE_MAP (R338): while a slot is free, the waiting queue that has waited longest takes it. -/
def execQueueMap (die : Nat) (s : State) : Host.Outcome State Fault Refusal :=
  let d := s.die die
  match (List.range 64).find? (fun k => (Tab.get? d.queueSlots k).isNone), d.waitingQueues with
  | some k, q :: _ => .next (s.changeMapping die q k)
  | _, _ => .next s

/-- The slot that has been held longest (R338). -/
def Die.oldestSlot (d : Die) : Option Nat :=
  (d.slotSince.foldl (fun r t =>
    match r with
    | none => some t
    | some u => if t.2 < u.2 then some t else some u) none).map Prod.fst

/-- MAPPING_INTERVAL (R338): at its end, if queues wait, the queue mapped longest gives its slot to the queue that has
waited longest. -/
def execMappingInterval (die : Nat) (s : State) : Host.Outcome State Fault Refusal :=
  let d := s.die die
  if d.interval < Config.mappingInterval || d.mapChange.isSome then .next s
  else
    let finished (t : State) : State := t.modDie die (fun d => { d with interval := 0 })
    match d.oldestSlot, d.waitingQueues with
    | some k, q :: _ =>
      let t := s.changeMapping die q k
      .next (if (t.die die).mapChange.isSome then t else finished t)
    | _, _ => .next (finished s)

/-- QUEUE_MAPPING_ACK (R369, R385): the driver has written the reply word of the record of a mapping change, which takes
effect, and the interval ends. -/
def execQueueMappingAck (ctx record : Nat) (s : State) : Host.Outcome State Fault Refusal :=
  match Tab.get? s.contexts ctx with
  | none => .next s
  | some c =>
    let reply := s.homeNat (c.flog + 64 + 64 * (record % 2 ^ c.logN) + 32) 8
    let owner := (List.range 4).find? (fun k => match (s.die k).mapChange with
      | some (q, _, i) => i = record && (s.queueDesc q).ctx = ctx
      | none => false)
    if reply = 0 then .next s
    else
      match owner.bind (fun k => (s.die k).mapChange.map (fun m => (k, m))) with
      | none => .next s
      | some (die, q, slot, _) =>
        .next ((s.mapQueue die q slot).modDie die (fun d => { d with interval := 0 }))

end Sys2Proof.Machine
end

