-- ==== Sys2Proof/Machine/Board.lean ====
section
/-!
DEFINITION. The host's side: BAR0, BAR2, feature negotiation, the resets, links between dies, power and temperature (R329 to
R334, R351, R356, R357, R366, R415 to R417).
-/

namespace Sys2Proof.Machine

/-! ### BAR2 -/

/-- The address in a caravan's stack area that lies at a byte of physical memory, as the tables stand (R51). -/
def State.stackVa (s : State) (b : Block) (c : Caravan) (a : Nat) : Option Nat :=
  let low := c.stkbase.toNat - b.stackBytes
  ((List.range (b.stackBytes / 65536 + 2)).map (fun i => low / 65536 + i)).findSome? (fun page =>
    match s.walk b.ctx (page % 2 ^ 32) .read with
    | .leaf t =>
      let va := page * 65536 + (a - t.base)
      if t.package.isNone && t.base ≤ a && a < t.base + 65536 && inStack c b.stackBytes va 1 then some va else none
    | _ => none)

/-- Whether a byte of physical memory belongs to the private stack area of a caravan, placed or saved (R51). -/
def State.isStack (s : State) (a : Nat) : Bool :=
  s.caravans.any (fun c => match Tab.get? s.blocks c.2.block with
    | some b => (s.stackVa b c.2 a).isSome
    | none => false) || s.saved.any (fun b => b.2.caravans.any (fun c => (s.stackVa b.2.block c.2 a).isSome))

/-- A caravan whose stack area has been stored to by another agent in a range of physical memory: the bytes are undefined (R51). -/
def State.loseStack (s : State) (b : Block) (c : Caravan) (a n : Nat) : Caravan :=
  (List.range n).foldl (fun c i =>
    match s.stackVa b c (a + i) with
    | some va => c.stackWrite va [BitVec.ofNat 8 (Config.freeNat s.free i)]
    | none => c) c

/-- The stack areas in a range of physical memory that the host has stored to (R51). -/
def State.loseStacks (s : State) (a n : Nat) : State :=
  let live (c : Nat × Caravan) : Nat × Caravan := match Tab.get? s.blocks c.2.block with
    | some b => (c.1, s.loseStack b c.2 a n)
    | none => c
  let kept (b : SavedBlock) : SavedBlock := { b with caravans := b.caravans.map (fun c => (c.1, s.loseStack b.block c.2 a n)) }
  { s with caravans := s.caravans.map live, saved := s.saved.map (fun b => (b.1, kept b.2)), free := s.free + 1 }

/-- HOST_MEMORY_WRITE (R51, R176, R329, R356): a host write through BAR2, which maps device memory at physical offsets. -/
def execHostMemoryWrite (offset : Nat) (bytes : List Byte) (s : State) : Host.Outcome State Fault Refusal :=
  if offset + bytes.length > 2 ^ 39 then .fault .noStorage
  else .next (((s.recallLines offset bytes.length).outsideStore offset bytes true).loseStacks offset bytes.length)

/-- HOST_MEMORY_READ (R51, R265, R356): a home read at package scope. A poisoned sector and a byte of a caravan's stack area read as
undefined values. -/
def execHostMemoryRead (offset count : Nat) (s : State) : Host.Outcome State Fault Refusal :=
  if offset + count > 2 ^ 39 then .fault .noStorage
  else
    let t := s.recallLines offset count
    let byte (i : Nat) : Byte :=
      if t.poisoned (offset + i) 1 || t.isStack (offset + i) then BitVec.ofNat 8 (Config.freeNat t.free i) else t.homeByte (offset + i)
    .next { t with hostReads := (List.range count).map byte, free := t.free + 1 }

/-! ### Registers -/

/-- DOORBELL (R334): a queue's new tail; a write that names no queue with work to do is ignored. -/
def execDoorbell (value : BitVec 64) (s : State) : Host.Outcome State Fault Refusal :=
  let q := fld value.toNat 0 12
  let tail := fld value.toNat 16 16
  if !s.queueLive q then .next s
  else .next ((s.modQueue q (fun x => { x with tail := tail % 2 ^ (s.queueDesc q).log2n })).refreshQueue q)

/-- DEVICE_ENABLE (R332, R417): the feature check that a write of one to `dev_ctl`.enable makes. -/
def execDeviceEnable (s : State) : Host.Outcome State Fault Refusal :=
  let b := s.bar
  if b.enabled then .next s
  else if b.featEn &&& ~~~ Config.featCap = 0 ∧ b.featEn.toNat % 2 = 1 then
    .next { s with bar := { b with enabled := true, ready := !b.refused, featErr := false } }
  else .next { s with bar := { b with featErr := true } }

/-- PWR_SET_WRITE (R366): a setting from 24 to 48; any other is ignored. -/
def execPwrSetWrite (value : BitVec 64) (s : State) : Host.Outcome State Fault Refusal :=
  let v := fld value.toNat 0 6
  .next (if 24 ≤ v ∧ v ≤ 48 then { s with bar := { s.bar with pwrSet := v } } else s)

/-- `trig_sts` (R351). -/
def State.trigSts (s : State) : Word :=
  let bits (p : GraphSlot → Bool) : Nat := ((s.graphs.filter (fun g => p g.2)).map (fun g => 2 ^ g.1)).sum
  BitVec.ofNat 64 (bits GraphSlot.busy + 2 ^ 16 * bits (fun g => g.pending.isSome) + 2 ^ 32 * s.bar.lostTriggers.toNat)

/-- `dev_sts` (R330). -/
def Bar.devSts (b : Bar) : Word := BitVec.ofNat 64 (b.ready.toNat + 2 * b.featErr.toNat + 4 * b.fatal.toNat)

/-- A register of BAR0 as the host reads it (R330, R331); an offset not listed reads as zero. -/
def State.barRead (s : State) (offset : Nat) : Word :=
  if offset < 0x20 ∧ offset % 8 = 0 then BitVec.ofNat 64 (Config.featCap.toNat / 2 ^ (8 * offset))
  else if 0x20 ≤ offset ∧ offset < 0x40 ∧ offset % 8 = 0 then BitVec.ofNat 64 (s.bar.featEn.toNat / 2 ^ (8 * (offset - 0x20)))
  else if offset = 0x40 then BitVec.ofNat 64 s.bar.enabled.toNat
  else if offset = 0x48 then s.bar.devSts
  else if offset = 0x50 then s.bar.qtab
  else if offset = 0x60 then s.trigSts
  else if offset = 0x68 then BitVec.ofNat 64 s.bar.pwrSet
  else if offset = 0x70 then s.bar.pwrSts
  else if 0x80 ≤ offset ∧ offset ≤ 0x98 ∧ offset % 8 = 0 then BitVec.ofNat 64 (s.die ((offset - 0x80) / 8)).cyc
  else if 0x80000 ≤ offset ∧ offset < 0x81000 ∧ offset % 8 = 0 then
    BitVec.ofNat 64 (leNat ((List.range 8).map (fun i => s.bar.msixByte (offset - 0x80000 + i))))
  else if 0x90000 ≤ offset ∧ offset < 0x90020 ∧ offset % 8 = 0 then
    BitVec.ofNat 64 (s.bar.msixPending.toNat / 2 ^ (8 * (offset - 0x90000)))
  else 0

/-- Bytes of the MSI-X table written. -/
def Bar.msixWrite (b : Bar) (a : Nat) : List Byte → Bar
  | [] => b
  | x :: xs => Bar.msixWrite { b with msix := Tab.set b.msix a x } (a + 1) xs

/-- The pending vectors whose entries are no longer masked sent. -/
def State.sendPending (s : State) : State :=
  let due := (List.range 256).filter (fun v => s.bar.msixPending.toNat / 2 ^ v % 2 = 1 && !s.bar.masked v)
  let left := ((List.range 256).filter (fun v => s.bar.msixPending.toNat / 2 ^ v % 2 = 1 && s.bar.masked v)).map (fun v => 2 ^ v)
  { s with bar := { s.bar with vectorsSent := s.bar.vectorsSent ++ due, msixPending := BitVec.ofNat 256 left.sum } }

/-! ### Resets -/

/-- What a reset leaves (R331, R411, R415 to R417): every register and array at its reset value and memory at zero; the
flash, and but for a cold reset the trails and the message numbers (R360), are kept. A restripe in progress ends with its
bank dropped. The image that an update has written runs from now on if it passes its checks. -/
def State.afterReset (s : State) (cold : Bool) : State :=
  let f := s.flash
  let drop (t : Tab (List Nat)) (r : Nat × Restripe) : Tab (List Nat) := Tab.set t r.1 (r.2.bank :: Tab.getD t r.1 [])
  let image := f.pendingImage.getD f.image
  let version := if image = (0, 0) then 0 else Config.imageVersion image.1 image.2
  let good : Bool := image = (0, 0) || (Config.imageAccepted image.1 image.2 && f.rollback ≤ version)
  let flash : Flash := { f with dropped := s.restripes.foldl drop f.dropped, image := image, pendingImage := none,
                                rollback := if good then max f.rollback version else f.rollback }
  let die (d : Nat) : Die :=
    if cold then Die.reset else { Die.reset with trail := (s.die d).trail, trailCount := (s.die d).trailCount }
  let t : State :=
    { State.reset with agenda := s.agenda, sched := s.sched, free := s.free, nextUid := s.nextUid, mem := s.mem,
                       writes := [.clear], flash := flash, dies := (List.range 4).map (fun d => (d, die d)),
                       netin := { Netin.reset with nextSeq := if cold then [] else s.netin.nextSeq },
                       bar := { Bar.reset with fatal := !good, refused := !good }, boot := if cold then 0 else s.boot + 1 }
  let t1 := if cold then t else t.trail 0 0 0x3f 0x0c 0 0 none
  if f.pendingImage.isSome && good then t1.trail 0 0 0x3f 0x0c 1 0 none else t1

/-- WARM_RESET (R415). -/
def execWarmReset (s : State) : Host.Outcome State Fault Refusal := .next (s.afterReset false)

/-- FUNCTION_LEVEL_RESET (R329, R415): a warm reset of the package. -/
def execFunctionLevelReset (s : State) : Host.Outcome State Fault Refusal := .next (s.afterReset false)

/-- COLD_RESET (R415). -/
def execColdReset (s : State) : Host.Outcome State Fault Refusal := .next (s.afterReset true)

/-- REGISTER_WRITE (R9, R330, R332, R351): a write to a register of BAR0 under its access code. -/
def execRegisterWrite (offset : Nat) (value : BitVec 64) (s : State) : Host.Outcome State Fault Refusal :=
  if 0x20 ≤ offset ∧ offset < 0x40 ∧ offset % 8 = 0 then
    if s.bar.enabled then .next s
    else
      let low := 2 ^ (8 * (offset - 0x20))
      let old := s.bar.featEn.toNat
      let new := old - old / low % 2 ^ 64 * low + value.toNat * low
      .next { s with bar := { s.bar with featEn := BitVec.ofNat 256 new } }
  else if offset = 0x40 then
    if value.toNat / 2 % 2 = 1 then execWarmReset s
    else if value.toNat % 2 = 1 then execDeviceEnable s
    else .next s
  else if offset = 0x50 then
    let v := fld value.toNat 52 12 * 2 ^ 52 + fld value.toNat 6 42 * 64
    .next { s with bar := { s.bar with qtab := BitVec.ofNat 64 v } }
  else if offset = 0x58 then execDoorbell value s
  else if offset = 0x60 then
    .next { s with bar := { s.bar with lostTriggers := s.bar.lostTriggers &&& ~~~ (BitVec.ofNat 16 (value.toNat / 2 ^ 32)) } }
  else if offset = 0x68 then execPwrSetWrite value s
  else if 0x100 ≤ offset ∧ offset ≤ 0x178 ∧ offset % 8 = 0 then execTriggerWrite ((offset - 0x100) / 8) value s
  else if 0x80000 ≤ offset ∧ offset < 0x81000 ∧ offset % 8 = 0 then
    let t : State := { s with bar := s.bar.msixWrite (offset - 0x80000) (leBytes 8 value.toNat) }
    .next t.sendPending
  else .next s

/-! ### Links, power and temperature -/

/-- UCIE_LINK_FAILURE (R357, R416): a fatal package error, recorded in the trail of the edge's die. -/
def execUcieLinkFailure (edge : Nat) (s : State) : Host.Outcome State Fault Refusal :=
  let t : State := { s with bar := { s.bar with fatal := true } }
  .next (t.trail (edge / 4 % 4) 0 0x3f 0x06 0 edge none)

/-- The temperature of a die as `pwr_sts` shows the hottest (R330). -/
def State.measured (s : State) (die temperature : Nat) : State :=
  let t := s.modDie die (fun d => { d with temperature := temperature })
  let hottest := ((List.range 4).map (fun d => (t.die d).temperature)).foldl max 0
  { t with bar := { t.bar with pwrSts := BitVec.ofNat 64 (t.bar.pwrSts.toNat % 2 ^ 16 + 2 ^ 16 * (hottest % 2 ^ 16)) } }

/-- THERMAL_THROTTLE (R366, R416): the die has a temperature at or above its throttle threshold, and its allowance is
lowered by a step; the crossing is recorded once. A die that has cooled has its allowance back. -/
def execThermalThrottle (die temperature : Nat) (s : State) : Host.Outcome State Fault Refusal :=
  let was := (s.die die).temperature
  let t := s.measured die temperature
  if temperature < Config.throttleTemperature then .next (t.modDie die (fun d => { d with steps := 0 }))
  else
    let u := t.modDie die (fun d => { d with steps := d.steps + 1 })
    .next (if was < Config.throttleTemperature then u.trail die 0 0x3f 0x09 0 temperature none else u)

/-- THERMAL_CRITICAL (R366, R416): the package stops, with `dev_sts`.fatal set. -/
def execThermalCritical (die temperature : Nat) (s : State) : Host.Outcome State Fault Refusal :=
  if temperature < Config.criticalTemperature then .next s
  else
    let t := s.measured die temperature
    .next ({ t with bar := { t.bar with fatal := true } }.trail die 0 0x3f 0x09 1 temperature none)

/-- Whether the package has stopped at its critical temperature (R366). -/
def State.stopped (s : State) : Bool :=
  s.bar.fatal && s.dies.any (fun d => d.2.temperature ≥ Config.criticalTemperature)

/-- The units that a die's allowance gains in a local cycle (R209, R366, R430). -/
def State.allowanceGain (s : State) (die : Nat) : Nat :=
  let gain := Config.gainPerCycle s.bar.pwrSet
  if (s.die die).steps = 0 then gain else min gain (Config.throttledGain s.bar.pwrSet (s.die die).steps)

end Sys2Proof.Machine
end

