-- ==== Sys2Proof/Machine/Netin.lean ====
section
/-!
DEFINITION. Netin: frames, messages with acknowledgement and retry, the backlog, collectives, requests of other packages and
failures (R359 to R365).
-/

namespace Sys2Proof.Machine

/-! ### Frames -/

/-- The header of R360. -/
def frameHeader (kind src dst tag seq offset total : Nat) : BitVec 256 :=
  BitVec.ofNat 256 (1 + 2 ^ 8 * kind + 2 ^ 32 * (src % 2 ^ 19) + 2 ^ 64 * (dst % 2 ^ 19) + 2 ^ 96 * (tag % 2 ^ 32)
    + 2 ^ 128 * (seq % 2 ^ 64) + 2 ^ 192 * (offset % 2 ^ 32) + 2 ^ 224 * (total % 2 ^ 32))

/-- Whether a frame is one of a kind for this package (R360): another is discarded. -/
def State.frameFor (s : State) (kind : Nat) (f : Frame) : Bool :=
  let h := f.header.toNat
  fld h 0 8 = 1 && fld h 8 8 = kind && fld h 16 16 = 0 && fld h 51 13 = 0 && fld h 83 13 = 0 && fld h 64 19 = s.netin.package

/-- The MAC address of a port of a package in wire order (R360). -/
def macAddress (system package port : Nat) : List Byte :=
  let v := package * 16 + port
  [0x02, BitVec.ofNat 8 system] ++ (leBytes 4 v).reverse

/-- The cyclic redundancy check of IEEE 802.3 continued over a byte, least significant bit first. -/
def crcByte (c : BitVec 32) (b : Byte) : BitVec 32 :=
  (List.range 8).foldl (fun r _ => if r.getLsbD 0 then (r >>> 1) ^^^ 0xedb88320 else r >>> 1) (c ^^^ b.setWidth 32)

/-- The frame check sequence of IEEE 802.3 over the bytes of a frame (R360; PRESUMED, log entry 44: the spec names the standard). -/
def frameCheck (bs : List Byte) : List Byte := leBytes 4 (~~~ bs.foldl crcByte (BitVec.allOnes 32)).toNat

/-- The bytes of a frame as a port sends it (R360). A frame shorter than the standard's least length is padded with zeros before its
frame check sequence (PRESUMED, log entry 44). -/
def Netin.wire (n : Netin) (port : Nat) (f : Frame) : List Byte :=
  let tag : List Byte := match Tab.get? n.vlan port with
    | some (vid, priority) => [0x81, 0x00] ++ (leBytes 2 (vid % 2 ^ 12 + 2 ^ 13 * (priority % 8))).reverse
    | none => []
  let bs := macAddress n.system (fld f.header.toNat 64 19) port ++ macAddress n.system (fld f.header.toNat 32 19) port ++ tag
    ++ [0x88, 0xb5] ++ leBytes 32 f.header.toNat ++ f.payload
  let whole := bs ++ List.replicate (60 - bs.length) 0
  whole ++ frameCheck whole

/-- The driver sets an item of Netin (R359 to R361). -/
def Netin.setting (n : Netin) (x : NetinSetting) : Netin :=
  let put (v : BitVec 16) (port : Nat) (b : Bool) : BitVec 16 :=
    let bit := BitVec.ofNat 16 (2 ^ port)
    if b then v ||| bit else v &&& ~~~ bit
  match x with
  | .package p => { n with package := p % 2 ^ 19 }
  | .system v => { n with system := v % 256 }
  | .mode port b => { n with messageMode := put n.messageMode port b }
  | .limit port b => { n with limited := put n.limited port b }
  | .vlan port t => { n with vlan := Tab.put n.vlan port t }

/-- A frame sent on a port. -/
def State.sendFrame (s : State) (port : Nat) (f : Frame) : State := s.modNetin (fun n => { n with sent := n.sent ++ [(port, f)] })

/-- The payload limit of a port (R360). -/
def Netin.payload (n : Netin) (port : Nat) : Nat := if n.limited.toNat / 2 ^ port % 2 = 1 then 1024 else 8192

/-- The first live port at or above a tag's, taken cyclically (R360). -/
def Netin.portFor (n : Netin) (tag : Nat) : Option Nat :=
  ((List.range 16).map (fun i => (tag + i) % 16)).find? (fun k =>
    n.messageMode.toNat / 2 ^ k % 2 = 1 && n.failedPorts.toNat / 2 ^ k % 2 = 0)

/-- The fragments of a message of so many bytes: their offsets in bytes in ascending order. -/
def fragmentOffsets (limit total : Nat) : List Nat := (List.range (max 1 ((total + limit - 1) / limit))).map (fun i => i * limit)

/-- The offsets of a message's fragments in bytes. -/
def Message.offsets (m : Message) (n : Netin) : List Nat := fragmentOffsets (n.payload m.port) m.data.length

/-- The fragment of a message at an offset in bytes. -/
def Message.fragment (m : Message) (n : Netin) (at_ : Nat) : Frame :=
  { header := frameHeader m.kind n.package m.dst m.tag m.seq (at_ / m.unit) m.total,
    payload := (m.data.drop at_).take (n.payload m.port) }

/-- The local cycle of the die of a port. -/
def State.portCycle (s : State) (port : Nat) : Nat := (s.die (port / 4)).cyc

/-- The offsets of the fragments of a message that are not acknowledged. -/
def Message.open_ (m : Message) (n : Netin) : List Nat :=
  ((m.offsets n).map (fun o => o / m.unit)).filter (fun o => !m.acked.contains o)

/-- A message whose fragments at some offsets were sent, or answered by a full backlog, in a cycle. -/
def Message.mark (m : Message) (os : List Nat) (now : Nat) : Message :=
  { m with last := os.foldl (fun t o => Tab.set t o now) m.last }

/-- A message of the table with its fragments that are not acknowledged sent (R360). -/
def State.sendMessage (s : State) (id : Nat) (m : Message) : State :=
  let os := m.open_ s.netin
  let t := s.modNetin (fun n => { n with sends := Tab.set n.sends id (m.mark os (s.portCycle m.port)) })
  os.foldl (fun t o => t.sendFrame m.port (m.fragment s.netin (o * m.unit))) t

/-- A message to another package, with the next number of those to it (R360), or none where no port is live. -/
def State.newMessage (s : State) (kind unit dst tag total : Nat) (data : List Byte) (command : Nat) : Option State :=
  match s.netin.portFor tag with
  | none => none
  | some port =>
    let (id, s1) := s.fresh
    let m : Message := { kind := kind, unit := unit, dst := dst, tag := tag, seq := Tab.getD s.netin.nextSeq dst 0, total := total,
                         data := data, port := port, acked := [], held := false, command := command, since := s.portCycle port }
    some ((s1.modNetin (fun n => { n with nextSeq := Tab.set n.nextSeq dst (m.seq + 1) })).sendMessage id m)

/-- A LINK_ERROR event of a port in the trail of the port's die (R362, R416). -/
def State.linkError (s : State) (port : Nat) : State := s.trail (port / 4) 0 0x3f 0x06 1 port none

/-- A front-end command that fails for a port ends with LINK_ERROR, and its messages and collective with it (R362). -/
def State.failCommand (s : State) (id port : Nat) : State :=
  match (Tab.get? s.commands id).bind (fun c => s.signalWait c.ctx c.command.w7) with
  | some t => t
  | none =>
    let t := s.modNetin (fun n =>
      { n with sends := n.sends.filter (fun m => m.2.command ≠ id), collectives := n.collectives.filter (fun c => c.command ≠ id),
               receives := n.receives.filter (fun r => r.command ≠ id) })
    t.completeCommand id (.of statusLinkError port)

/-! ### Sending -/

/-- `MSG_SEND` (R336, R363): the message's bytes are read and its fragments sent; the command completes when the receiver
has accepted them all. -/
def execMsgSend (queue : Nat) (c : Command) (s : State) : Host.Outcome State Fault Refusal :=
  s.issueCommand queue (some 9) c (fun id d t =>
    let tag := c.w3.toNat / 2 ^ 32
    .after d.ctx (t.frontRead d.ctx c.w1 c.w2.toNat) (fun data u =>
      match u.newMessage 0 1 (fld c.w3.toNat 0 19) tag data.length data id with
      | none => .done (.of statusLinkError (tag % 16)) (u.linkError (tag % 16))
      | some v => .running v))

/-- NETIN_ACK_FRAME (R360, R363, R364): a fragment acknowledged; a message whose fragments all are is accepted. -/
def execNetinAckFrame (_port : Nat) (frame : Frame) (s : State) : Host.Outcome State Fault Refusal :=
  let h := frame.header.toNat
  if !s.frameFor 1 frame then .next s
  else
    match s.netin.sends.find? (fun m => m.2.dst = fld h 32 19 ∧ m.2.seq = fld h 128 64) with
    | none => .next s
    | some (k, m) =>
      let acked := if m.acked.contains (fld h 192 32) then m.acked else m.acked ++ [fld h 192 32]
      let m1 : Message := { m with acked := acked, held := false }
      if (m.offsets s.netin).all (fun o => acked.contains (o / m.unit)) then
        let more : Bool := s.netin.sends.any (fun x => x.1 ≠ k && x.2.command = m.command && x.2.kind ≠ 2)
        if m.kind = 2 || more then .next (s.modNetin (fun n => { n with sends := Tab.erase n.sends k }))
        else
          match (Tab.get? s.commands m.command).bind (fun c => s.signalWait c.ctx c.command.w7) with
          | some t => .next t
          | none =>
            let t := s.modNetin (fun n =>
              { n with sends := Tab.erase n.sends k, collectives := n.collectives.filter (fun x => x.command ≠ m.command) })
            .next (t.completeCommand m.command (.of statusComplete))
      else .next (s.modNetin (fun n => { n with sends := Tab.set n.sends k m1 }))

/-- The retry interval (R360). -/
def retryInterval : Nat := Config.remoteTimeout / 16

/-- FRAGMENT_RETRY (R360): a fragment that has not been acknowledged within 1/16 of the remote completion timeout is sent again. -/
def execFragmentRetry (message offset : Nat) (s : State) : Host.Outcome State Fault Refusal :=
  match Tab.get? s.netin.sends message with
  | none => .next s
  | some m =>
    let now := s.portCycle m.port
    if !(m.open_ s.netin).contains offset || now < Tab.getD m.last offset m.since + retryInterval then .next s
    else
      let t := s.modNetin (fun n => { n with sends := Tab.set n.sends message { m.mark [offset] now with held := false } })
      .next (t.sendFrame m.port (m.fragment s.netin (offset * m.unit)))

/-- BACKLOG_FULL_FRAME (R360): the sender waits before it sends the message again, for the retry interval or for word that the
backlog is open. -/
def execBacklogFullFrame (_port : Nat) (frame : Frame) (s : State) : Host.Outcome State Fault Refusal :=
  let h := frame.header.toNat
  if !s.frameFor 4 frame then .next s
  else
    let hold (m : Nat × Message) : Nat × Message :=
      if m.2.dst = fld h 32 19 ∧ m.2.seq = fld h 128 64 then
        (m.1, { m.2.mark (m.2.open_ s.netin) (s.portCycle m.2.port) with held := true })
      else m
    .next (s.modNetin (fun n => { n with sends := n.sends.map hold }))

/-- BACKLOG_OPEN_FRAME (R360): what waits for that receiver is sent again. -/
def execBacklogOpenFrame (_port : Nat) (frame : Frame) (s : State) : Host.Outcome State Fault Refusal :=
  let src := fld frame.header.toNat 32 19
  if !s.frameFor 5 frame then .next s
  else
    let waiting := s.netin.sends.filter (fun m => m.2.dst = src && m.2.held)
    .next (waiting.foldl (fun t m => t.sendMessage m.1 { m.2 with held := false }) s)

/-! ### Receiving -/

/-- The bytes of a message that has arrived whole, in units of `unit` bytes at its offsets. -/
def Arrival.whole (a : Arrival) (unit : Nat) : Option (List Byte) :=
  let bs := (a.parts.map Prod.snd).flatten
  if bs.length = a.total * unit then some bs else none

/-- Whether a receive is posted for a message. -/
def Netin.wanted (n : Netin) (a : Arrival) : Bool := n.receives.any (fun r => r.src = a.src && r.tag = a.tag)

/-- Messages in the backlog (R363): those that have arrived, at least in part, and match no posted receive. -/
def Netin.backlog (n : Netin) : Nat := (n.arrivals.filter (fun a => a.kind = 0 && !a.delivered && !n.wanted a)).length

/-- Whether the messages with one tag that its source sent before a message have been delivered (R363). One of which nothing has come
may have that tag: it is waited for until the remote completion timeout after the message's own first fragment, when its send has
failed (R362; DESIGN CHOICE, log entry 44). -/
def State.inOrder (s : State) (a : Arrival) : Bool :=
  let earlier := s.netin.arrivals.filter (fun b => b.src = a.src && b.seq < a.seq)
  (earlier.length = a.seq || s.portCycle a.port ≥ a.since + Config.remoteTimeout)
    && earlier.all (fun b => b.delivered || b.tag ≠ a.tag || b.kind ≠ 0)

/-- A message delivered: its offsets are kept without their bytes, so that a fragment that comes again is known. -/
def Arrival.done (a : Arrival) : Arrival := { a with delivered := true, parts := a.parts.map (fun p => (p.1, [])) }

/-- The messages with an arrival changed. -/
def Netin.setArrival (n : Netin) (a b : Arrival) : Netin :=
  { n with arrivals := n.arrivals.map (fun x => if x.src = a.src ∧ x.seq = a.seq then b else x) }

/-- The senders that were told of a full backlog are told that it is open (R360). -/
def State.openBacklog (s : State) : State :=
  if s.netin.backlog ≥ 256 then s
  else
    let t := s.modNetin (fun n => { n with fullTold := [] })
    s.netin.fullTold.foldl (fun u x =>
      u.sendFrame x.2 { header := frameHeader 5 s.netin.package x.1 0 0 0 0, payload := [] }) t

/-- A message delivered to its receive (R363): its bytes up to the limit are written, then the command completes. The state, and
whether it was delivered: a page that the driver serves makes it wait (R374). -/
def State.deliver (s : State) (a : Arrival) (r : Receive) (bs : List Byte) : State × Bool :=
  match (Tab.get? s.commands r.command).bind (fun c => s.signalWait c.ctx c.command.w7) with
  | some t => (t, false)
  | none =>
    let gone (t : State) : State := t.modNetin (fun n =>
      { n.setArrival a a.done with receives := n.receives.filter (fun x => x.command ≠ r.command) })
    match s.frontWrite r.ctx r.buffer (bs.take r.limit) with
    | .wait t => (t, false)
    | .fail code cause addr t => ((gone t).completeCommand r.command (faultStatus t r.ctx code cause addr), true)
    | .ok _ t => ((gone t).completeCommand r.command (.of statusComplete (if bs.length > r.limit then 1 else 0)), true)

/-- The first of some messages that can be delivered. -/
def State.deliverFirst (s : State) : List (Arrival × Receive × List Byte) → State × Bool
  | [] => (s, false)
  | x :: r =>
    match s.deliver x.1 x.2.1 x.2.2 with
    | (t, true) => (t, true)
    | (t, false) => State.deliverFirst t r

/-- The messages that have arrived whole matched with the oldest receives of their source and tag (R363). -/
def State.matchMessages (s : State) : Nat → State
  | 0 => s
  | fuel + 1 =>
    let ready := s.netin.arrivals.filterMap (fun a =>
      if a.kind ≠ 0 || a.delivered || !s.inOrder a then none
      else
        match s.netin.receives.find? (fun r => r.src = a.src ∧ r.tag = a.tag), a.whole 1 with
        | some r, some bs => some (a, r, bs)
        | _, _ => none)
    match s.deliverFirst ready with
    | (t, false) => t.openBacklog
    | (t, true) => State.matchMessages t fuel

/-- `MSG_RECV` (R336, R363): a posted receive. -/
def execMsgRecv (queue : Nat) (c : Command) (s : State) : Host.Outcome State Fault Refusal :=
  s.issueCommand queue (some 10) c (fun id d t =>
    let r : Receive := { ctx := d.ctx, buffer := c.w1, limit := c.w2.toNat, src := fld c.w3.toNat 0 19, tag := c.w3.toNat / 2 ^ 32,
                         command := id }
    let u := t.modNetin (fun n => { n with receives := n.receives ++ [r] })
    .running (u.matchMessages 257))

/-- A fragment accepted (R360): it is kept with its message. -/
def State.acceptFragment (s : State) (port kind : Nat) (f : Frame) : State :=
  let h := f.header.toNat
  let src := fld h 32 19
  let seq := fld h 128 64
  let offset := fld h 192 32
  match s.netin.arrivals.find? (fun a => a.src = src ∧ a.seq = seq) with
  | some a => s.modNetin (fun n => n.setArrival a { a with parts := Tab.set a.parts offset f.payload })
  | none =>
    let a : Arrival := { kind := kind, src := src, tag := fld h 96 32, seq := seq, total := fld h 224 32,
                         parts := [(offset, f.payload)], delivered := false, port := port, since := s.portCycle port }
    s.modNetin (fun n => { n with arrivals := n.arrivals ++ [a] })

/-- Whether a fragment has been accepted before (R360). -/
def Netin.accepted (n : Netin) (f : Frame) : Bool :=
  let h := f.header.toNat
  n.arrivals.any (fun a => a.src = fld h 32 19 && a.seq = fld h 128 64 && (Tab.get? a.parts (fld h 192 32)).isSome)

/-- The answer to a fragment: it repeats its number and offset and carries no payload (R360). -/
def State.answer (s : State) (port kind : Nat) (f : Frame) : State :=
  let h := f.header.toNat
  s.sendFrame port { header := frameHeader kind s.netin.package (fld h 32 19) (fld h 96 32) (fld h 128 64) (fld h 192 32) (fld h 224 32),
                     payload := [] }

/-- NETIN_DATA_FRAME (R360, R363): a fragment of a message is accepted and acknowledged, or answered as backlog full. -/
def execNetinDataFrame (port : Nat) (frame : Frame) (s : State) : Host.Outcome State Fault Refusal :=
  if !s.frameFor 0 frame then .next s
  else if s.netin.accepted frame then .next (s.answer port 1 frame)
  else if s.netin.backlog ≥ 256 then
    let src := fld frame.header.toNat 32 19
    .next ((s.answer port 4 frame).modNetin (fun n =>
      { n with fullTold := if n.fullTold.contains (src, port) then n.fullTold else n.fullTold ++ [(src, port)] }))
  else .next (((s.acceptFragment port 0 frame).answer port 1 frame).matchMessages 257)

/-- RESERVED_KIND_FRAME (R360): discarded with no other effect. -/
def execReservedKindFrame (_port : Nat) (_frame : Frame) (s : State) : Host.Outcome State Fault Refusal := .next s

/-! ### Collectives -/

/-- The bytes of an element in a wire format, or none where the format is not accepted (R364). -/
def wireBytes (fmt : Nat) : Option Nat :=
  match fmt with
  | 0 => some 4
  | 2 => some 2
  | 3 => some 1
  | 4 => some 1
  | _ => none

/-- The elements of a list of bytes. -/
def elements (unit : Nat) (bs : List Byte) : List Nat :=
  (List.range (bs.length / unit)).map (fun i => leNat ((bs.drop (unit * i)).take unit))

/-- A contribution without residual carry (R365). -/
def wireValue (fmt x : Nat) : Nat := (convertFloat 0 fmt .rne true x).1

/-- A contribution with residual carry: the wire value and the new residual (R365). -/
def wireCarry (fmt x res : Nat) : Nat × Nat :=
  let v := (fpAdd 0 false .rne false x res).1
  let w := wireValue fmt v
  let keep : Bool := match decode (formatOf 0) v with
    | .nan => false
    | y => !y.isInf
  (w, if keep then (fpSub 0 false .rne false v (convertFloat fmt 0 .rne false w).1).1 else 0)

/-- The operation of a collective on FP32 values (R364). -/
def collectiveOp (op a b : Nat) : Nat :=
  if op = 0 then (fpAdd 0 false .rne false a b).1 else (fpMinMax 0 false (op = 2) a b).1

/-- The results of a collective from the wire values of its ranks in ascending order (R31, R364). -/
def collectiveFold (fmt op : Nat) (ranks : List (List Nat)) (count : Nat) : List Nat :=
  (List.range count).map (fun e =>
    (rankFold (collectiveOp op) (ranks.map (fun r => (convertFloat fmt 0 .rne false (r.getD e 0)).1))).getD 0)

/-- A collective that is over on this rank. -/
def State.dropCollective (s : State) (c : Collective) : State :=
  s.modNetin (fun n => { n with collectives := n.collectives.filter (fun x => x.command ≠ c.command) })

/-- The bytes of a collective's buffer written. -/
def State.collectiveWrite (s : State) (c : Collective) (bs : List Byte) : Found Unit := s.frontWrite c.ctx c.buffer bs

/-- A collective whose parameters differ between ranks: its buffer is undefined (R364). -/
def State.rejectCollective (s : State) (c : Collective) : State :=
  let bs := (List.range (4 * c.count)).map (fun i => (BitVec.ofNat 8 (Config.freeNat s.free i) : Byte))
  let t := match { s with free := s.free + 1 }.collectiveWrite c bs with
    | .ok _ u => u
    | .fail _ _ _ u => u
    | .wait u => u
  (t.dropCollective c).completeCommand c.command (.rejected 12)

/-- A result sent to every other rank, or word of a rejection, which the frame's element count of zero carries. -/
def State.sendResults (s : State) (c : Collective) (count : Nat) (bs : List Byte) : State :=
  (c.ranks.zipIdx).foldl (fun t (p, i) =>
    if i = c.own then t else (t.newMessage 3 4 p c.number count bs c.command).getD t) s

/-- The messages of a collective delivered. -/
def State.consume (s : State) (as : List Arrival) : State := as.foldl (fun t a => t.modNetin (fun n => n.setArrival a a.done)) s

/-- The arrivals of a kind for a collective from a package. -/
def Netin.collected (n : Netin) (kind src number : Nat) : Option Arrival :=
  n.arrivals.find? (fun a => a.kind = kind ∧ a.src = src ∧ a.tag = number ∧ ¬ a.delivered)

/-- Whether what has come of a message can be part of one whose elements have `unit` bytes (R360): every fragment but the last is
as long as a port's payload limit. -/
def Arrival.fits (a : Arrival) (unit : Nat) : Bool :=
  a.parts.all (fun p =>
    p.1 * unit + p.2.length ≤ a.total * unit
      && (p.2.length = 8192 || p.2.length = 1024 || p.1 * unit + p.2.length = a.total * unit))

/-- Whether a message has arrived whole in some width of R364. -/
def Arrival.wholeSome (a : Arrival) : Bool := [1, 2, 4].any (fun u => a.fits u && (a.whole u).isSome)

/-- A result that a rank has written, the command going on until every rank has it (R364). -/
def State.markWritten (s : State) (c : Collective) : State :=
  s.modNetin (fun n => { n with collectives := n.collectives.map (fun x => if x.command = c.command then { x with written := true } else x) })

/-- The rank that folds, rank 0, once the contributions of all have arrived: the results are written and sent, and its own
command completes when every rank has them (R31, R364). A count that differs shows in a contribution's frames, and a format of another
width in their lengths; whether another rank's format and operation agree otherwise is not carried by the frames of R360: it is
an open choice (log entry 44). -/
def State.foldCollective (s : State) (c : Collective) (unit : Nat) : Option State :=
  let others := (c.ranks.zipIdx).filter (fun x => x.2 ≠ c.own)
  match others.mapM (fun x => (s.netin.collected 2 x.1 c.number).map (fun a => (a, x.2))) with
  | none => none
  | some found =>
    let as := found.map Prod.fst
    let known := as.all Arrival.wholeSome
    let (v, s1) := if others.isEmpty || !known then (0, s) else s.choose
    if as.any (fun a => a.total ≠ c.count || !a.fits unit) || v % 2 = 1 then
      some (((s1.consume as).sendResults c 0 []).rejectCollective c)
    else
      match found.mapM (fun x => (x.1.whole unit).map (fun bs => (x.2, elements unit bs))) with
      | none => some s1
      | some parts =>
        let values := (List.range c.ranks.length).map (fun r => if r = c.own then c.wire else Tab.getD parts r [])
        let out := (collectiveFold c.fmt c.op values c.count).flatMap (leBytes 4)
        match s1.collectiveWrite c out with
        | .wait t => some t
        | .fail code cause addr t =>
          some (((t.consume as).dropCollective c).completeCommand c.command (faultStatus t c.ctx code cause addr))
        | .ok _ t =>
          let u := ((t.consume as).markWritten c).sendResults c c.count out
          some (if others.isEmpty then (u.dropCollective c).completeCommand c.command (.of statusComplete) else u)

/-- A rank other than 0 that has its result (R336, R364): its command completes when every rank has one, which of two ranks is at once,
and of more the machine learns in its own time (DESIGN CHOICE, log entry 44: no frame of R360 says it). -/
def State.awaitRanks (s : State) (c : Collective) : State :=
  let (v, t) := if c.ranks.length ≤ 2 then (1, s) else s.choose
  if v % 2 = 1 then (t.dropCollective c).completeCommand c.command (.of statusComplete) else t

/-- A rank that receives its results writes them (R364). -/
def State.takeResults (s : State) (c : Collective) : Option State :=
  match s.netin.collected 3 (c.ranks.getD 0 0) c.number with
  | none => none
  | some a =>
    if a.total ≠ c.count then some ((s.consume [a]).rejectCollective c)
    else
      match a.whole 4 with
      | none => none
      | some bs =>
        match s.collectiveWrite c bs with
        | .wait t => some t
        | .fail code cause addr t =>
          some (((t.consume [a]).dropCollective c).completeCommand c.command (faultStatus t c.ctx code cause addr))
        | .ok _ t => some (((t.consume [a]).markWritten c).awaitRanks c)

/-- The collectives of this package taken as far as they go. -/
def State.progressCollectives (s : State) : State :=
  s.netin.collectives.foldl (fun t c =>
    if (Tab.get? t.commands c.command).bind (fun x => t.signalWait x.ctx x.command.w7) |>.isSome then t
    else if c.written then (if c.own = 0 then t else t.awaitRanks c)
    else if c.own = 0 then (t.foldCollective c ((wireBytes c.fmt).getD 4)).getD t
    else (t.takeResults c).getD t) s

/-- The contributions of a buffer with its residuals (R365): the wire values and the new residuals. -/
def contributions (fmt : Nat) (carry : Bool) (xs rs : List Nat) : List Nat × List Nat :=
  if carry then
    let ws := (xs.zip rs).map (fun x => wireCarry fmt x.1 x.2)
    (ws.map Prod.fst, ws.map Prod.snd)
  else (xs.map (wireValue fmt), [])

/-- A collective begun with what its operands hold (R364, R365). Where a collective in flight names the same residual buffer, what the
buffer holds is undefined, before and after. -/
def State.beginCollective (s0 : State) (id ctx : Nat) (c : Command) (ranks : List Nat) (own : Nat) (xs rs : List Nat) : Issued :=
  let w := c.w2.toNat
  let fmt := fld w 32 4
  let carry : Bool := flag w 40
  let shared := s0.netin.collectives.filter (fun x => carry && x.ctx = ctx && x.residual = some c.w3)
  let undef (k n : Nat) : List Nat := (List.range n).map (fun i => Config.freeNat (s0.free + k) i % 2 ^ 32)
  let s : State := if shared.isEmpty then s0 else { s0 with free := s0.free + 2 }
  let (wire, res0) := contributions fmt carry xs (if shared.isEmpty then rs else undef 0 rs.length)
  let res := if shared.isEmpty then res0 else undef 1 (shared.foldl (fun n x => max n x.count) rs.length)
  let key := ctx * 2 ^ 64 + c.w4.toNat
  let number := Tab.getD s.netin.collNumber key 0
  .after ctx (if carry then s.frontWrite ctx c.w3 (res.flatMap (leBytes 4)) else .ok () s) (fun _ t =>
    let k : Collective := { command := id, ctx := ctx, buffer := c.w1, count := fld w 0 32, fmt := fmt, op := fld w 36 4,
                            ranks := ranks, own := own, number := number, wire := wire, residual := if carry then some c.w3 else none }
    let t1 := t.modNetin (fun n => { n with collNumber := Tab.set n.collNumber key (number + 1), collectives := n.collectives ++ [k] })
    if own = 0 then .running t1.progressCollectives
    else
      let unit := (wireBytes fmt).getD 4
      match t1.newMessage 2 unit (ranks.getD 0 0) number k.count (wire.flatMap (leBytes unit)) id with
      | none => .done (.of statusLinkError (number % 16)) ((t1.dropCollective k).linkError (number % 16))
      | some u => .running u.progressCollectives)

/-- `COLLECTIVE` (R336, R364, R365): an all-reduce of a buffer of FP32 elements over the ranks of a communicator. -/
def execCollectiveCommand (queue : Nat) (c : Command) (s : State) : Host.Outcome State Fault Refusal :=
  s.issueCommand queue (some 8) c (fun id d t =>
    let w := c.w2.toNat
    let count := fld w 0 32
    if (wireBytes (fld w 32 4)).isNone then .done (.rejected 14) t
    else
      .after d.ctx (t.frontNat d.ctx c.w4 16) (fun h u =>
        let n := fld h 0 20
        let own := fld h 32 20
        if n = 0 ∨ n > 524288 ∨ own ≥ n ∨ fld w 36 4 > 2 then
          -- the spec gives no detail for these: an undefined value
          .done (.rejected (Config.freeNat u.free 0 % 256)) { u with free := u.free + 1 }
        else
          .after d.ctx (u.frontRead d.ctx (c.w4 + 16) (4 * n)) (fun rs u1 =>
            .after d.ctx (u1.frontRead d.ctx c.w1 (4 * count)) (fun xs u2 =>
              .after d.ctx (if flag w 40 then u2.frontRead d.ctx c.w3 (4 * count) else .ok [] u2) (fun res u3 =>
                u3.beginCollective id d.ctx c (elements 4 rs) own (elements 4 xs) (elements 4 res))))))

/-- A fragment of a collective's message accepted and acknowledged (R360). -/
def State.collectiveFrame (s : State) (port kind : Nat) (f : Frame) : State :=
  if !s.frameFor kind f then s
  else if s.netin.accepted f then s.answer port 1 f
  else ((s.acceptFragment port kind f).answer port 1 f).progressCollectives

/-- COLLECTIVE_CONTRIBUTION_FRAME (R360, R364). -/
def execCollectiveContributionFrame (port : Nat) (frame : Frame) (s : State) : Host.Outcome State Fault Refusal :=
  .next (s.collectiveFrame port 2 frame)

/-- COLLECTIVE_RESULT_FRAME (R360, R364). -/
def execCollectiveResultFrame (port : Nat) (frame : Frame) (s : State) : Host.Outcome State Fault Refusal :=
  .next (s.collectiveFrame port 3 frame)

/-! ### Requests of other packages -/

/-- The core number that stands for a releasing core of another package. -/
def remoteCore : Nat := 2000

/-- What the home slices answer to a request (R361): poison, or the bytes. -/
def State.replyBytes (s : State) (a n : Nat) : State :=
  let r : Bool × List Byte := (s.poisoned a n, s.homeBytes a n)
  { s with free := s.free + 1, netin := { s.netin with reply := some r } }

/-- NETIN_REMOTE_REQUEST (R361): a request of another package of the domain performed at its home slice, or at a releasing core. An
acquire and a pull are answered once the stores of the releasing core to other packages are acknowledged. -/
def execNetinRemoteRequest (request : RemoteRequest) (s : State) : Host.Outcome State Fault Refusal :=
  let room (a n : Nat) (f : State) : Host.Outcome State Fault Refusal :=
    if a + n > 2 ^ 48 then Host.Outcome.fault Fault.noStorage else Host.Outcome.next f
  match request with
  | .load a n => room a n ((s.recallLines a n).replyBytes a n)
  | .store a bs => room a bs.length ((s.recallLines a bs.length).outsideStore a bs true)
  | .atomic a wide op uns b c =>
    let n := if wide then 8 else 4
    let t := s.recallLines a n
    let old := t.homeNat a n
    let u := t.replyBytes a n
    room a n (if t.poisoned a n then u else u.outsideStore a (leBytes n (atomNew (8 * n) op uns old b.toNat c.toNat)) false)
  | .reduce a fmt op fpc v =>
    let n := formatBits fmt / 8
    let t := s.recallLines a n
    let new := updateNew fmt op (flag fpc 0) (flag fpc 1) (flag fpc 2) (t.homeNat a n) v.toNat
    room a n (if t.poisoned a n then t else
      let u := t.outsideStore a (leBytes n new) false
      { u with free := u.free + 1 })
  | .acquire a n => room a n (if s.owes a n then s else ((s.recallLines a n).pullFor remoteCore 0 5 a n).replyBytes a n)
  | .pull core =>
    if (s.unacknowledged core).isEmpty then
      let t := s.pushAll core
      .next { t with netin := { t.netin with reply := some (false, []) } }
    else .next s
  | .release a bs =>
    let t := (s.recallLines a bs.length).outsideStore a bs true
    let r : ReleaseRecord := { size := bs.length, core := remoteCore, block := 0, scope := 5, sectors := [] }
    room a bs.length { t with releases := Tab.set t.releases a r }

/-! ### Failures -/

/-- A request to another package fails (R362): a read is answered with poison, a store dropped. -/
def State.failOutstanding (s : State) (id : Nat) (o : Outstanding) : State :=
  let after := if o.write then none else some { o with failed := true }
  let t := s.modNetin (fun n => { n with outstanding := Tab.put n.outstanding id after })
  t.linkError o.port

/-- REMOTE_COMPLETION_TIMEOUT (R6, R360, R362): a request, or a message that is not acknowledged, fails when the timeout has passed in
local cycles of its port's die. -/
def execRemoteCompletionTimeout (request : Nat) (s : State) : Host.Outcome State Fault Refusal :=
  let lapsed (port since : Nat) : Bool := s.portCycle port ≥ since + Config.remoteTimeout
  match Tab.get? s.netin.outstanding request, Tab.get? s.netin.sends request with
  | some o, _ => .next (if o.failed || o.answer.isSome || !lapsed o.port o.since then s else s.failOutstanding request o)
  | none, some m => .next (if lapsed m.port m.since then (s.linkError m.port).failCommand m.command m.port else s)
  | none, none => .next s

/-- NETIN_PORT_FAILURE (R362): a port fails without recovery and leaves the hash set; what goes over it fails. -/
def execNetinPortFailure (port : Nat) (s : State) : Host.Outcome State Fault Refusal :=
  if port ≥ 16 then .next s
  else
    let t := (s.modNetin (fun n => { n with failedPorts := n.failedPorts ||| BitVec.ofNat 16 (2 ^ port) })).linkError port
    let lost := t.netin.outstanding.filter (fun o => o.2.port = port && !o.2.failed && o.2.answer.isNone)
    let u := lost.foldl (fun u o => u.failOutstanding o.1 o.2) t
    let cmds := ((u.netin.sends.filter (fun m => m.2.port = port)).map (fun m => m.2.command)).eraseDups
    .next (cmds.foldl (fun v c => v.failCommand c port) u)

/-- NETIN_PORT_RESTORE (R362): the driver restores a failed port. -/
def execNetinPortRestore (port : Nat) (s : State) : Host.Outcome State Fault Refusal :=
  .next (s.modNetin (fun n => { n with failedPorts := n.failedPorts &&& ~~~ (BitVec.ofNat 16 (2 ^ port)) }))

end Sys2Proof.Machine
end

