-- ==== Sys2Proof/Machine/System.lean ====
section
/-!
DEFINITION. Group barriers, completion barriers, the register pool, control registers and the system instructions
(R105 to R118).
-/

namespace Sys2Proof.Machine

/-! ### Group barriers -/

/-- The group of a number, of which the caravan is a member (R57, R108). -/
def myGroup (g : BitVec 8) : Act Group := do
  let m ← me
  match m.blk.groups[g.toNat]? with
  | some x => if x.has m.car.half m.slot then pure x else raise codeIllegal 4
  | none => raise codeIllegal 4

/-- The arrival part of `arrive` and `bar` (R108, R109): the current phase bit; the arrival counts once the bursts
enqueued before it have committed (R262). A caravan that has arrived in the phase waits until it toggles; a path of a divided
one does where it has itself arrived, and adds nothing where its sibling has. -/
def arriveAt (g : BitVec 8) : Act Bool := do
  let m ← me
  let x ← myGroup g
  if x.abandoned then pure x.phase
  else
    let before : Bool := x.counted m.car.half m.slot || m.car.arriving g.toNat
    if if m.car.split.isSome then m.path.arrived.contains g.toNat else before then stall .group
    let n := m.path.laneq.length
    modMyPath (fun p => { p with arrived := g.toNat :: p.arrived })
    if before then pure ()
    else if n = 0 then update (fun s => s.countArrival m.key m.p g.toNat)
    else modMyPath (fun p => { p with arrivals := p.arrivals ++ [(g.toNat, n)] })
    pure x.phase

/-- The waiting part of `await` and `bar` (R108): the barrier-abandoned status. A phase that toggled orders memory for
the group's members, beyond the core for a group that spans a pair (R262). -/
def awaitPhase (g : BitVec 8) (token : Bool) : Act Word := do
  let m ← me
  let x ← myGroup g
  modMyPath (fun p => { p with awaiting := some g.toNat })
  if x.phase = token ∧ ¬ x.abandoned then stall .group
  if x.spans ∧ ¬ x.abandoned then update (fun s => s.modCore m.core Core.dropClean)
  pure (ofBool x.abandoned)

/-- ILLEGAL_OP of a group number (R108). -/
def checkGroup (g : BitVec 8) : Act Unit := do
  let _ ← myGroup g
  pure ()

/-- `arrive` (R108). -/
def execArrive (sd : BitVec 6) (g : BitVec 8) (s : State) : Host.Outcome State Fault Refusal :=
  scalarOp (.arrive sd g) (checkGroup g) (writes sd (do pure (ofBool (← arriveAt g)))) s

/-- `await` (R108): the token is bit 0 of the old `sd`. -/
def execAwait (sd : BitVec 6) (g : BitVec 8) (s : State) : Host.Outcome State Fault Refusal :=
  scalarOp (.await sd g) (checkGroup g) (writes sd (do
    let old ← reg sd
    awaitPhase g (old.toNat % 2 = 1))) s

/-- `bar` (R108): the arrival, whose phase the path keeps while it waits, then the wait. -/
def execBar (sd : BitVec 6) (g : BitVec 8) (s : State) : Host.Outcome State Fault Refusal :=
  scalarOp (.bar sd g) (checkGroup g) (writes sd (do
    let m ← me
    match m.path.token with
    | some t => awaitPhase g t
    | none =>
      let t ← arriveAt g
      modMyPath (fun p => { p with token := some t })
      awaitPhase g t)) s

/-! ### Completion barriers -/

/-- The earliest issued of the faults pending for a caravan on a barrier (R173, R214). -/
def firstFault (c : Caravan) (cb : Nat) : Option EngineFault :=
  (c.engineFaults.filter (fun f => f.barrier = cb)).foldl (fun best f =>
    match best with
    | none => some f
    | some b => if f.order < b.order then some f else some b) none

/-- `cbwait` (R110): it waits for a pending count of zero, raises one pending fault of a failed command (R173), and else
writes the image and clears the status bits. -/
def execCbwait (sd : BitVec 6) (c : BitVec 4) (s : State) : Host.Outcome State Fault Refusal :=
  scalarOp (.cbwait sd c) (pure ()) (writes sd (do
    let m ← me
    let b := m.blk.barrier c.toNat
    if b.pending ≠ 0 then stall .completion
    match firstFault m.car c.toNat with
    | some f =>
      modCar (fun x => { x with engineFaults := x.engineFaults.filter (· ≠ f) })
      raise f.code f.cause f.addr
    | none =>
      update (fun s => s.modBarrier m.car.block c.toNat Barrier.clear)
      pure (BitVec.ofNat 64 b.image))) s

/-- `cbpoll` (R110). -/
def execCbpoll (sd : BitVec 6) (c : BitVec 4) (s : State) : Host.Outcome State Fault Refusal :=
  scalarOp (.cbpoll sd c) (pure ()) (writes sd (do
    let m ← me
    let b := m.blk.barrier c.toNat
    if b.pending = 0 then update (fun s => s.modBarrier m.car.block c.toNat Barrier.clear)
    pure (BitVec.ofNat 64 b.image))) s

/-! ### The register pool -/

/-- The pool instructions need the launch's pool flag (R238). -/
def checkPool : Act Unit := do
  check (← me).blk.pk.pool codeIllegal 5

/-- Lane registers from `n` up lose their contents (R39, R111): what they read as afterwards is undefined. -/
def Caravan.giveLanes (c : Caravan) (n seed : Nat) : Caravan :=
  let fill := match c.lanes.fill with
    | .zero => .zeroUnits 256 (List.range (n / 8)) seed
    | f => f.keepUnits (· < n / 8)
  { c with lanes := { fill := fill, cells := c.lanes.cells.filter (fun x => x.1 < n * 32) }, lbud := n }

/-- `rgive` (R111): registers go from the caravan to its block's pool, and claims are served. -/
def execRgive (n : BitVec 6) (s : State) : Host.Outcome State Fault Refusal :=
  scalarOp (.rgive n) (do
    checkPool
    check (8 * n.toNat + 16 ≤ (← me).car.lbud) codeIllegal 1) (do
    drain
    let m ← me
    let f ← drawFree
    modCar (fun c => c.giveLanes (c.lbud - 8 * n.toNat) f)
    update (fun s => (s.modHalf m.car.block m.car.half (fun h => { h with pool := h.pool + 8 * n.toNat })).serveClaims
      m.car.block m.car.half 64)
    pure .seq) s

/-- Whether a path has a claim queued (R112). -/
def Me.claims (m : Me) : Bool :=
  match m.blk.half? m.car.half with
  | some h => h.claims.any (fun q => q.1 = m.key && q.2.1 = m.p)
  | none => false

/-- `rclaim` (R111, R112): a claim queued, then served in its order; a path that holds the token has been served. A claim that its
sibling's has left too large raises ILLEGAL_OP while it waits. -/
def execRclaim (n : BitVec 6) (s : State) : Host.Outcome State Fault Refusal :=
  scalarOp (.rclaim n) (do
    checkPool
    let m ← me
    check (m.path.token = some true || m.car.lbud + 8 * n.toNat ≤ 256) codeIllegal 1) (do
    let m ← me
    if m.path.token = some true then pure .seq
    else if m.claims then stall .claim
    else
      drain
      let q := (m.key, m.p, 8 * n.toNat)
      update (fun s => (s.modHalf m.car.block m.car.half (fun h => { h with claims := h.claims ++ [q] })).serveClaims
        m.car.block m.car.half 64)
      if (← me).path.token = some true then pure .seq else stall .claim) s

/-! ### Control registers -/

/-- A read of the die's cycle count (R46, R115): recorded where a recording runs, and taken from the log in a replay
(R428). -/
def readCycles : Act Word := do
  let m ← me
  let s ← get
  let tag := s.tagOf m.key
  match s.monitor.replay.bind (fun r => r.log.find? (fun e => e.tag = tag && e.value.isSome
      && e.wkcnt = m.car.wkcnt.toNat)) with
  | some e => pure (BitVec.ofNat 64 (e.value.getD 0))
  | none =>
    let v := (s.die (coreDie m.core)).cyc
    logAccess 0 (some v)
    pure (BitVec.ofNat 64 v)

/-- The value `mfk` reads of a selector (R46 to R48). -/
def readControl (m : Me) (s : State) (sel : Nat) : Word :=
  if sel ≥ 0x50 then Tab.getD (s.core m.core).bndc (sel - 0x50) 0
  else if sel ≥ 0x40 then Tab.getD (s.core m.core).bndv (sel - 0x40) 0
  else
    match sel with
    | 0x00 => m.activeLanes.zeroExtend 64
    | 0x01 => m.car.xm.zeroExtend 64
    | 0x02 => m.car.fpm
    | 0x03 => BitVec.ofNat 64 m.car.lbud
    | 0x04 => BitVec.ofNat 64 (m.p + 2 ^ 5 * m.car.depth)
    | 0x08 => BitVec.ofNat 64 (cidOf m.core m.slot)
    | 0x09 => BitVec.ofNat 64 (m.blk.bid % 2 ^ 24)
    | 0x0a => BitVec.ofNat 64 (m.car.index + 2 ^ 5 * m.blk.pk.caravans + 2 ^ 10 * m.car.half)
    | 0x0b => BitVec.ofNat 64 m.blk.ctx
    | 0x0d => m.car.wkcnt
    | 0x10 => m.car.stklim
    | 0x11 => m.car.stkbase
    | 0x18 => m.car.drawctr
    | 0x19 => m.car.rkey
    | 0x20 => m.car.trapvec
    | 0x21 => m.car.trapcause
    | 0x22 => m.car.trapaddr
    | 0x23 => m.car.trappc
    | _ => 0

/-- A bound control after an `mtk` (R9, R58): `hit` clears where a one is written, `kind` and `action` are written. -/
def writeBoundControl (old v : Word) : Word := (old &&& 8 &&& ~~~ v) ||| (v &&& 7)

/-- What `mtk` writes to a selector (R9, R46 to R48, R58); the others are read only. -/
def writeControl (sel : Nat) (v : Word) : Act Unit := do
  let m ← me
  if sel ≥ 0x50 then
    let j := sel - 0x50
    update (fun s => s.modCore m.core (fun c =>
      { c with bndc := Tab.set c.bndc j (writeBoundControl (Tab.getD c.bndc j 0) v) }))
  else if sel ≥ 0x40 then update (fun s => s.modCore m.core (fun c => { c with bndv := Tab.set c.bndv (sel - 0x40) v }))
  else
    match sel with
    | 0x00 => modMyPath (fun x => { x with em := v.truncate 32 &&& ~~~ m.car.xm })
    | 0x02 => modCar (fun c => { c with fpm := v &&& 0xff })
    | 0x10 => modCar (fun c => { c with stklim := v })
    | 0x18 => modCar (fun c => { c with drawctr := v })
    | 0x19 => modCar (fun c => { c with rkey := v })
    | 0x20 => modCar (fun c => { c with trapvec := v })
    | _ => pure ()

/-- `mfk` (R46, R115), after a drain for the registers of R87. -/
def execMfk (sd : BitVec 6) (sel : BitVec 8) (s : State) : Host.Outcome State Fault Refusal :=
  scalarOp (.mfk sd sel) (pure ()) (writes sd (do
    if mfkDrains sel.toNat then drain
    if sel.toNat = 0x0c then readCycles
    else
      let m ← me
      pure (readControl m (← get) sel.toNat))) s

/-- `mtk` (R46, R115), after a drain for the registers of R87. -/
def execMtk (sa : BitVec 6) (sel : BitVec 8) (s : State) : Host.Outcome State Fault Refusal :=
  scalarOp (.mtk sa sel) (pure ()) (do
    if mtkDrains sel.toNat then drain
    writeControl sel.toNat (← reg sa)
    pure .seq) s

/-! ### System instructions -/

/-- `nop` (R116). -/
def execNop (s : State) : Host.Outcome State Fault Refusal := scalarOp .nop (pure ()) (pure .seq) s

/-- `trap k` (R117): a software trap, which resumes after it. -/
def execTrap (k : BitVec 6) (s : State) : Host.Outcome State Fault Refusal :=
  scalarOp (.trap k) (pure ()) (raise codeSoftware k.toNat) s

/-- `brk` (R117, R422): the caravan halts where the launch's debug flag is set and its context holds the debug right, to
resume after the `brk`; else a `nop`. -/
def execBrk (s : State) : Host.Outcome State Fault Refusal :=
  scalarOp .brk (pure ()) (do
    let m ← me
    let s ← get
    let right : Bool := match Tab.get? s.contexts m.blk.ctx with
      | some c => c.debug
      | none => false
    if m.blk.pk.debug && right then
      modCar (fun c => { c with trapcause := BitVec.ofNat 64 (codeBreak + 2 ^ 16 * m.p), trapaddr := 0,
                                trappc := (m.trap codeBreak 0 0).pc })
      update (fun s => s.haltCaravan m.key)
    pure .seq) s

/-- `ifence` (R116): the quadrant's code caches hold nothing. -/
def execIfence (s : State) : Host.Outcome State Fault Refusal :=
  scalarOp .ifence (pure ()) (do
    let m ← me
    let q := slotQuad m.slot
    update (fun s => s.modCore m.core (fun c =>
      { c with scode := c.scode.filter (fun x => x.1 % 4 ≠ q), lcode := c.lcode.filter (fun x => x.1 % 4 ≠ q) }))
    pure .seq) s

/-- The sectors of the pages of a virtual range that overlap it, as the tables stand. -/
def State.rangeSectors (s : State) (m : Me) (lo n : Nat) : List (Nat × Nat) :=
  (List.range ((lo + n - 1) / 65536 - lo / 65536 + 1)).filterMap (fun i =>
    let page := lo / 65536 + i
    let first := max lo (page * 65536)
    let last := min (lo + n) (page * 65536 + 65536)
    (s.peek m.core m.blk.ctx (BitVec.ofNat 64 first)).map (fun a => (a / 64, (a + (last - first) - 1) / 64)))

/-- `cflush` (R116): the core's dirty sectors that overlap the range go to their home slices, after the path's own
stores. -/
def execCflush (sa sb : BitVec 6) (s : State) : Host.Outcome State Fault Refusal :=
  scalarOp (.cflush sa sb) (pure ()) (do
    let m ← me
    let lo ← reg sa
    let n ← reg sb
    if n ≠ 0 then
      update (fun s => s.drainStores m.key m.p)
      let s ← get
      let ranges := s.rangeSectors m lo.toNat n.toNat
      let ks := (s.core m.core).dirtySectors.filter (fun k => ranges.any (fun r => r.1 ≤ k && k ≤ r.2))
      holdPushes m.core ks
      update (fun s => s.pushSectors m.core ks)
    pure .seq) s

/-- `cycl` (R116): as `mfk cyc`. -/
def execCycl (sd : BitVec 6) (s : State) : Host.Outcome State Fault Refusal :=
  scalarOp (.cycl sd) (pure ()) (writes sd readCycles) s

/-- Whether a pre-emption request stands for a block (R386): one names a core that it occupies. -/
def State.requested (s : State) (b : Block) : Bool := b.halves.any (fun h => (s.core h.core).request.isSome)

/-- `phint` (R118, R387): the bitmaps of live state; where a request is pending for a block that waits for `phint`, the
caravan's save point. -/
def execPhint (sa sb : BitVec 6) (s : State) : Host.Outcome State Fault Refusal :=
  scalarOp (.phint sa sb) (pure ()) (do
    let m ← me
    let groups ← reg sa
    let chunks ← reg sb
    modCar (fun c => { c with hints := some (groups.truncate 32, chunks) })
    let s ← get
    if m.blk.pk.preempt && m.blk.pk.phintReq && s.requested m.blk then
      modCar (fun c => { c with savePoint := some .hints })
      update (fun s => s.stopAtBoundary m.key)
    pure .seq) s

end Sys2Proof.Machine
end

