-- ==== Sys2Proof/Machine/Contexts.lean ====
section
/-!
DEFINITION. Contexts, page walks and page service, invalidation, pre-emption with save and resume, and the deadlock watchdog
(R368 to R376, R385 to R397, R420).
-/

namespace Sys2Proof.Machine

/-! ### Installing and removing -/

/-- CTX_INSTALL (R368, R385, R420): a descriptor read and its context installed. -/
def execCtxInstall (tag : BitVec 16) (addr : BitVec 64) (s : State) : Host.Outcome State Fault Refusal :=
  let w := s.homeNat addr.toNat 32
  let n := fld w 48 16
  let flog := fld w 160 48
  let logN := s.homeNat (flog + 16) 8
  let c : Context := { vector := fld w 248 8, flog := flog, free := fld w 112 48, save := fld w 64 48, root := fld w 12 36 * 4096,
                       modes := BitVec.ofNat 5 w, logN := logN, debug := false, fired := false, waiting := [] }
  let aligned : Bool := flog % 4096 = 0 && c.free % 64 = 0 && c.save % 2 ^ 21 = 0
  if (Tab.get? s.contexts n).isSome then .next (s.respond 1 tag mailRefused)
  else if n = 0 ∨ fld w 208 40 ≠ 0 ∨ fld w 5 7 ≠ 0 ∨ !aligned ∨ logN < 4 ∨ 16 < logN then .next (s.respond 1 tag mailBad)
  else .next ({ s with contexts := Tab.set s.contexts n c }.respond 1 tag mailDone)

/-- Whether something of a context stands in the way of its removal (R370). -/
def State.contextInUse (s : State) (ctx : Nat) : Bool :=
  s.blocks.any (fun b => b.2.ctx = ctx) || s.saved.any (fun b => b.2.block.ctx = ctx) || s.graphs.any (fun g => g.2.ctx = ctx)
    || (List.range s.queueCount).any (fun q => (s.queueDesc q).enable && (s.queueDesc q).ctx = ctx)

/-- CTX_REMOVE (R370, R420). -/
def execCtxRemove (tag : BitVec 16) (ctx : Nat) (s : State) : Host.Outcome State Fault Refusal :=
  if (Tab.get? s.contexts ctx).isNone then .next (s.respond 2 tag mailBad)
  else if s.contextInUse ctx then .next (s.respond 2 tag mailRefused)
  else
    let cores := s.cores.map (fun c => (c.1, c.2.forget ctx))
    .next ({ s with contexts := Tab.erase s.contexts ctx, cores := cores }.respond 2 tag mailDone)

/-- The pages of a range of addresses. -/
def pageIn (base bytes : BitVec 64) (page : Nat) : Bool :=
  page * 65536 < base.toNat % 2 ^ 48 + bytes.toNat && base.toNat % 2 ^ 48 < (page + 1) * 65536

/-- Whether a caravan of a context has a burst with stores that it still holds. -/
def State.holdsStores (s : State) (ctx : Nat) : Bool :=
  s.caravans.any (fun c => (match Tab.get? s.blocks c.2.block with
      | some b => b.ctx = ctx
      | none => false)
    && c.2.paths.any (fun p => match p.2.burst with
      | some b => !b.stores.isEmpty
      | none => false))

/-- The stores of every path of a context performed. -/
def State.drainContext (s : State) (ctx : Nat) : State :=
  let mine (c : Caravan) : Bool := match Tab.get? s.blocks c.block with
    | some b => b.ctx = ctx
    | none => false
  let drain (t : State) (c : Nat × Caravan) : State := c.2.paths.foldl (fun u p => u.drainStores c.1 p.1) t
  (s.caravans.filter (fun c => mine c.2)).foldl drain s

/-- INVALIDATE (R376, R420): every core of the context drops its cached translations of the range, the accesses translated
through them having completed. The mailbox holds the request while a burst of the context holds stores (`State.mailHeld`). -/
def execInvalidate (tag : BitVec 16) (ctx : Nat) (base bytes : BitVec 64) (s : State) : Host.Outcome State Fault Refusal :=
  if (Tab.get? s.contexts ctx).isNone then .next (s.respond 3 tag mailBad)
  else if s.holdsStores ctx then .next s
  else
    let drop (c : Core) : Core := { c with tlb := c.tlb.filter (fun t => !(t.2.ctx = ctx && pageIn base bytes t.1)) }
    let t := s.drainContext ctx
    let u : State := { t with cores := t.cores.map (fun c => (c.1, drop c.2)) }
    .next (u.respond 3 tag mailDone)

/-! ### Page walks -/

/-- A walk of a core done: its translation is cached, where the core still runs its context. -/
def State.walkDone (s : State) (core : Nat) (w : Walk) (t : Translation) : State :=
  let mine : Bool := (s.blocksOn core).any (fun b => b.2.ctx = w.ctx)
  s.modCore core (fun c => { c with walks := c.walks.filter (· ≠ w), tlb := if mine then Tab.set c.tlb w.page t else c.tlb })

/-- A walk of a core that found a fault, kept until every path that waits for it has raised it (R374). -/
def State.walkFailed (s : State) (core : Nat) (w : Walk) (code cause : Nat) : State :=
  s.modCore core (fun c => { c with walks := c.walks.map (fun v => if v = w then { v with result := some (code, cause) } else v) })

/-- The bursts that wait for a page that is being served are abandoned (R375): they stay at the heads of their lane-issue
queues. -/
def State.abandonWaiters (s : State) (w : Walk) : State :=
  let drop (x : Path) : Path := if x.burst.isSome && x.laneStall = some .data then { x with burst := none } else x
  w.waiters.foldl (fun t k => t.modPath (k / 2) (k % 2) drop) s

/-- The driver asked to serve the page of a walk, for the path that first waits (R385). -/
def State.askFor (s : State) (w : Walk) (va : Word) : Nat × State :=
  match w.waiters with
  | [] => s.askService w.ctx w.page va
  | k :: _ =>
    match s.caravan? (k / 2) with
    | none => s.askService w.ctx w.page va
    | some c =>
      let pc : Word := match Tab.get? c.paths (k % 2) with
        | none => 0
        | some x => (match x.burst with
          | some b => if x.laneStall = some .data then lanePc b else scalarPc x.spc
          | none => scalarPc x.spc)
      let place : Word := match Tab.get? s.blocks c.block with
        | none => 0
        | some b => BitVec.ofNat 64 (b.bid + 2 ^ 32 * (match Tab.get? s.launches b.launch with
          | some l => l.handle
          | none => 0))
      s.askService w.ctx w.page va (s.tagOf (k / 2)) pc place

/-- A walk of a core made, or made again (R371 to R375): the service of a demand leaf abandons the bursts that wait. -/
def State.makeWalk (s : State) (core : Nat) (w : Walk) : State :=
  match s.walk w.ctx w.page .read with
  | .leaf t => s.walkDone core w t
  | .fault a b => s.walkFailed core w a b
  | .demand e =>
    if !s.hostMode w.ctx 0 then
      match (s.abandonWaiters w).serveFree w.ctx w.page e .read with
      | .leaf t s1 => s1.walkDone core w t
      | .fault a b s1 => s1.walkFailed core w a b
      | .wait s1 => s1
    else
      let va : Word := (BitVec.ofNat 48 (w.page * 65536)).signExtend 64
      let (i, s1) := match s.serviceOf w.ctx w.page with
        | some i => (i, s)
        | none => s.askFor w va
      (s1.abandonWaiters w).modCore core (fun c => { c with walks := c.walks.map (fun v =>
        if v = w then { v with entry := e, service := some i, result := none } else v) })

/-- Whether a die's walkers have taken a walk (R374): 16 of them take walks in the order they were requested. -/
def State.walkerHas (s : State) (die : Nat) (w : Walk) : Bool :=
  let ahead := (s.cores.filter (fun c => coreDie c.1 = die)).flatMap (fun c =>
    c.2.walks.filter (fun v => v.service.isNone && v.result.isNone && v.seq < w.seq))
  ahead.length < 16

/-- PAGE_WALK_COMPLETE (R374): one walk for all misses of a core on a page. -/
def execPageWalkComplete (core page : Nat) (s : State) : Host.Outcome State Fault Refusal :=
  match (s.core core).walks.find? (fun w => w.page = page ∧ w.service.isNone ∧ w.result.isNone) with
  | none => .next s
  | some w => .next (if s.walkerHas (coreDie core) w then s.makeWalk core w else s)

/-- PAGE_SERVICE_REPLY (R374, R385): the driver's reply word is read; 1 has the walks made again, 2 declines the service. -/
def execPageServiceReply (ctx record : Nat) (s : State) : Host.Outcome State Fault Refusal :=
  match Tab.get? s.contexts ctx with
  | none => .next s
  | some c =>
    let reply := s.homeNat (c.flog + 64 + 64 * (record % 2 ^ c.logN) + 32) 8
    let mine (w : Walk) : Bool := w.ctx = ctx && w.service = some record && w.result.isNone
    let all := s.cores.flatMap (fun k => (k.2.walks.filter mine).map (fun w => (k.1, w)))
    let again (t : State) (k : Nat) (w : Walk) : State :=
      let v : Walk := { w with service := none }
      (t.modCore k (fun x => { x with walks := x.walks.map (fun u => if u = w then v else u) })).makeWalk k v
    if reply = 1 then .next (all.foldl (fun t x => again t x.1 x.2) s)
    else if reply = 2 then .next (all.foldl (fun t x => t.walkFailed x.1 x.2 codePageFault 3) s)
    else .next s

/-- A record that waited for room in the fault log of a context written once there is room (R385). -/
def State.flushLog (s : State) (ctx : Nat) : State :=
  match Tab.get? s.contexts ctx with
  | none => s
  | some c =>
    match c.waiting with
    | [] => s
    | (key, words) :: _ =>
      match s.logRecord ctx words with
      | none => s
      | some (i, t) =>
        let t1 := t.modContext ctx (fun c => { c with waiting := c.waiting.drop 1 })
        if key ≥ 2 ^ 64 then t1.modDie (key - 2 ^ 64) (fun d => { d with mapChange := d.mapChange.map (fun m => (m.1, m.2.1, i)) })
        else
          let fix (w : Walk) : Walk := if w.ctx = ctx ∧ w.page = key ∧ w.service = some unwritten then { w with service := some i } else w
          { t1 with cores := t1.cores.map (fun k => (k.1, { k.2 with walks := k.2.walks.map fix })) }

/-! ### Pre-emption -/

/-- A caravan stops at its boundary with full state (R387); one with a pending trap is saved after its delivery. -/
def State.stopForSave (s : State) (key : Nat) : State :=
  match s.caravan? key with
  | none => s
  | some c =>
    if c.savePoint.isSome || c.paths.any (fun p => p.2.pending.isSome) then s
    else (s.stopAtBoundary key).modCaravan key (fun c => { c with savePoint := some .full })

/-- PREEMPTION_REQUEST (R386, R387): a request names a core and reaches every block on it, a paired one with both its halves; the
caravans of a block without `phint_req` stop at once. A core without blocks needs no request. -/
def execPreemptionRequest (core : Nat) (s : State) : Host.Outcome State Fault Refusal :=
  let ask (c : Core) : Core := if c.request.isSome then c else { c with request := some (s.die (coreDie core)).cyc }
  let s1 := if (s.blocksOn core).isEmpty then s else s.modCore core ask
  let now := (s1.blocksOn core).filter (fun b => b.2.pk.preempt && !b.2.pk.phintReq)
  .next ((now.flatMap (fun b => b.2.caravanKeys)).foldl State.stopForSave s1)

/-- FORCED_SAVE_BOUND (R387): a caravan that has retired no `phint` within the bound stops at its next boundary. -/
def execForcedSaveBound (core slot : Nat) (s : State) : Host.Outcome State Fault Refusal :=
  let key := carKey core slot
  match (s.caravan? key).bind (fun c => Tab.get? s.blocks c.block) with
  | none => .next s
  | some b =>
    let due : Bool := b.halves.any (fun h => match (s.core h.core).request with
      | some t => !b.pk.phintReq || (s.die (coreDie core)).cyc ≥ t + Config.forcedSaveBound
      | none => false)
    .next (if b.pk.preempt && due then s.stopForSave key else s)

/-- Whether the engines have finished what a save waits for (R389, R390): copies complete, a started matrix operation too, a
sweep stands between two colour phases, and every other dune command ahead of it has finished. A publication that waits for its
subscribers is saved with the sweep, and a command that waits for bursts that the save abandons is saved in the queue (DESIGN
CHOICES, log entry 51). -/
def State.enginesRest (s : State) (bid : Nat) (b : Block) : Bool :=
  b.halves.all (fun h =>
    let c := s.core h.core
    !(c.copies.any (fun o => o.block = bid && !o.done))
      && (match c.mat.running with
        | some o => o.block ≠ bid
        | none => true)
      && (!b.pk.dune || (match c.dune.sweep, c.dune.queue with
        | some w, _ => !w.inPhase
        | none, [] => true
        | none, q :: _ => q.form.sweepTotal.isSome || q.bursts > 0)))

/-- The lane registers that a `phint` has declared dead hold undefined values (R118, R387). -/
def Caravan.dropDead (c : Caravan) (free : Nat) : Caravan :=
  match c.savePoint, c.hints with
  | some .hints, some (groups, _) =>
    let cell (k : Nat) : Option (Nat × LaneWord) :=
      if groups.toNat / 2 ^ (k / 256) % 2 = 1 then (Tab.get? c.lanes.cells k).map (fun v => (k, v))
      else some (k, BitVec.ofNat 32 (Config.freeNat free k))
    { c with lanes := { c.lanes with cells := (List.range (32 * c.lbud)).filterMap cell } }
  | _, _ => c

/-- The scratchpad chunks that no `phint` has declared live hold undefined values (R118, R387). -/
def Half.dropDead (h : Half) (bytes live free : Nat) : Half :=
  let cell (k : Nat) : Option (Nat × Byte) :=
    if live / 2 ^ (k / 8192) % 2 = 1 then (Tab.get? h.scratch.cells k).map (fun v => (k, v))
    else some (k, BitVec.ofNat 8 (Config.freeNat free k))
  { h with scratch := { h.scratch with cells := (List.range bytes).filterMap cell } }

/-- A caravan as its save slot holds it: at no save point any longer. -/
def Caravan.saved (c : Caravan) (free : Nat) : Caravan := { c.dropDead free with savePoint := none, hints := none }

/-- The parts of a core that a save writes beside its caravan slots (R391): the claimed accumulator tiles in the row order of R52,
the claimed operand buffer, and the lane registers, the scratchpad, the dune array and the state of the core, whose places in their
regions the spec does not give. -/
def State.writeSaveArea (s : State) (ctx core : Nat) (p : Packet) : State :=
  match Tab.get? s.contexts ctx with
  | none => s
  | some x =>
    let base := x.save + 3145728 * core
    let m := (s.core core).mat
    let s1 := if p.matrix then
        (s.homeStore (base + 1572864) ((m.acc.readList 0 (2048 * p.acc)).flatMap (fun v => leBytes 4 v.toNat)) true).homeStore
          (base + 2097152) (m.ob.readList 0 (4096 * p.ob)) true
      else s
    (s1.writeFree base 1572864).writeFree (base + 2359296) 196608

/-- The parts of a core that a save takes with a block (R196, R203, R389, R391), and the core without them. -/
def State.takeCore (s : State) (core bid : Nat) (p : Packet) : State :=
  let s1 := (s.pushAll core).returnPairLines core
  s1.modCore core (fun c =>
    { c with tiles := c.tiles.filter (fun t => t.2.block ≠ bid), copies := c.copies.filter (fun o => o.block ≠ bid),
             mat := { c.mat with queue := if p.matrix then [] else c.mat.queue, records := if p.matrix then [] else c.mat.records,
                                 posts := c.mat.posts.filter (fun q => q.block ≠ bid) },
             dune := if p.dune then c.dune.leaveSaved else c.dune })

/-- BLOCK_SAVE_COMPLETE (R387, R389 to R391): a block all of whose caravans stand at their save points, and whose engines
rest, is saved as a unit, as a release at system scope, and leaves its cores. -/
def execBlockSaveComplete (block : Nat) (s : State) : Host.Outcome State Fault Refusal :=
  match Tab.get? s.blocks block with
  | none => .next s
  | some b =>
    let cs := s.members block
    if !(b.pk.preempt && s.requested b) || cs.any (fun c => c.2.savePoint.isNone) || !s.enginesRest block b || cs.isEmpty then
      .next s
    else
      let s0 : State := cs.foldl (fun t c => c.2.paths.foldl (fun t p => t.drainStores c.1 p.1) t) s
      let f := s0.free
      let full : Bool := cs.any (fun c => c.2.savePoint = some .full)
      let live := cs.foldl (fun n c => match c.2.hints with
        | some h => Nat.lor n h.2.toNat
        | none => n) 0
      let half (h : Half) (i : Nat) : Half := if full then h else h.dropDead b.scratchBytes live (f + 64 + i)
      let s1 : State := { s0 with free := f + 66 }
      let caravans := (s1.members block).map (fun c => (c.1, c.2.saved (f + c.1 % 64)))
      let cores := b.halves.map (fun h => h.core)
      let keep {α : Type} (get : Core → α) : Tab α := cores.map (fun n => (n, get (s1.core n)))
      let bk : SavedBlock :=
        { block := { b with halves := b.halves.mapIdx (fun i h => half h i) }, caravans := caravans,
          mats := if b.pk.matrix then keep (fun c => c.mat) else [], dunes := if b.pk.dune then keep (fun c => c.dune) else [],
          tiles := keep (fun c => c.tiles.filter (fun t => t.2.block = block)),
          posts := keep (fun c => c.mat.posts.filter (fun q => q.block = block)),
          copies := keep (fun c => c.copies.filter (fun o => o.block = block)) }
      let s2 := cores.foldl (fun t n => (t.writeSaveArea b.ctx n b.pk).takeCore n block b.pk) s1
      let s3 := caravans.foldl (fun t c => t.writeSaveSlot b.ctx c.1 c.2) s2
      let s4 : State := { s3 with caravans := s3.caravans.filter (fun c => c.2.block ≠ block), blocks := Tab.erase s3.blocks block,
                                  saved := Tab.set s3.saved block bk }
      .next (cores.foldl State.requestDone s4)

/-- Whether a saved block can resume now: its cores hold no other context, its reservation can be made again there, and the
slots that it left are free (R392). -/
def State.mayResume (s : State) (b : SavedBlock) : Bool :=
  let own := (b.block.record.filter (fun r => r.reserved)).map (fun r => (r.graph, r.node))
  b.block.halves.all (fun h =>
    s.fits h.core b.block.ctx b.block.pk own && h.slots.all (fun k =>
      !((s.heldSlots h.core).contains k) && (Tab.get? (s.core h.core).notices k).isNone))

/-- The matrix engine of a core with that of a saved block brought back (R203, R391): the posts of the core's blocks stay, and so
does what the block did not claim. -/
def Matrix.resume (saved now : Matrix) (p : Packet) : Matrix :=
  let acc : BitVec 64 := BitVec.ofNat 64 (2 ^ p.acc - 1)
  let ob := obSectors 0 (4096 * p.ob)
  { saved with posts := now.posts, slaved := now.slaved, running := now.running,
               accPoison := (saved.accPoison &&& acc) ||| (now.accPoison &&& ~~~ acc),
               obPoison := (saved.obPoison &&& ob) ||| (now.obPoison &&& ~~~ ob) }

/-- The parts of a core that a resume brings back (R58, R60, R196, R391, R392); the bound registers are those of the context as it
left them. -/
def Core.restore (c : Core) (n : Nat) (b : SavedBlock) (h : Half) : Core :=
  let mat : Matrix := match Tab.get? b.mats n with
    | some m => m.resume c.mat b.block.pk
    | none => c.mat
  let dune : Dune := match Tab.get? b.dunes n with
    | some d => d.resume c.dune
    | none => c.dune
  let tiles := (Tab.getD b.tiles n []).foldl (fun t (x : Nat × Tile) => Tab.set t x.1 x.2) c.tiles
  let c1 : Core := { c with mat := { mat with posts := mat.posts ++ Tab.getD b.posts n [] }, dune := dune, tiles := tiles,
                            copies := c.copies ++ Tab.getD b.copies n [] }
  ((c1.markUnits b.block.ctx b.block.pk h.laneUnits h.scratchUnits).useBounds b.block.ctx).dropClean

/-- The half of a saved block as it resumes: with the lowest free units of storage (DESIGN CHOICE, log entry 41). -/
def State.resumeHalf (s : State) (p : Packet) (h : Half) : Half :=
  { h with laneUnits := s.takeLaneUnits h.core p, scratchUnits := s.takeScratchUnits h.core p }

/-- A path whose saved state is undefined (R370). -/
def Path.spoil (x : Path) (f : Nat) : Path :=
  { x with spc := BitVec.ofNat 64 (Config.freeNat f 64 % 2 ^ 48), em := BitVec.ofNat 32 (Config.freeNat f 65) }

/-- A caravan whose saved state is undefined (R370): every word of it is free. -/
def Caravan.spoil (c : Caravan) (f : Nat) : Caravan :=
  let word (k : Nat) : Word := BitVec.ofNat 64 (Config.freeNat f k)
  { c with sregs := (List.range 63).foldl (fun t k => Tab.set t (k + 1) (word (k + 1))) [], lanes := ⟨.free (f + 1), []⟩,
           xm := BitVec.ofNat 32 (Config.freeNat f 66),
           preds := (List.range 7).foldl (fun t k => Tab.set t (k + 1) (BitVec.ofNat 32 (Config.freeNat f (67 + k)))) [],
           queues := c.queues.map (fun q => (q.1, q.2.mapIdx (fun i e => e.mapIdx (fun l _ =>
             BitVec.ofNat 32 (Config.freeNat (f + 2) (1024 * q.1 + 32 * i + l)))))),
           drawctr := word 80, rkey := word 81, trapvec := word 82, trapcause := word 83, trapaddr := word 84, trappc := word 85,
           stklim := word 86, paths := c.paths.map (fun x => (x.1, x.2.spoil (f + 3 + x.1))) }

/-- A saved block that has been stored into (R370): the words of its state are undefined (DESIGN CHOICE, log entry 23: the numbers
of its entries and its waits are as they were). -/
def SavedBlock.spoil (b : SavedBlock) (f : Nat) : SavedBlock :=
  let half (i : Nat) (h : Half) : Half := { h with scratch := ⟨.free (f + i), []⟩ }
  { b with block := { b.block with halves := b.block.halves.mapIdx half },
           caravans := b.caravans.map (fun c => (c.1, c.2.spoil (f + 8 * (c.1 % 128) + 16))),
           mats := b.mats.map (fun m => (m.1, { m.2 with acc := ⟨.free (f + 4 + m.1 % 2), []⟩, ob := ⟨.free (f + 6 + m.1 % 2), []⟩ })),
           dunes := b.dunes.map (fun d => (d.1, { d.2 with states := ⟨.free (f + 8 + d.1 % 2), []⟩ })) }

/-- BLOCK_RESUME (R392): a saved block resumes on the cores and slots that it left, as an acquire at system scope. -/
def execBlockResume (block : Nat) (s : State) : Host.Outcome State Fault Refusal :=
  match Tab.get? s.saved block with
  | none => .next s
  | some b0 =>
    if !s.mayResume b0 then .next s
    else
      let b1 := if b0.spoiled then b0.spoil s.free else b0
      let b : SavedBlock := { b1 with block := { b1.block with halves := b1.block.halves.map (s.resumeHalf b1.block.pk) } }
      let s1 : State := { s with saved := Tab.erase s.saved block, blocks := Tab.set s.blocks block b.block,
                                 caravans := b.caravans.foldl (fun t c => Tab.set t c.1 c.2) s.caravans,
                                 free := if b0.spoiled then s.free + 1040 else s.free }
      .next (b.block.halves.foldl (fun t h => t.modCore h.core (fun c => c.restore h.core b h)) s1)

/-- A saved block as another block of a context (R203, R391). -/
def SavedBlock.rename (b : SavedBlock) (id ctx : Nat) : SavedBlock :=
  let op (o : MatrixOp) : MatrixOp := { o with block := id, ctx := ctx }
  let tiles (t : Tab Tile) : Tab Tile := t.map (fun y => (y.1, { y.2 with block := id }))
  { b with block := { b.block with ctx := ctx, launch := 0, record := none },
           caravans := b.caravans.map (fun c => (c.1, { c.2 with block := id })),
           mats := b.mats.map (fun m => (m.1, { m.2 with queue := m.2.queue.map op })),
           tiles := b.tiles.map (fun x => (x.1, tiles x.2)),
           posts := b.posts.map (fun x => (x.1, x.2.map (fun q => { q with block := id }))),
           copies := b.copies.map (fun x => (x.1, x.2.map (fun o => { o with block := id, ctx := ctx }))) }

/-- SAVE_MOVE (R391, R420): a save area copied into that of a context; refused while the context has placed blocks. A saved
block that stands in the source area stands in the context's area as well. -/
def execSaveMove (tag : BitVec 16) (ctx : Nat) (source : BitVec 64) (s : State) : Host.Outcome State Fault Refusal :=
  match Tab.get? s.contexts ctx with
  | none => .next (s.respond 9 tag mailBad)
  | some c =>
    if s.blocks.any (fun b => b.2.ctx = ctx) then .next (s.respond 9 tag mailRefused)
    else
      let size := 3145728 * 192
      let src := source.toNat
      let cells := (s.mem.filter (fun x => src ≤ x.1 && x.1 < src + size)).map (fun x =>
        HomeWrite.byte (c.save + (x.1 - src)) x.2)
      let owners := (s.contexts.filter (fun x => x.2.save = src && x.1 ≠ ctx)).map Prod.fst
      let moved := (s.saved.filter (fun b => owners.contains b.2.block.ctx)).map Prod.snd
      let t : State := { s with writes := cells ++ (.zero c.save size :: s.writes) }
      .next ((moved.foldl (fun t b =>
        let (id, u) := t.fresh
        { u with saved := Tab.set u.saved id (b.rename id ctx) }) t).respond 9 tag mailDone)

/-! ### The deadlock watchdog -/

/-- Whether an operation of a caravan that it may wait for is carried over Netin (R395). -/
def State.waitsOnNetin (s : State) (c : Caravan) : Bool :=
  let remote : Place → Bool := fun p => match p with
    | .remote _ => true
    | _ => false
  s.cores.any (fun k => k.2.copies.any (fun o => o.caravan = c.uid && !o.done && (remote o.srcPlace || remote o.dstPlace)))

/-- Whether a path waits for a record slot (R325). -/
def State.waitsForRecord (s : State) (key p : Nat) : Bool :=
  s.graphs.any (fun g => match g.2.run with
    | some r => r.nodes.any (fun n => n.2.waiters.any (fun w => w.path = key * 2 + p))
    | none => false)

/-- Whether a path waits internally (R395). -/
def State.pathWaits (s : State) (key p : Nat) (c : Caravan) (x : Path) : Bool :=
  let ordered : Bool := match x.burst with
    | some b => b.issued && b.deferred.isSome && x.laneStall = some .busy
    | none => false
  let idle : Bool := x.drained
  ordered || (idle && (match x.stall with
    | some .group => true
    | some .tile => true
    | some .claim => true
    | some .capsule => true
    | some .completion => !s.waitsOnNetin c
    | _ => s.waitsForRecord key p))

/-- Whether an engine operation, copy, fill or drain of a context on a die is outstanding other than one that waits
internally (R396): a horizon wait and a queued matrix operation that cannot start do. -/
def State.engineBusy (s : State) (die ctx : Nat) : Bool :=
  let mine (b : Nat) : Bool := match Tab.get? s.blocks b with
    | some x => x.ctx = ctx
    | none => false
  s.cores.any (fun k => coreDie k.1 = die &&
    (k.2.copies.any (fun o => o.ctx = ctx && !o.done)
      || (match k.2.mat.running with
        | some o => o.ctx = ctx
        | none => false)
      || (s.duneCtx k.1 = some ctx && !k.2.dune.queue.isEmpty && (match k.2.dune.sweep with
        | some w => !w.waiting
        | none => true)) || k.2.mat.posts.any (fun p => mine p.block && k.2.mat.running.isSome)))

/-- Whether an external wait of a context stands on a die (R395). -/
def State.externalWait (s : State) (die ctx : Nat) : Bool :=
  (s.die die).harts.any (fun h => h.2.waiting && h.2.waitExt && h.2.fctx = ctx)
    || s.queues.any (fun q => (s.queueDesc q.1).ctx = ctx && (s.queueDesc q.1).die = die && (match q.2.held with
      | some c => fld c.w0.toNat 0 8 = 5 && flag c.w3.toNat 0
      | none => false))
    || s.cores.any (fun k => coreDie k.1 = die && k.2.walks.any (fun w => w.ctx = ctx && w.service.isSome && w.result.isNone))

/-- The caravans of a context placed on a die. -/
def State.placed (s : State) (die ctx : Nat) : List (Nat × Caravan) :=
  s.caravans.filter (fun c => coreDie (c.1 / 64) = die && (match Tab.get? s.blocks c.2.block with
    | some b => b.ctx = ctx
    | none => false))

/-- Whether a caravan waits internally (R395): each of its paths does, or one does and the other waits for it at their join (DESIGN
CHOICE, log entry 51: the table does not name `join`). -/
def State.carWaits (s : State) (key : Nat) (c : Caravan) : Bool :=
  c.paths.any (fun p => s.pathWaits key p.1 c p.2) && c.paths.all (fun p => s.pathWaits key p.1 c p.2 || c.joins p.2)

/-- Whether a local cycle of a die counts for a context's watchdog (R396, R423). -/
def State.watchCounts (s : State) (die ctx : Nat) : Bool :=
  let cs := s.placed die ctx
  !cs.isEmpty && cs.all (fun c => c.2.savePoint.isSome || c.2.halted || s.carWaits c.1 c.2)
    && !s.engineBusy die ctx && !s.externalWait die ctx

/-- A local cycle of a die's watchdog (R396): counts rise or return to zero, which withdraws a report. -/
def State.watchStep (s : State) (die : Nat) : State :=
  s.contexts.foldl (fun t c =>
    if s.watchCounts die c.1 then t.modDie die (fun d => { d with watch := Tab.set d.watch c.1 (Tab.getD d.watch c.1 0 + 1) })
    else t.modDie die (fun d => { d with watch := Tab.erase d.watch c.1, reports := d.reports.filter (· ≠ c.1) })) s

/-- The trap of WATCHDOG at a path. -/
def watchdogTrap (x : Path) : Trap :=
  { code := codeWatchdog, cause := 0, addr := 0, pc := scalarPc x.spc, resume := x.spc, removed := [] }

/-- What waits in a saved block for the bursts of one of its paths that are removed goes on (R205, R213). -/
def SavedBlock.afterBursts (b : SavedBlock) (key p n : Nat) : SavedBlock :=
  { b with mats := b.mats.map (fun m => (m.1, m.2.afterBursts key p n)),
           dunes := b.dunes.map (fun d => (d.1, d.2.afterBursts key p n)) }

/-- WATCHDOG pending in the caravans of a saved block, their entries removed. -/
def SavedBlock.watchdog (b : SavedBlock) : SavedBlock :=
  let clear (c : Nat × Caravan) (u : SavedBlock) : SavedBlock :=
    c.2.paths.foldl (fun v x => v.afterBursts c.1 x.1 x.2.laneq.length) u
  let quiet (x : Nat × Path) : Nat × Path := (x.1, { x.2 with laneq := [], fences := [], arrivals := [] })
  let mark (c : Nat × Caravan) : Nat × Caravan :=
    (c.1, { c.2 with paths := match c.2.paths.map quiet with
      | (p, x) :: r => (p, { x with pending := some (watchdogTrap x), stall := some .faultPending }) :: r
      | [] => [] })
  { b.caravans.foldl (fun u c => clear c u) b with caravans := b.caravans.map mark }

/-- WATCHDOG raised in every caravan of a context at once, on every die (R397); in a saved one it is delivered when it
resumes. What waits for the bursts that it removes goes on. -/
def State.raiseWatchdog (s : State) (ctx : Nat) : State :=
  let cs := (List.range 4).flatMap (fun d => s.placed d ctx)
  let s1 := cs.foldl (fun t c =>
    match c.2.paths with
    | [] => t
    | (p, x) :: _ =>
      let quiet := (t.dropBursts c.1).modCaravan c.1 (fun k => { k with halted := false, savePoint := none })
      quiet.takeTrap c.1 p (watchdogTrap x)) s
  let owed := (s1.saved.filter (fun b => b.2.block.ctx = ctx)).flatMap (fun b => b.2.caravans.flatMap (fun c =>
    c.2.paths.map (fun x => (c.2.uid, x.1, x.2.laneq.length))))
  let s2 := owed.foldl (fun t o => (t.settleReleases o.1 o.2.1 o.2.2 []).settleRecords o.1 o.2.1 o.2.2) s1
  { s2 with saved := s2.saved.map (fun b => if b.2.block.ctx = ctx then (b.1, b.2.watchdog) else b) }

/-- The event of a watchdog that fires, in the trail of die (0, 0) (R416). -/
def State.watchdogTrail (s : State) (ctx : Nat) : State := s.trail 0 ctx 0x3f 0x0a codeWatchdog 0 none

/-- WATCHDOG_REPORT (R396, R397): a die whose count has reached the bound reports; the watchdog fires when every die that
holds caravans of the context has reported. -/
def execWatchdogReport (die ctx : Nat) (s : State) : Host.Outcome State Fault Refusal :=
  if Tab.getD (s.die die).watch ctx 0 < Config.watchdogBound then .next s
  else
    let t := s.modDie die (fun d => { d with reports := if d.reports.contains ctx then d.reports else d.reports ++ [ctx] })
    let all : Bool := (List.range 4).all (fun d => (t.placed d ctx).isEmpty || (t.die d).reports.contains ctx)
    if !all then .next t
    else if !t.hostMode ctx 4 then .next ((t.raiseWatchdog ctx).watchdogTrail ctx)
    else
      match Tab.get? t.contexts ctx with
      | none => .next t
      | some c =>
        if c.fired then .next t
        else
          .next ((t.logFault ctx [recordWord codeWatchdog 0 3 0, BitVec.ofNat 64 die, 0, 0, 0, 0, 0, 0]).modContext ctx
            (fun c => { c with fired := true }))

/-- WATCHDOG_ACT (R397, R420): the driver's action after the watchdog of a context has fired in host-assisted mode. -/
def execWatchdogAct (tag : BitVec 16) (ctx action : Nat) (s : State) : Host.Outcome State Fault Refusal :=
  match Tab.get? s.contexts ctx with
  | none => .next (s.respond 10 tag mailBad)
  | some c =>
    if action > 1 then .next (s.respond 10 tag mailBad)
    else if !c.fired then .next (s.respond 10 tag mailRefused)
    else
      let t := s.modContext ctx (fun c => { c with fired := false })
      if action = 0 then .next (t.respond 10 tag mailDone)
      else .next (((t.raiseWatchdog ctx).watchdogTrail ctx).respond 10 tag mailDone)

end Sys2Proof.Machine
end

