-- ==== Sys2Proof/Machine/Control.lean ====
section
/-!
DEFINITION. Loops, branches and calls, divergence, `lrun` and the instructions that read or write masks and lanes
(R97 to R107).
-/

namespace Sys2Proof.Machine

/-! ### Loops, branches and calls -/

/-- The address a signed word displacement from an SPC names (R62). -/
def branchTarget {n : Nat} (spc : Word) (disp : BitVec n) : Word := spc + 4 * disp.signExtend 64

/-- `lpset` (R97): the counter set; a count of zero goes on after the `lpend`. -/
def execLpset (sd sa : BitVec 6) (imm : BitVec 14) (s : State) : Host.Outcome State Fault Refusal :=
  scalarOp (.lpset sd sa imm) (pure ()) (do
    let m ← me
    let n ← reg sa
    setReg sd n
    pure (if n = 0 then .jump (branchTarget m.path.spc imm + 4) else .seq)) s

/-- `lpend` (R97): the counter lowered; the loop goes on while it is not zero. -/
def execLpend (sd : BitVec 6) (imm : BitVec 14) (s : State) : Host.Outcome State Fault Refusal :=
  scalarOp (.lpend sd imm) (pure ()) (do
    let m ← me
    let n := (← reg sd) - 1
    setReg sd n
    pure (if n ≠ 0 then .jump (branchTarget m.path.spc imm) else .seq)) s

/-- `br` (R98). -/
def execBr (imm : BitVec 20) (s : State) : Host.Outcome State Fault Refusal :=
  scalarOp (.br imm) (pure ()) (do pure (.jump (branchTarget (← me).path.spc imm))) s

/-- `call` (R98): `s63` := SPC + 4. -/
def execCall (imm : BitVec 20) (s : State) : Host.Outcome State Fault Refusal :=
  scalarOp (.call imm) (pure ()) (do
    let m ← me
    setRegNat 63 (m.path.spc + 4)
    pure (.jump (branchTarget m.path.spc imm))) s

/-- `bc.cc` (R98): a branch where `sa` cc 0 holds. -/
def execBc (c : BitVec 4) (sa : BitVec 6) (imm : BitVec 14) (s : State) : Host.Outcome State Fault Refusal :=
  scalarOp (.bc c sa imm) (pure ()) (do
    let m ← me
    let v ← reg sa
    pure (if condHolds c.toNat v 0 then .jump (branchTarget m.path.spc imm) else .seq)) s

/-- A jump to a register's value, which is a multiple of 4 (R98). -/
def jumpTo (target : Word) : Act Flow := do
  check (target.toNat % 4 = 0) codeMisaligned 1 target
  pure (.jump target)

/-- `jmp` (R98). -/
def execJmp (sa : BitVec 6) (s : State) : Host.Outcome State Fault Refusal :=
  scalarOp (.jmp sa) (pure ()) (do jumpTo (← reg sa)) s

/-- `calli` (R98): `s63` := SPC + 4; the target is read before the write. -/
def execCalli (sa : BitVec 6) (s : State) : Host.Outcome State Fault Refusal :=
  scalarOp (.calli sa) (pure ()) (do
    let m ← me
    let target ← reg sa
    setRegNat 63 (m.path.spc + 4)
    jumpTo target) s

/-- `ret` (R98); in a match handler it ends the handler and ignores `s63` (R425). -/
def execRet (s : State) : Host.Outcome State Fault Refusal :=
  scalarOp .ret (pure ()) (do
    let m ← me
    match m.path.handler with
    | some h =>
      modMyPath (fun x => { x with handler := none })
      pure (.jump h.matched)
    | none => jumpTo (m.reg 63)) s

/-! ### Divergence -/

/-- A predicate of the caravan, inverted where a bit says so. -/
def predOf (c : Caravan) (p : Nat) (neg : Bool) : Mask := if neg then ~~~ c.pred p else c.pred p

/-- A push of `bytes` of record keeps the depth at most 31 and stays above `stklim` (R50, R99). -/
def checkPush (m : Me) (bytes : Nat) : Act Unit := do
  check (m.car.depth < 31) codeStackLimit 1
  let low := m.car.recordBytes + bytes
  check (m.car.stklim.toNat + low ≤ (m.car.sreg 61).toNat) codeStackLimit 0 (m.car.sreg 61 - BitVec.ofNat 64 low)

/-- A record of `bytes` written to the stack memory below `s61` (R50, R102): the spec gives it no layout, so its bytes are undefined
values there (DESIGN CHOICE, log entry 25). -/
def pushRecord (bytes : Nat) : Act Unit := do
  let m ← me
  let at_ := m.car.sreg 61 - BitVec.ofNat 64 (m.car.recordBytes + bytes)
  let bs ← freeBytes bytes
  match (← get).putBytes m.key at_ bs with
  | .done t => set t
  | .wait t =>
    set t
    stall .data
  | .fault code cause t =>
    set t
    raise code cause at_

/-- A new path at a split (R99): it takes over nothing of the path that splits but its match state and fences. -/
def splitPath (x : Path) (spc : Word) (em : Mask) : Path :=
  { x with spc := spc, em := em, laneq := [], burst := none, recs := [], stall := none, pending := none, token := none,
           storeq := [], loaded := [], fences := [], arrivals := [], awaiting := none, laneStall := none, board := [] }

/-- `brd` (R99). -/
def execBrd (p : BitVec 3) (n : BitVec 1) (t j : BitVec 11) (s : State) : Host.Outcome State Fault Refusal :=
  scalarOp (.brd p n t j) (pure ()) (do
    drain
    let m ← me
    let a := m.activeLanes
    let taken := a &&& predOf m.car p.toNat (n = 1)
    let target := branchTarget m.path.spc t
    let join := m.path.spc + 4 * j.zeroExtend 64
    if a ≠ 0 ∧ taken = a then pure (.jump target)
    else if taken = 0 then pure .seq
    else if m.car.split.isNone then
      update (fun s => s.drainStores m.key m.p)
      let c ← (do pure (← me).car)
      let x0 := { m.path with em := a &&& ~~~ taken, recs := [], storeq := [] }
      let paths : Tab Path := [(0, x0), (1, splitPath m.path target taken)]
      modCar (fun _ => { c with paths := paths, split := some join, baseRecs := m.path.recs })
      pure .seq
    else
      checkPush m 32
      pushRecord 32
      modMyPath (fun x =>
        { x with em := taken, recs := .split (m.path.spc + 4) (a &&& ~~~ taken) join false :: x.recs })
      pure (.jump target)) s

/-- The sibling of a path, where it has not ended. -/
def Me.sibling (m : Me) : Option (Nat × Path) := m.car.paths.find? (fun x => x.1 ≠ m.p)

/-- The top-level merge of a divided caravan (R100, R103): one path, numbered 0, with the records pushed before the
split. `retired` counts the `join` instructions that complete. -/
def Caravan.merge (c : Caravan) (x : Path) (em : Mask) (spc : Word) (retired : Nat) : Caravan :=
  let y : Path := { x with spc := spc, em := em &&& ~~~ c.xm, recs := c.baseRecs, stall := none, token := none,
                           matchDone := false }
  { c with paths := [(0, y)], split := none, baseRecs := [], wkcnt := c.wkcnt + BitVec.ofNat 64 retired }

/-- `join` (R100). A path that waits for its sibling at the join of their split holds the token. -/
def execJoin (s : State) : Host.Outcome State Fault Refusal :=
  scalarOp .join (pure ()) (do
    drain
    let m ← me
    match m.path.recs with
    | .split spc em join second :: rest =>
      if join = m.path.spc then
        if second then
          modMyPath (fun x => { x with em := (em ||| x.em) &&& ~~~ m.car.xm, recs := rest })
          pure .seq
        else
          modMyPath (fun x => { x with em := em, recs := .split spc x.em join true :: rest })
          pure (.jump spc)
      else pure .seq
    | .callv _ _ _ _ :: _ => pure .seq
    | [] =>
      if m.car.split ≠ some m.path.spc then pure .seq
      else
        match m.sibling with
        | none =>
          modCar (fun c => c.merge m.path m.path.em (m.path.spc + 4) 1)
          pure .stay
        | some (q, y) =>
          if y.spc = m.path.spc ∧ y.recs = [] ∧ y.token = some true ∧ y.drained then
            update (fun s => (s.drainStores m.key q).drainStores m.key m.p)
            let c ← (do pure (← me).car)
            let zero := Tab.getD c.paths 0 m.path
            let other := Tab.getD c.paths 1 m.path
            let x : Path := { zero with relScope := max zero.relScope other.relScope,
                                        loaded := zero.loaded ++ other.loaded,
                                        arrived := zero.arrived ++ other.arrived }
            modCar (fun _ => c.merge x (zero.em ||| other.em) (m.path.spc + 4) 2)
            pure .stay
          else
            modMyPath (fun x => { x with token := some true })
            stall .data) s

/-! ### `callv` -/

/-- The lanes of a mask whose target is an address (R102). -/
def targetLanes (active : Mask) (targets : List Word) (t : Word) : Mask :=
  maskOf (fun l => hasLane active l && targets.getD l 0 = t)

/-- The lowest target of the active lanes that is at or above a bound (R102). -/
def lowestTarget (active : Mask) (targets : List Word) (bound : Nat) : Option Word :=
  ((lanesOf active).map (fun l => targets.getD l 0)).foldl (fun best t =>
    if t.toNat < bound then best
    else
      match best with
      | none => some t
      | some b => if t.toNat < b.toNat then some t else some b) none

/-- The word of a procedure header (R65): its budget, none where the word is no header. -/
def headerBudget (w : Nat) : Option Nat :=
  if fld w 26 6 = 0x3f ∧ fld w 20 6 = 0 ∧ fld w 0 14 = 0 ∧ 2 ≤ fld w 14 6 ∧ fld w 14 6 ≤ 32 then some (8 * fld w 14 6)
  else none

/-- The checks of a procedure header (R102). -/
def checkHeader (lbud w : Nat) : Act Unit :=
  match headerBudget w with
  | none => raise codeCallBudget 0
  | some n => check (n ≤ lbud) codeCallBudget 1

/-- `callv` (R102): every target is checked before the first call. -/
def execCallv (sa : BitVec 6) (k : BitVec 3) (s : State) : Host.Outcome State Fault Refusal :=
  scalarOp (.callv sa k) (pure ()) (do
    drain
    let m ← me
    let base ← reg sa
    let active := m.activeLanes
    if siblingPops m k.toNat then stall .queueEmpty
    match Tab.getD m.car.queues k.toNat [] with
    | [] => stall .queueEmpty
    | entry :: rest =>
      let targets := (List.range 32).map (fun l => base + (entry.getD l 0).zeroExtend 64)
      let own := ((lanesOf active).map (fun l => targets.getD l 0)).eraseDups
      match own.find? (fun t => t.toNat % 4 ≠ 0) with
      | some t => raise codeMisaligned 1 t
      | none => pure ()
      if active ≠ 0 then checkPush m 160
      -- CALL_BUDGET comes before the faults of reading another header (R86)
      let _ ← inRank (own.map (fun t => do pure (leNat (← codePart (← translate (t - 4) .fetch) (t - 4) 4))))
        (checkHeader m.car.lbud)
      if active ≠ 0 then pushRecord 160
      modCar (fun c => { c with queues := Tab.set c.queues k.toNat rest })
      match lowestTarget active targets 0 with
      | none => pure .seq
      | some cur =>
        let ret := m.path.spc + 4
        setRegNat 63 ret
        modMyPath (fun x => { x with em := targetLanes active targets cur, recs := .callv active ret targets cur :: x.recs })
        pure (.jump cur)) s

/-- A path whose SPC has reached the ret of its innermost `callv` record (R102): the next procedure, or the end of the
call. -/
def resumeCallv (c : Caravan) (x : Path) : Caravan × Path :=
  match x.recs with
  | .callv active ret targets cur :: rest =>
    match lowestTarget active targets (cur.toNat + 1) with
    | some t =>
      (c.setSreg 63 ret, { x with spc := t, em := targetLanes active targets t &&& ~~~ c.xm,
                                  recs := .callv active ret targets t :: rest })
    | none => (c, { x with em := active &&& ~~~ c.xm, recs := rest })
  | _ => (c, x)

/-- Whether the SPC of a path has reached the ret of its innermost record. -/
def Path.atReturn (x : Path) : Bool :=
  match x.recs with
  | .callv _ ret _ _ :: _ => x.spc = ret
  | _ => false

/-- `done` (R103). -/
def execDone (s : State) : Host.Outcome State Fault Refusal :=
  scalarOp .done (pure ()) (do
    drain
    let m ← me
    let xm := m.car.xm ||| m.activeLanes
    match m.path.recs with
    | .callv _ ret _ _ :: _ =>
      modCar (fun c => { c with xm := xm })
      modMyPath (fun x => { x with em := 0 })
      pure (.jump ret)
    | .split spc em join second :: rest =>
      modCar (fun c => { c with xm := xm })
      if second then
        modMyPath (fun x => { x with em := em &&& ~~~ xm, recs := rest })
        pure (.jump (join + 4))
      else
        modMyPath (fun x => { x with em := em, recs := .split spc 0 join true :: rest })
        pure (.jump spc)
    | [] =>
      if m.car.split.isSome ∧ m.sibling.isSome then
        update (fun s => s.drainStores m.key m.p)
        modCar (fun c => { c with xm := xm, paths := Tab.erase c.paths m.p, wkcnt := c.wkcnt + 1 })
        pure .stay
      else
        modCar (fun c => { c with xm := 0xffffffff })
        update (fun s => s.endCaravan m.key)
        pure .stay) s

/-! ### Bursts and lanes -/

/-- `lrun` (R64, R104): an entry appended to the lane-issue queue. -/
def execLrun (r : BitVec 6) (l : BitVec 4) (imm : BitVec 16) (s : State) : Host.Outcome State Fault Refusal :=
  scalarOp (.lrun r l imm) (do check ((← reg r).toNat ≤ 255) codeIllegal 1) (do
    let m ← me
    let v ← reg r
    if m.path.laneq.length ≥ 4 then stall .busy
    let e : LaneEntry := { rep := v.toNat, len := l.toNat,
                           start := m.blk.pk.lcodeBase + BitVec.ofNat 64 (12 * imm.toNat), lrun := m.path.spc }
    modMyPath (fun x => { x with laneq := x.laneq ++ [e] })
    pure .seq) s

/-- `mfem` (R40, R105): a lane that has exited reads as zero. -/
def execMfem (sd : BitVec 6) (s : State) : Host.Outcome State Fault Refusal :=
  scalarOp (.mfem sd) (pure ()) (writes sd (do pure ((← me).activeLanes.zeroExtend 64))) s

/-- `mtem` (R105). -/
def execMtem (sa : BitVec 6) (s : State) : Host.Outcome State Fault Refusal :=
  scalarOp (.mtem sa) (pure ()) (do
    drain
    let m ← me
    let v ← reg sa
    modMyPath (fun x => { x with em := v.truncate 32 &&& ~~~ m.car.xm })
    pure .seq) s

/-- A vote (R106): a function of the active lanes and of those of them where the predicate holds. -/
def vote (i : Instr) (sd : BitVec 6) (n : BitVec 1) (p : BitVec 3) (f : Mask → Mask → Word) (s : State) :
    Host.Outcome State Fault Refusal :=
  scalarOp i (pure ()) (writes sd (do
    drain
    let m ← me
    pure (f m.activeLanes (m.activeLanes &&& predOf m.car p.toNat (n = 1))))) s

/-- `vote.any` (R106). -/
def execVoteAny (sd : BitVec 6) (n : BitVec 1) (p : BitVec 3) (s : State) : Host.Outcome State Fault Refusal :=
  vote (.voteAny sd n p) sd n p (fun _ v => ofBool (v ≠ 0)) s

/-- `vote.all` (R106). -/
def execVoteAll (sd : BitVec 6) (n : BitVec 1) (p : BitVec 3) (s : State) : Host.Outcome State Fault Refusal :=
  vote (.voteAll sd n p) sd n p (fun a v => ofBool (v = a)) s

/-- `vote.ball` (R106). -/
def execVoteBall (sd : BitVec 6) (n : BitVec 1) (p : BitVec 3) (s : State) : Host.Outcome State Fault Refusal :=
  vote (.voteBall sd n p) sd n p (fun _ v => v.zeroExtend 64) s

/-- `lget` (R107): one lane of a lane register below `lbud`. -/
def execLget (sd r sb : BitVec 6) (h : BitVec 2) (s : State) : Host.Outcome State Fault Refusal :=
  let n := h.toNat * 64 + r.toNat
  scalarOp (.lget sd r sb h) (do check (n < (← me).car.lbud) codeIllegal 2) (writes sd (do
    drain
    let m ← me
    let l ← reg sb
    pure ((m.car.lane n (l.toNat % 32)).zeroExtend 64))) s

end Sys2Proof.Machine
end

