-- ==== Sys2Proof/Machine/Repair.lean ====
section
/-!
DEFINITION. Storage errors and scrubs, bank repair, the health of dune arrays, the trail's reading, firmware and identity
(R405 to R420).
-/

namespace Sys2Proof.Machine

/-! ### Storage errors -/

/-- A sector poisoned (R405). -/
def State.poisonSector (s : State) (k : Nat) : State := { s with poison := Tab.set s.poison k true }

/-- A caravan that reads a register with an uncorrectable error raises POISON (R405). -/
def State.poisonCaravan (s : State) (key cause : Nat) : State :=
  match s.caravan? key with
  | none => s
  | some c =>
    match c.paths with
    | [] => s
    | (p, x) :: _ =>
      s.raiseTrap key p { code := codePoison, cause := cause, addr := 0, pc := scalarPc x.spc, resume := x.spc, removed := [] }

/-- Every block of a core ends faulted with POISON cause 2 (R405). -/
def State.poisonCore (s : State) (core : Nat) : State :=
  let keys := (s.blocksOn core).flatMap (fun b => b.2.caravanKeys)
  keys.foldl (fun t k =>
    ((t.dropBursts k).modCaravan k (fun c => { c with halted := false, savePoint := none })).poisonCaravan k 2) s

/-- What a failed dune command would have written holds undefined values (R214). -/
def State.loseDune (s : State) (core : Nat) (form : DuneForm) : State :=
  let f := s.free
  match form with
  | .load _ first count => s.loseRows core first count
  | .bias _ first count =>
    let words := (List.range count).map (fun k => Config.freeNat f k)
    { s.modDune core (fun d =>
      { d with bias := Tab.setList d.bias first (words.map (BitVec.ofNat 16)),
               colours := Tab.setList d.colours first (words.map (fun w => fld w 16 3)) }) with free := f + 1 }
  | .pairs _ =>
    { s.modDune core (fun d =>
      { d with pairs := Tab.setList [] 0 ((List.range 256).map (fun k => BitVec.ofNat 32 (Config.freeNat f k))),
               pairCounts := Tab.setList [] 0 ((List.range 256).map (fun k => Config.freeNat f (256 + k) % 2 ^ 32)) })
      with free := f + 1 }
  | .clamp _ =>
    { s.modDune core (fun d => { d with clampMask := BitVec.ofNat 1024 (Config.freeNat f 0), clampVal := BitVec.ofNat 1024 (Config.freeNat f 1),
                                        states := ⟨.free f, []⟩ }) with free := f + 1 }
  | .init _ => { s.modDune core (fun d => { d with states := ⟨.free f, []⟩ }.loseProgress f) with free := f + 1 }
  | .sweep _ _ _ => { s.modDune core (fun d => { d with states := ⟨.free f, []⟩ }) with free := f + 1 }
  | _ => s

/-- The running dune command of a core ends in error with POISON (R214, R405). -/
def State.poisonDune (s : State) (core : Nat) : State :=
  let d := (s.core core).dune
  match d.queue with
  | [] => s
  | c :: _ =>
    let t := s.loseDune core c.form
    match d.sweep with
    | some w => t.endInError core w codePoison 2 0
    | none => if c.bursts > 0 then s else t.retireDune core c false false (some (codePoison, 2, 0))

/-- A sector of a stack cache poisoned: it goes to its memory, whose sector is poisoned. -/
def State.poisonStack (s : State) (key sector : Nat) : State :=
  match s.caravan? key with
  | none => s
  | some c =>
    match (Tab.get? s.blocks c.block).bind (fun b => s.peek (key / 64) b.ctx (BitVec.ofNat 64 (64 * sector))) with
    | none => s
    | some a =>
      (s.modCaravan key (fun c => { c with stack := c.stack.filter (fun x => x.1 / 64 ≠ sector) })).poisonSector (a / 64)

/-- An uncorrectable error of a storage array (R405), by the row of its table: HBM and die SRAM by their sector; the L1, the
scratchpad chunk, the operand-buffer sector, the accumulator tile and the code-cache word by their number on the core; a
stack-cache sector and the registers of a caravan by its slot; tables and queues, and the dune array, by the core; the
front end's own memories; and the generator of a dune array that begins to fail (R286). -/
def State.storageError (s : State) (row core index : Nat) : State :=
  match row with
  | 0 => s.poisonSector index
  | 1 => s.poisonSector index
  | 2 => s.modCore core (fun c => { c with l1 := Tab.modify c.l1 index (fun x => { x with poison := true }) })
  | 3 => s.modHalf (index / 128) (index / 64 % 2) (fun h => { h with scratchPoison := h.scratchPoison ||| BitVec.ofNat 64 (2 ^ (index % 64)) })
  | 4 => s.modMatrix core (fun m => { m with obPoison := m.obPoison ||| obSectors (64 * (index % 4096)) 64 })
  | 5 => s.poisonStack (carKey core (index % 64)) (index / 64)
  | 6 => s.poisonCaravan (carKey core (index % 64)) 0
  | 7 => s.modMatrix core (fun m => { m with accPoison := m.accPoison ||| BitVec.ofNat 64 (2 ^ (index % 64)) })
  | 8 => s.modCore core (fun c => { c with scode := Tab.erase c.scode index, lcode := Tab.erase c.lcode index })
  | 9 => s.poisonCore core
  | 10 => s.poisonDune core
  | 11 => { s with bar := { s.bar with fatal := true } }
  | 12 => s.modDune core (fun d => { d with broken := true })
  | _ => s

/-- The die of an HBM stack: two stacks stand beside each die. -/
def stackDie (t : Nat) : Nat := t / 2 % 4

/-- A corrected or an uncorrectable error that a scrub finds (R406, R416): a second correction of a sector in one pass is
recorded; a sector that cannot be corrected is poisoned and recorded. -/
def State.scrub (s : State) (hbm : Bool) (sector : Nat) (corrected : Bool) : State :=
  let key := 2 * sector + hbm.toNat
  let die := if hbm then stackDie (hbmStack (64 * sector)) else homeSlice (64 * sector) none / 48
  let row := if hbm then 0 else 1
  if corrected then
    if s.scrubbed.contains key then s.trail die 0 0x3f 0x08 0 row (some (64 * sector % 2 ^ 48))
    else { s with scrubbed := s.scrubbed ++ [key] }
  else (s.poisonSector sector).trail die 0 0x3f 0x08 1 row (some (64 * sector % 2 ^ 48))

/-- SRAM_SCRUB (R406). -/
def execSramScrub (sector : Nat) (corrected : Bool) (s : State) : Host.Outcome State Fault Refusal :=
  .next (s.scrub false sector corrected)

/-- HBM_SCRUB (R406). -/
def execHbmScrub (sector : Nat) (corrected : Bool) (s : State) : Host.Outcome State Fault Refusal :=
  .next (s.scrub true sector corrected)

/-- The scrub passes that end in this cycle of a die: their corrections are forgotten (R406, R430). -/
def State.endScrubs (s : State) (die : Nat) : State :=
  let cyc := (s.die die).cyc
  let keep (k : Nat) : Bool :=
    if k % 2 = 1 then !(die = 0 && cyc % 2 ^ 36 = 0)
    else !(homeSlice (64 * (k / 2)) none / 48 = die && cyc % Config.sramScrubInterval = 0)
  { s with scrubbed := s.scrubbed.filter keep }

/-! ### HBM bank repair -/

/-- The banks of a stack that are dropped (R409). -/
def State.droppedBanks (s : State) (stack : Nat) : List Nat := Tab.getD s.flash.dropped stack []

/-- Regions of 2 MiB that a restripe moves: the 512 GiB of R409's 964 live banks in each of eight stacks. -/
def regionCount : Nat := 2 ^ 18

/-- The live bank and offset of a line while a restripe of its stack may be in progress (R409, R411). -/
def State.lineBank (s : State) (a : Nat) : Nat × Nat :=
  let t := hbmStack a
  match Tab.get? s.restripes t with
  | some r => if a / 2 ^ 21 < r.rsb then hbmBank a (r.bank :: s.droppedBanks t) else hbmBank a (s.droppedBanks t)
  | none => hbmBank a (s.droppedBanks t)

/-- An HBM repair event in the trail of the stack's die (R416). -/
def State.bankTrail (s : State) (code stack bank : Nat) : State := s.trail (stackDie stack) 0 0x3f 0x07 code (bank + 2 ^ 12 * stack) none

/-- Whether a function of the whole package is in host-assisted mode (R369): while any installed context chooses it. -/
def State.packageHostMode (s : State) (f : Nat) : Bool := s.contexts.any (fun c => s.hostMode c.1 f)

/-- The repair of a bank started (R410, R411); a stack that would fall below 964 live banks has failed. -/
def State.startRepair (s : State) (stack bank : Nat) : State :=
  let t : State := { s with badBanks := s.badBanks.filter (· ≠ (stack, bank)) }
  if (s.droppedBanks stack).length + 1 > 60 then
    { t with bar := { t.bar with fatal := true } }.bankTrail 3 stack bank
  else { t with restripes := Tab.set t.restripes stack { bank := bank, rsb := 0 } }.bankTrail 1 stack bank

/-- BANK_FAILURE (R410, R411, R416): a failed bank is recorded; in hardware mode its repair starts, after one of the same
stack that is in progress. -/
def execBankFailure (stack bank : Nat) (s : State) : Host.Outcome State Fault Refusal :=
  if stack ≥ 8 || bank ≥ 1024 || (s.droppedBanks stack).contains bank || s.badBanks.contains (stack, bank) then .next s
  else
    let t := { s with badBanks := s.badBanks ++ [(stack, bank)] }.bankTrail 0 stack bank
    .next (if t.packageHostMode 1 || (Tab.get? t.restripes stack).isSome then t else t.startRepair stack bank)

/-- BANK_REPAIR (R410, R420): the driver has the repair of a bank started. -/
def execBankRepair (tag : BitVec 16) (stack bank : Nat) (s : State) : Host.Outcome State Fault Refusal :=
  if stack ≥ 8 || bank ≥ 1024 || (s.droppedBanks stack).contains bank then .next (s.respond 7 tag mailBad)
  else if (Tab.get? s.restripes stack).isSome then .next (s.respond 7 tag mailBusy)
  else .next ((s.startRepair stack bank).respond 7 tag mailDone)

/-- RESTRIPE_REGION (R411): the next region of a stack under repair moves to the hash without the dropped bank: its dirty
copies are at the home slices' memory, its lines keep their values and their poison, and `rsb` advances; after the last
region the repair has ended, and a repair that waited for it starts. -/
def execRestripeRegion (stack : Nat) (s : State) : Host.Outcome State Fault Refusal :=
  match Tab.get? s.restripes stack with
  | none => .next s
  | some r =>
    if r.rsb + 1 < regionCount then .next { s with restripes := Tab.set s.restripes stack { r with rsb := r.rsb + 1 } }
    else
      let flash : Flash := { s.flash with dropped := Tab.set s.flash.dropped stack (r.bank :: s.droppedBanks stack) }
      let t := { s with restripes := Tab.erase s.restripes stack, flash := flash }.bankTrail 2 stack r.bank
      match t.badBanks.find? (fun b => b.1 = stack) with
      | some b => .next (if t.packageHostMode 1 then t else t.startRepair stack b.2)
      | none => .next t

/-! ### The health of dune arrays -/

/-- Whether a dune block holds the array of a core (R413). -/
def State.arrayHeld (s : State) (core : Nat) : Bool := (s.duneBlock core).isSome

/-- A calibration of a core's array started to clear it (R277, R413). -/
def State.calibrate (s : State) (core : Nat) : State :=
  s.modDune core (fun d => { d with calibrating := some (s.die (coreDie core)).cyc, toClear := true })

/-- ARRAY_CLEAR (R277, R413, R420): the array is recalibrated; the response follows the calibration. -/
def execArrayClear (tag : BitVec 16) (die core : Nat) (s : State) : Host.Outcome State Fault Refusal :=
  let n := 48 * die + core
  if die > 3 ∨ core > 47 then .next (s.respond 4 tag mailBad)
  else if s.arrayHeld n || s.healthOf n = 2 then .next (s.respond 4 tag mailRefused)
  else if (Tab.get? s.clearing n).isSome then .next (s.respond 4 tag mailBusy)
  else .next { s.calibrate n with clearing := Tab.set s.clearing n tag }

/-- ARRAY_RETIRE (R413, R420). -/
def execArrayRetire (tag : BitVec 16) (die core : Nat) (s : State) : Host.Outcome State Fault Refusal :=
  let n := 48 * die + core
  if die > 3 ∨ core > 47 then .next (s.respond 5 tag mailBad)
  else if s.arrayHeld n then .next (s.respond 5 tag mailRefused)
  else if s.healthOf n = 2 then .next (s.respond 5 tag mailDone)
  else .next ((s.setHealth n 0 { s.healthRecord n with state := 2 }).respond 5 tag mailDone)

/-- What firmware does in hardware mode for the SUSPECT arrays of a die that no dune block holds (R413): it clears them, and
retires one at its fourth SUSPECT event. -/
def State.firmwareHealth (s : State) (die : Nat) : State :=
  if s.packageHostMode 2 then s
  else
    (s.flash.health.filter (fun h => coreDie h.1 = die && h.2.state = 1)).foldl (fun t h =>
      if t.arrayHeld h.1 then t
      else if h.2.events ≥ 4 then t.setHealth h.1 0 { h.2 with state := 2 }
      else if (t.core h.1).dune.calibrating.isSome then t
      else t.calibrate h.1) s

/-- The two dwords of a value. -/
def dwords (v : Nat) : List Nat := [v % 2 ^ 32, v / 2 ^ 32 % 2 ^ 32]

/-- The version of the firmware that runs (R417). -/
def State.firmwareVersion (s : State) : Nat := Config.imageVersion s.flash.image.1 s.flash.image.2

/-- The figures of the table of implementation choices, in its order (R430). -/
def State.choices (s : State) : List Nat :=
  [s.firmwareVersion, Config.gainPerCycle s.bar.pwrSet, Config.capacity, Config.calibrationCycles, Config.mappingInterval,
   Config.remoteTimeout, Config.throttleTemperature, Config.criticalTemperature, Config.sramScrubInterval]

/-- HEALTH_READ (R412, R420, R430): an array's health record; a die's dropped banks and the `rsb` of its stacks; the table of
implementation choices. -/
def execHealthRead (tag : BitVec 16) (die core : Nat) (s : State) : Host.Outcome State Fault Refusal :=
  if die > 3 then .next (s.respond 6 tag mailBad)
  else if core < 48 then
    let h := s.healthRecord (48 * die + core)
    .next (s.respond 6 tag mailDone [h.state, h.events, h.sweep, h.ones, h.agree])
  else if core = 0xff then
    let mine := (List.range 8).filter (fun t => stackDie t = die)
    let banks := mine.flatMap (fun t => (s.droppedBanks t).map (fun b => b + 2 ^ 12 * t))
    let rsb (t : Nat) : Nat := match Tab.get? s.restripes t with
      | some r => r.rsb
      | none => 0
    .next (s.respond 6 tag mailDone (banks ++ mine.map rsb))
  else if core = 0xfe then .next (s.respond 6 tag mailDone (s.choices.flatMap dwords))
  else .next (s.respond 6 tag mailBad)

/-! ### The trail -/

/-- A record of a trail by its write count, zero where it is overwritten or not written yet (R414, R420). -/
def Die.trailRecord (d : Die) (w : Nat) : Nat :=
  let age := (d.trailCount + 2 ^ 32 - w % 2 ^ 32) % 2 ^ 32
  if age = 0 ∨ age > 4096 then 0 else (Tab.getD d.trail (w % 4096) 0).toNat

/-- TRAIL_READ (R414, R420): records from a write count on, then the current write count. -/
def execTrailRead (tag : BitVec 16) (die first count : Nat) (s : State) : Host.Outcome State Fault Refusal :=
  if die > 3 ∨ count = 0 ∨ count > 64 then .next (s.respond 8 tag mailBad)
  else
    let d := s.die die
    let words := (List.range count).flatMap (fun i =>
      let r := d.trailRecord (first + i)
      dwords r ++ dwords (r / 2 ^ 64))
    .next (s.respond 8 tag mailDone (words ++ [d.trailCount]))

/-! ### Firmware and identity -/

/-- FW_UPDATE (R417, R420): a new image is written to the flash, to take effect at the next reset. -/
def execFwUpdate (tag : BitVec 16) (_addr bytes : BitVec 64) (s : State) : Host.Outcome State Fault Refusal :=
  let t : State := { s with flash := { s.flash with pendingImage := some (s.free, bytes.toNat) }, free := s.free + 1 }
  .next (t.respond 11 tag mailDone)

/-- UNKNOWN_MAILBOX_COMMAND (R420). -/
def execUnknownMailboxCommand (tag : BitVec 16) (command : BitVec 8) (s : State) : Host.Outcome State Fault Refusal :=
  .next (s.respond command.toNat tag mailBad)

/-- A response of the identity protocol (R418). -/
def State.identify (s : State) (command : Nat) (data : List Nat) : State :=
  { s with spdm := s.spdm ++ [{ command := command, tag := 0, status := 0, data := data }] }

/-- Bytes of an identity object (R418). -/
def identityBytes (kind arg n : Nat) : List Nat := (List.range n).map (fun i => Config.identityByte kind arg i % 256)

/-- The bytes of a signature by the identity key (R418): SLH-DSA-SHA2-128s. -/
def signature (kind arg : Nat) : List Nat := identityBytes (16 + kind) arg 7856

/-- GET_VERSION (R418): SPDM 1.3. -/
def execSpdmGetVersion (s : State) : Host.Outcome State Fault Refusal := .next (s.identify 0x84 [0x13])

/-- GET_CAPABILITIES (R418). -/
def execSpdmGetCapabilities (s : State) : Host.Outcome State Fault Refusal := .next (s.identify 0xe1 (identityBytes 0 0 4))

/-- NEGOTIATE_ALGORITHMS (R418): a vendor-defined asymmetric algorithm. -/
def execSpdmNegotiateAlgorithms (s : State) : Host.Outcome State Fault Refusal := .next (s.identify 0xe3 (identityBytes 1 0 4))

/-- GET_DIGESTS (R418): the digest of the certificate chain. -/
def execSpdmGetDigests (s : State) : Host.Outcome State Fault Refusal := .next (s.identify 0x81 (identityBytes 2 0 32))

/-- GET_CERTIFICATE (R418): a part of the chain signed by Horsyn. -/
def execSpdmGetCertificate (certSlot offset count : Nat) (s : State) : Host.Outcome State Fault Refusal :=
  .next (s.identify 0x82 ((List.range count).map (fun i => Config.identityByte 3 certSlot (offset + i) % 256)))

/-- CHALLENGE (R418): signed with the identity key. -/
def execSpdmChallenge (certSlot nonce : Nat) (s : State) : Host.Outcome State Fault Refusal :=
  .next (s.identify 0x83 (identityBytes 2 certSlot 32 ++ signature 0 nonce))

/-- The measurements (R418): the digests of the boot ROM and of the running firmware image, the firmware version and the
offered features. -/
def State.measurement (s : State) (index : Nat) : List Nat :=
  match index with
  | 1 => identityBytes 4 0 32
  | 2 => identityBytes 5 s.flash.image.1 32
  | 3 => (leBytes 4 s.firmwareVersion).map BitVec.toNat
  | 4 => (leBytes 32 Config.featCap.toNat).map BitVec.toNat
  | _ => []

/-- GET_MEASUREMENTS (R418): index 0 asks for their number, 0xff for all. -/
def execSpdmGetMeasurements (index : Nat) (signed : Bool) (s : State) : Host.Outcome State Fault Refusal :=
  let data := if index = 0 then [4] else if index = 0xff then (List.range 4).flatMap (fun i => s.measurement (i + 1)) else s.measurement index
  .next (s.identify 0xe0 (data ++ (if signed then signature 1 index else [])))

end Sys2Proof.Machine
end

