-- ==== Sys2Proof/Machine/Debug.lean ====
section
/-!
DEFINITION. Stall sampling, the debug subcommands, recording and replay (R421 to R429).
-/

namespace Sys2Proof.Machine

/-! ### Stall sampling -/

/-- SAMPLE (R420, R426): sampling of a core starts for a context, with a period of 2^n local cycles. -/
def execSampleStart (tag : BitVec 16) (ctx die core : Nat) (buffer bytes : BitVec 64) (n : Nat) (s : State) :
    Host.Outcome State Fault Refusal :=
  if n < 10 ∨ n > 24 ∨ die > 3 ∨ core > 47 ∨ (Tab.get? s.contexts ctx).isNone then .next (s.respond 13 tag mailBad)
  else
    let x : Sampling := { ctx := ctx, buffer := buffer, bytes := bytes.toNat, n := n, turns := [] }
    .next ((s.modCore (48 * die + core) (fun c => { c with sampling := some x })).respond 13 tag mailDone)

/-- The code of a stall reason in a sample (R245, R426): 15 for a path that issued. -/
def Stall.code : Option Stall → Nat
  | none => 15
  | some .faultPending => 0
  | some .capsule => 1
  | some .group => 2
  | some .completion => 3
  | some .tile => 4
  | some .claim => 5
  | some .data => 6
  | some .queueEmpty => 7
  | some .fetch => 8
  | some .power => 9
  | some .busy => 10

/-- The next path that a quadrant samples, from a place of its rotation on (R426): the place, the slot, the path. -/
def State.samplePath (s : State) (core quad ctx start : Nat) : Option (Nat × Nat × Path × Caravan) :=
  ((List.range 32).map (fun i => (start + i) % 32)).findSome? (fun k =>
    match s.caravan? (carKey core (16 * quad + k / 2)) with
    | none => none
    | some c =>
      match Tab.get? c.paths (k % 2), Tab.get? s.blocks c.block with
      | some x, some b => if b.ctx = ctx then some (k, 16 * quad + k / 2, x, c) else none
      | _, _ => none)

/-- The stall reason of a path in its last cycle (R245), none where one of its streams issued, and whether it is that of its lane
stream: of two that hold the one of lowest code. -/
def Path.reason (x : Path) : Option Stall × Bool :=
  if x.pending.isSome then (some .faultPending, false)
  else if x.stall.isNone then (none, false)
  else if x.burst.isSome && x.laneStall.isNone then (none, true)
  else if x.laneStall.isSome && Stall.code x.laneStall < Stall.code x.stall then (x.laneStall, true)
  else (x.stall, false)

/-- Where a path waits: the LPC of its lane stream, with bit 0 set, or its SPC (R426). -/
def Path.waitingAt (x : Path) : Word :=
  if x.reason.2 then
    match x.burst, x.laneq with
    | some b, _ => (b.entry.start + BitVec.ofNat 64 (12 * b.pos)) ||| 1
    | none, e :: _ => e.start ||| 1
    | none, [] => x.spc
  else x.spc

/-- The four words of a sample (R426). For a data dependence the blamed instruction is the producer of the first pending source (R246);
a path that waits so for no source blames an undefined value. -/
def sampleWords (core slot : Nat) (x : Path) (c : Caravan) (free : Nat) : List Byte :=
  let at_ := x.waitingAt
  let blame : Nat := if x.reason.1 = some .data then (match x.blamed with
    | some w => if x.reason.2 then free else w.toNat
    | none => free) else at_.toNat
  leBytes 8 at_.toNat ++ leBytes 8 blame ++ leBytes 8 (Stall.code x.reason.1 + 2 ^ 16 * cidOf core slot) ++ leBytes 8 c.wkcnt.toNat

/-- SAMPLE_TICK (R426): every 2^n local cycles a quadrant writes the record of its next path, or counts it as dropped where
the ring has no room. -/
def execSampleTick (core quad : Nat) (s : State) : Host.Outcome State Fault Refusal :=
  match (s.core core).sampling with
  | none => .next s
  | some x =>
    let now := (s.die (coreDie core)).cyc
    let done : Bool := Tab.get? x.turns (quad + 4) = some now
    if quad > 3 || now % 2 ^ x.n ≠ 0 || done then .next s
    else
      match s.samplePath core quad x.ctx (Tab.getD x.turns quad 0) with
      | none => .next s
      | some (k, slot, p, c) =>
        let y : Sampling := { x with turns := Tab.set (Tab.set x.turns quad ((k + 1) % 32)) (quad + 4) now }
        let s0 : State := { s.modCore core (fun z => { z with sampling := some y }) with free := s.free + 1 }
        let room := (x.bytes - 64) / 32
        match s0.frontRead x.ctx x.buffer 24 with
        | .fail _ _ _ t => .next t
        | .wait t => .next t
        | .ok h t =>
          let lost := leNat (h.take 8)
          let w := leNat ((h.drop 8).take 8)
          let r := leNat (h.drop 16)
          let put (at_ : Nat) (bs : List Byte) (u : State) : State :=
            match u.frontWrite x.ctx (x.buffer + BitVec.ofNat 64 at_) bs with
            | .ok _ v => v
            | .fail _ _ _ v => v
            | .wait v => v
          if (w + 2 ^ 64 - r) % 2 ^ 64 ≥ room then .next (put 0 (leBytes 8 (lost + 1)) t)
          else
            .next (put 8 (leBytes 8 (w + 1)) (put (64 + 32 * (w % room)) (sampleWords core slot p c (Config.freeNat s.free 0)) t))

/-! ### Caravans by tag -/

/-- The context of a dispatch in progress. -/
def State.handleCtx (s : State) (handle : Nat) : Option Nat :=
  match s.launches.find? (fun l => l.2.handle = handle) with
  | some l => some l.2.ctx
  | none => s.dies.findSome? (fun d => (Tab.get? d.2.dispatches handle).map (fun x => x.ctx))

/-- A caravan that the debug unit names, with its slot's key, its context, and the saved block that holds it. -/
structure Named where
  key : Nat
  ctx : Nat
  handle : Nat
  saved : Option Nat
  car : Caravan

/-- The dispatch of a block. -/
def State.handleOf (s : State) (b : Block) : Nat :=
  match Tab.get? s.launches b.launch with
  | some l => l.handle
  | none => 0

/-- Every caravan of the package, placed or saved. -/
def State.allNamed (s : State) : List Named :=
  let placed := s.caravans.filterMap (fun c => (Tab.get? s.blocks c.2.block).map (fun b =>
    ({ key := c.1, ctx := b.ctx, handle := s.handleOf b, saved := none, car := c.2 } : Named)))
  let stored := s.saved.flatMap (fun b => b.2.caravans.map (fun c =>
    ({ key := c.1, ctx := b.2.block.ctx, handle := s.handleOf b.2.block, saved := some b.1, car := c.2 } : Named)))
  placed ++ stored

/-- The tag of a caravan (R177). -/
def Named.tag (n : Named) : Nat := cidOf (n.key / 64) (n.key % 64) + n.car.starts % 2 ^ 18 * 2 ^ 14

/-- The caravans that a subcommand names (R422). -/
def State.named (s : State) (t : DebugTarget) : List Named :=
  match t with
  | .caravan tag => s.allNamed.filter (fun n => n.tag = tag.toNat)
  | .dispatch handle => s.allNamed.filter (fun n => n.handle = handle)

/-- A named caravan changed. -/
def State.setNamed (s : State) (n : Named) (f : Caravan → Caravan) : State :=
  match n.saved with
  | none => s.modCaravan n.key f
  | some b => { s with saved := Tab.modify s.saved b (fun x => { x with caravans := Tab.modify x.caravans n.key f }) }

/-- Whether a named caravan stands at a boundary: halted or saved. -/
def Named.stands (n : Named) : Bool := n.car.halted || n.saved.isSome

/-! ### The debug subcommands -/

/-- GRANT (R421, R424): the right is granted and the match entries are reset. -/
def execGrant (tag : BitVec 16) (ctx : Nat) (s : State) : Host.Outcome State Fault Refusal :=
  if (Tab.get? s.contexts ctx).isNone then .next (s.respond 12 tag mailBad)
  else
    let t := s.modContext ctx (fun c => { c with debug := true })
    let u : State := { t with cores := t.cores.map (fun c => (c.1, { c.2 with matchTab := [] })) }
    .next (u.respond 12 tag mailDone)

/-- A named caravan halted (R422). -/
def State.haltNamed (s : State) (n : Named) : State :=
  match n.saved with
  | none => if n.car.halted then s else s.haltCaravan n.key
  | some _ => s.setNamed n (fun c => { c with halted := true })

/-- A subcommand on named caravans: status 2 where it names none, refused without the right (R421, R422). -/
def State.onNamed (s : State) (tag : BitVec 16) (t : DebugTarget) (ok : Named → Bool) (f : List Named → State) : State :=
  let ns := s.named t
  if ns.isEmpty then s.respond 12 tag mailBad
  else if ns.any (fun n => !s.mayDebug n.ctx) then s.respond 12 tag mailRefused
  else if !ns.any ok then s.respond 12 tag mailRefused
  else (f ns).respond 12 tag mailDone

/-- HALT (R388, R422). -/
def execDbgHalt (tag : BitVec 16) (target : DebugTarget) (s : State) : Host.Outcome State Fault Refusal :=
  .next (s.onNamed tag target (fun _ => true) (fun ns => ns.foldl State.haltNamed s))

/-- A named caravan that goes on from its save slot, as an acquire at system scope (R392, R422). -/
def State.resumeNamed (s : State) (n : Named) : State :=
  let t := s.setNamed n (fun c => { c with halted := false })
  if n.saved.isNone && n.car.halted then t.modCore (n.key / 64) Core.dropClean else t

/-- RESUME (R392, R422). A precise stop of the dispatch is over. -/
def execDbgResume (tag : BitVec 16) (target : DebugTarget) (s : State) : Host.Outcome State Fault Refusal :=
  .next (s.onNamed tag target (fun n => n.car.halted) (fun ns =>
    let t := ns.foldl State.resumeNamed s
    let ended : Bool := match t.monitor.replay with
      | some r => ns.any (fun n => n.handle = r.handle)
      | none => false
    if ended then { t with monitor := { t.monitor with replay := none } } else t))

/-- A saved item (R391, DESIGN CHOICE, log entry 16): `s0` to `s63`, then each path's SPC and `em`, `xm`, `fpm`, `lbud`, `drawctr`, `rkey`,
`trapvec`, the trap records, `stklim`, the seal count and `p1` to `p7`, then the lane registers in words of 8 bytes. -/
def Caravan.item (c : Caravan) (n : Nat) : Option Nat :=
  let path (p : Nat) (f : Path → Nat) : Option Nat := (Tab.get? c.paths p).map f
  if n < 64 then some (c.sreg n).toNat
  else
    match n with
    | 64 => path 0 (fun x => x.spc.toNat)
    | 65 => path 0 (fun x => x.em.toNat)
    | 66 => path 1 (fun x => x.spc.toNat)
    | 67 => path 1 (fun x => x.em.toNat)
    | 68 => some c.xm.toNat
    | 69 => some c.fpm.toNat
    | 70 => some c.lbud
    | 71 => some c.drawctr.toNat
    | 72 => some c.rkey.toNat
    | 73 => some c.trapvec.toNat
    | 74 => some c.trapcause.toNat
    | 75 => some c.trapaddr.toNat
    | 76 => some c.trappc.toNat
    | 77 => some c.stklim.toNat
    | 78 => some c.sealCount
    | _ =>
      if 81 ≤ n ∧ n ≤ 87 then some (c.pred (n - 80)).toNat
      else if 256 ≤ n ∧ n < 256 + 16 * c.lbud then
        let k := 2 * (n - 256)
        some ((c.lanes.read k).toNat + 2 ^ 32 * (c.lanes.read (k + 1)).toNat)
      else none

/-- A saved item written, where it can hold the value. -/
def Caravan.setItem (c : Caravan) (n v : Nat) : Caravan :=
  let w : Word := BitVec.ofNat 64 v
  let path (p : Nat) (f : Path → Path) : Caravan := { c with paths := Tab.modify c.paths p f }
  if n < 64 then c.setSreg n w
  else
    match n with
    | 64 => path 0 (fun x => { x with spc := w })
    | 65 => path 0 (fun x => { x with em := BitVec.ofNat 32 v })
    | 66 => path 1 (fun x => { x with spc := w })
    | 67 => path 1 (fun x => { x with em := BitVec.ofNat 32 v })
    | 68 => { c with xm := BitVec.ofNat 32 v }
    | 69 => { c with fpm := w }
    | 71 => { c with drawctr := w }
    | 72 => { c with rkey := w }
    | 73 => { c with trapvec := w }
    | 74 => { c with trapcause := w }
    | 75 => { c with trapaddr := w }
    | 76 => { c with trappc := w }
    | 77 => { c with stklim := w }
    | _ =>
      if 81 ≤ n ∧ n ≤ 87 then { c with preds := Tab.set c.preds (n - 80) (BitVec.ofNat 32 v) }
      else if 256 ≤ n ∧ n < 256 + 16 * c.lbud then
        let k := 2 * (n - 256)
        { c with lanes := (c.lanes.write k (BitVec.ofNat 32 v)).write (k + 1) (BitVec.ofNat 32 (v / 2 ^ 32)) }
      else c

/-- The uncommitted edits of a caravan, oldest first. -/
def Debug.editsOf (d : Debug) (tag : Nat) : List (Nat × List Byte) := (d.edits.filter (fun e => e.1 = tag)).map Prod.snd

/-- A caravan with edits applied (R422). -/
def Caravan.applyEdits (c : Caravan) (es : List (Nat × List Byte)) : Caravan :=
  es.foldl (fun c e => c.setItem e.1 (leNat e.2)) c

/-- READ (R422): a saved item copied to a device buffer, with uncommitted edits applied; an item whose form R391 does not give
reads as an undefined value. -/
def execDbgRead (tag : BitVec 16) (caravan : BitVec 32) (item : Nat) (buffer : BitVec 64) (s : State) :
    Host.Outcome State Fault Refusal :=
  .next (s.onNamed tag (.caravan caravan) Named.stands (fun ns =>
    match ns with
    | [] => s
    | n :: _ =>
      let c := n.car.applyEdits (s.monitor.editsOf caravan.toNat)
      let v := (c.item item).getD (Config.freeNat s.free 0)
      let t := s.outsideStore (buffer.toNat % 2 ^ 48) (leBytes 8 v) true
      { t with free := t.free + 1 }))

/-- WRITE (R422): an edit of a saved item is recorded. -/
def execDbgWrite (tag : BitVec 16) (caravan : BitVec 32) (item : Nat) (buffer : BitVec 64) (s : State) :
    Host.Outcome State Fault Refusal :=
  .next (s.onNamed tag (.caravan caravan) Named.stands (fun _ =>
    let e : Nat × Nat × List Byte := (caravan.toNat, item, s.homeBytes (buffer.toNat % 2 ^ 48) 8)
    { s with monitor := { s.monitor with edits := s.monitor.edits ++ [e] } }))

/-- COMMIT (R422): every edit of the caravan goes to its save slot. -/
def execDbgCommit (tag : BitVec 16) (caravan : BitVec 32) (s : State) : Host.Outcome State Fault Refusal :=
  .next (s.onNamed tag (.caravan caravan) Named.stands (fun ns =>
    match ns with
    | [] => s
    | n :: _ =>
      let c := n.car.applyEdits (s.monitor.editsOf caravan.toNat)
      let t := (s.setNamed n (fun _ => c)).writeSaveSlot n.ctx n.key c
      { t with monitor := { t.monitor with edits := t.monitor.edits.filter (fun e => e.1 ≠ caravan.toNat) } }))

/-- MATCH (R424): a PC-match entry of a core. -/
def execDbgMatch (tag : BitVec 16) (core entry : Nat) (word0 word1 : BitVec 64) (s : State) : Host.Outcome State Fault Refusal :=
  if core > 191 ∨ entry > 15 then .next (s.respond 12 tag mailBad)
  else if !s.contexts.any (fun c => c.2.debug) then .next (s.respond 12 tag mailRefused)
  else
    .next ((s.modCore core (fun c => { c with matchTab := Tab.set c.matchTab entry (word0, word1) })).respond 12 tag mailDone)

/-! ### Recording and replay -/

/-- STOP_AT with count 0 (R428): recording of a dispatch starts, with a checkpoint every 2^k cycles. -/
def execDbgStopAtRecording (tag : BitVec 16) (handle k : Nat) (s : State) : Host.Outcome State Fault Refusal :=
  match s.handleCtx handle with
  | none => .next (s.respond 12 tag mailBad)
  | some ctx =>
    if !s.mayDebug ctx then .next (s.respond 12 tag mailRefused)
    else if k < 20 ∨ k > 32 then .next (s.respond 12 tag mailBad)
    else
      let r : Recording := { handle := handle, k := k, nextAt := (s.die 0).cyc, taken := 0, checkpoints := [], log := [] }
      .next ({ s with monitor := { s.monitor with recordings := Tab.set s.monitor.recordings handle r } }.respond 12 tag mailDone)

/-- The placed blocks of a dispatch. -/
def State.dispatchBlocks (s : State) (handle : Nat) : List (Nat × Block) :=
  s.blocks.filter (fun b => match Tab.get? s.launches b.2.launch with
    | some l => l.handle = handle
    | none => false)

/-- RECORDING_CHECKPOINT (R388, R389, R428): when it is due and the engines of the dispatch rest, every caravan of the
dispatch stops at its boundary, the checkpoint is taken, and they go on. The two newest are kept. -/
def execRecordingCheckpoint (handle : Nat) (s : State) : Host.Outcome State Fault Refusal :=
  match Tab.get? s.monitor.recordings handle with
  | none => .next s
  | some r =>
    let bs := s.dispatchBlocks handle
    if (s.die 0).cyc < r.nextAt || s.monitor.replay.isSome || bs.any (fun b => !s.enginesRest b.1 b.2) then .next s
    else
      let keys := bs.flatMap (fun b => (s.members b.1).map Prod.fst)
      let cores := (bs.flatMap (fun b => b.2.halves.map (fun h => h.core))).eraseDups
      let stop (t : State) (key : Nat) : State := match t.caravan? key with
        | none => t
        | some c => (c.paths.foldl (fun u p => u.drainStores key p.1) t).stopAtBoundary key
      let s1 := cores.foldl State.pushAll (keys.foldl stop s)
      let mine (c : Nat × Caravan) : Bool := bs.any (fun b => b.1 = c.2.block)
      let p : Checkpoint :=
        { number := r.taken, caravans := s1.caravans.filter mine, blocks := s1.dispatchBlocks handle,
          saved := s1.saved.filter (fun b => s1.handleOf b.2.block = handle),
          launches := s1.launches.filter (fun l => l.2.handle = handle),
          cores := cores.map (fun n => (n, s1.core n)), mem := applyWrites s1.writes s1.mem, logAt := r.log.length }
      let next : Recording := { r with taken := r.taken + 1, nextAt := r.nextAt + 2 ^ r.k, checkpoints := (p :: r.checkpoints).take 2 }
      .next { s1 with monitor := { s1.monitor with recordings := Tab.set s1.monitor.recordings handle next } }

/-- The count of a caravan in a checkpoint. -/
def Checkpoint.countOf (p : Checkpoint) (tag : Nat) : Option Nat :=
  let all := p.caravans ++ p.saved.flatMap (fun b => b.2.caravans)
  (all.find? (fun c => cidOf (c.1 / 64) (c.1 % 64) + c.2.starts % 2 ^ 18 * 2 ^ 14 = tag)).map (fun c => c.2.wkcnt.toNat)

/-- Where the recorded interval of a checkpoint ends for a caravan: the next checkpoint's count, or the caravan's own. -/
def State.intervalEnd (s : State) (r : Recording) (p : Checkpoint) (tag : Nat) : Option Nat :=
  match r.checkpoints.find? (fun q => q.number = p.number + 1) with
  | some q => q.countOf tag
  | none => (s.allNamed.find? (fun n => n.tag = tag)).map (fun n => n.car.wkcnt.toNat)

/-- A checkpoint restored (R428): the dispatch's caravans, blocks and engines, its launch, and memory. -/
def State.restoreCheckpoint (s : State) (handle : Nat) (p : Checkpoint) : State :=
  let bs := (s.dispatchBlocks handle).map Prod.fst
  let mem := (p.mem.map (fun c => HomeWrite.byte c.1 c.2)) ++ [HomeWrite.clear]
  let launches := s.launches.filter (fun l => l.2.handle ≠ handle)
  let saved := s.saved.filter (fun b => s.handleOf b.2.block ≠ handle)
  let caravans := s.caravans.filter (fun c => !bs.contains c.2.block)
  let blocks := s.blocks.filter (fun b => !bs.contains b.1)
  let put {α : Type} (t u : Tab α) : Tab α := u.foldl (fun t x => Tab.set t x.1 x.2) t
  { s with caravans := put caravans p.caravans, blocks := put blocks p.blocks, saved := put saved p.saved,
           launches := put launches p.launches,
           cores := put (s.cores.map (fun c => (c.1, { c.2 with l1 := [] })))
             (p.cores.map (fun c => (c.1, { c.2.dropClean with matchTab := (s.core c.1).matchTab }))),
           writes := mem ++ s.writes }

/-- A precise stop (R427, R428): refused where the count lies before the checkpoint or beyond the interval's recorded end. -/
def State.preciseStop (s : State) (tag : BitVec 16) (handle : Nat) (r : Recording) (p : Checkpoint) (car count : Nat) : State :=
  match s.intervalEnd r p car with
  | none => s.respond 12 tag mailRefused
  | some last =>
    if count > last ∨ count < (p.countOf car).getD 0 then s.respond 12 tag mailRefused
    else
      let goal : Replay := { handle := handle, request := tag, goals := [(car, count)], log := r.log.drop p.logAt }
      let t := s.restoreCheckpoint handle p
      { t with monitor := { t.monitor with replay := some goal } }

/-- STOP_AT (R427, R428): a precise stop of a caravan at a count, from a checkpoint. -/
def execDbgStopAt (tag : BitVec 16) (handle checkpoint : Nat) (caravan : BitVec 32) (count : Nat) (s : State) :
    Host.Outcome State Fault Refusal :=
  match s.handleCtx handle with
  | none => .next (s.respond 12 tag mailBad)
  | some ctx =>
    if !s.mayDebug ctx then .next (s.respond 12 tag mailRefused)
    else
      match Tab.get? s.monitor.recordings handle with
      | none => .next (s.respond 12 tag mailRefused)
      | some r =>
        match r.checkpoints.find? (fun p => p.number = checkpoint) with
        | none => .next (s.respond 12 tag mailRefused)
        | some p => .next (s.preciseStop tag handle r p caravan.toNat count)

/-- BACK (R427, R428): a precise stop at the caravan's count minus one. -/
def execDbgBack (tag : BitVec 16) (caravan : BitVec 32) (s : State) : Host.Outcome State Fault Refusal :=
  match s.allNamed.find? (fun n => n.tag = caravan.toNat) with
  | none => .next (s.respond 12 tag mailBad)
  | some n =>
    if !s.mayDebug n.ctx then .next (s.respond 12 tag mailRefused)
    else
      match Tab.get? s.monitor.recordings n.handle with
      | none => .next (s.respond 12 tag mailRefused)
      | some r =>
        let w := n.car.wkcnt.toNat
        match r.checkpoints.find? (fun p => w ≥ 1 ∧ (p.countOf caravan.toNat).getD 0 ≤ w - 1) with
        | none => .next (s.respond 12 tag mailRefused)
        | some p => .next (s.preciseStop tag n.handle r p caravan.toNat (w - 1))

/-- REVOKE (R429): uncommitted edits and match entries go, recording ends, halted caravans resume with their committed edits,
and the trail has the event. -/
def execRevoke (tag : BitVec 16) (ctx : Nat) (s : State) : Host.Outcome State Fault Refusal :=
  if (Tab.get? s.contexts ctx).isNone then .next (s.respond 12 tag mailBad)
  else if !s.mayDebug ctx then .next (s.respond 12 tag mailRefused)
  else
    let ns := s.allNamed.filter (fun n => n.ctx = ctx)
    let mine (handle : Nat) : Bool := s.handleCtx handle = some ctx
    let s1 := ns.foldl State.resumeNamed s
    let d : Debug :=
      { edits := s1.monitor.edits.filter (fun e => !ns.any (fun n => n.tag = e.1)),
        recordings := s1.monitor.recordings.filter (fun r => !mine r.1), replay := s1.monitor.replay.filter (fun r => !mine r.handle) }
    let cores := s1.cores.map (fun c => (c.1, { c.2 with matchTab := [] }))
    let s2 : State := ({ s1 with monitor := d, cores := cores }).modContext ctx (fun c => { c with debug := false })
    .next ((s2.trail 0 ctx 0x3f 0x0c 2 0 none).respond 12 tag mailDone)

end Sys2Proof.Machine
end

