-- ==== Sys2Proof/Machine/LaneConvert.lean ====
section
/-!
DEFINITION. Conversion and quantisation lane words (R132 to R137).
-/

namespace Sys2Proof.Machine

/-- Whether a format code is an integer format (R54). -/
def isInteger (fmt : Nat) : Bool := 7 ≤ fmt && fmt ≤ 10

/-- The integer a code of an integer format stands for: signed, or unsigned where u is set (R132). -/
def integerOf (fmt : Nat) (u : Bool) (v : Nat) : Int :=
  asInt u (BitVec.ofNat (formatBits fmt) v)

/-- An integer result as the destination holds it: a value narrower than 32 bits is sign-extended, or zero-extended where
u is set (R132, R134). -/
def extendInteger (fmt : Nat) (u : Bool) (v : Int) : Nat :=
  let x : BitVec (formatBits fmt) := BitVec.ofInt _ v
  if fmt = 10 then x.toNat else if u then x.toNat else (x.signExtend 32).toNat

/-- A floating-point operand converted to a floating-point format, flushed under `ftz` (R21, R22, R24). -/
def convertFlushed (src dst : Nat) (ftz : Bool) (rm : Rounding) (sat : Bool) (a : Nat) : Coded :=
  flushResult ftz dst (convertFloat src dst rm sat (flushOperand ftz src a))

/-- `vcvt` of a source value (R132). -/
def convert (src dst : Nat) (u ftz : Bool) (rm : Rounding) (sat : Bool) (v : Nat) : Coded :=
  let a := formatted src v
  if isInteger src then
    let n := integerOf src u a
    if isInteger dst then (extendInteger dst u (asInt u (narrow (formatBits dst) sat u n)), 0)
    else flushResult ftz dst (roundValue (formatOf dst) rm sat (intValue n))
  else if isInteger dst then
    let (n, fl) := cvtInt (decode (formatOf src) (flushOperand ftz src a)) (formatBits dst) (!u) rm
    (extendInteger dst u n, fl)
  else convertFlushed src dst ftz rm sat a

/-- `vcvt` (R132). -/
def execVcvt (f : LaneFields) (s : State) : Host.Outcome State Fault Refusal :=
  lanePure (.vcvt f) f (fun x =>
    let r := fun l => convert (f.immField 0 4) f.fmt (f.immBit 4) x.ftz x.rounding f.sat (x.a l)
    { x.outWide (fun l => (r l).1) with flags := joinFlags ((lanesOf x.active).map (fun l => (r l).2)) }) s

/-- An element of `vpack` (R133). -/
def packElement (fmt : Nat) (u ftz : Bool) (rm : Rounding) (sat : Bool) (v : Nat) : Coded :=
  if isInteger fmt then ((narrow (formatBits fmt) sat u (integerOf 9 false v)).toNat, 0)
  else if fmt = 6 then sp8Encode (decode (formatOf 0) (flushOperand ftz 0 v))
  else convertFlushed 0 fmt ftz rm sat v

/-- `vpack` (R133): two elements into a copy of c. -/
def execVpack (f : LaneFields) (s : State) : Host.Outcome State Fault Refusal :=
  lanePure (.vpack f) f (fun x =>
    let w := formatBits f.fmt
    let sel := f.immField 0 3
    let enc := fun v => packElement f.fmt (f.immBit 3) x.ftz x.rounding f.sat v
    x.outCoded (fun l =>
      let p := enc (x.a l)
      let q := enc (x.bsrc l)
      let c1 := insertField (BitVec.ofNat 32 (x.c l)) (BitVec.ofNat 32 p.1) (w * sel) w
      ((insertField c1 (BitVec.ofNat 32 q.1) (w * (sel + 1)) w).toNat, p.2 ||| q.2))) s

/-- An element that `vunpack` reads (R134). -/
def unpackElement (fmt : Nat) (u : Bool) (e : Nat) : Coded :=
  if isInteger fmt then (extendInteger fmt u (integerOf fmt u e), 0)
  else if fmt = 6 then roundValue (formatOf 0) .rne false (sp8Decode e)
  else convertFloat fmt 0 .rne false e

/-- `vunpack` (R134). -/
def execVunpack (f : LaneFields) (s : State) : Host.Outcome State Fault Refusal :=
  lanePure (.vunpack f) f (fun x =>
    let w := formatBits f.fmt
    x.outCoded (fun l => unpackElement f.fmt (f.immBit 3) (x.a l / 2 ^ (w * f.immField 0 3) % 2 ^ w))) s

/-- `vmxq` (R135): the active lanes quantised as one block; the other lanes count as zero. -/
def execVmxq (f : LaneFields) (s : State) : Host.Outcome State Fault Refusal :=
  lanePure (.vmxq f) f (fun x =>
    let code := fun l => flushOperand x.ftz 0 (x.a l)
    let vs := (List.range 32).map (fun l =>
      if hasLane x.active l then decode (formatOf 0) (code l) else .zero false)
    let (scale, es) := mxScale f.fmt x.rounding vs
    let quiet := signalFlag (formatOf 0) ((lanesOf x.active).map code)
    { x.out (fun l => BitVec.ofNat 32 (scale * 256 + (es.getD l (0, 0)).1)) with
      flags := quiet ||| joinFlags ((lanesOf x.active).map (fun l => (es.getD l (0, 0)).2)) }) s

/-- An element times its block scale (R136). -/
def dequantise (fmt : Nat) (ftz : Bool) (rm : Rounding) (sat : Bool) (a sc : Nat) : Coded :=
  let e := formatted fmt a
  if sc % 256 = 0xff then (canonicalNaN (formatOf 0), 0)
  else
    match decode (formatOf fmt) e with
    | .nan => convertNaN fmt 0 e
    | v => flushResult ftz 0 (roundValue (formatOf 0) rm sat (v.scale (scaleExp (sc % 256))))

/-- `vmxdq` (R136). -/
def execVmxdq (f : LaneFields) (s : State) : Host.Outcome State Fault Refusal :=
  lanePure (.vmxdq f) f (fun x =>
    x.outCoded (fun l => dequantise f.fmt x.ftz x.rounding f.sat (x.a l) (x.bsrc l))) s

/-- A value divided by its block scale and encoded in SP8 (R137). -/
def quantiseSp8 (ftz : Bool) (a sc : Nat) : Coded :=
  if sc % 256 = 0xff then (0x77, flagNV)
  else sp8Encode ((decode (formatOf 0) (flushOperand ftz 0 a)).scale (-(scaleExp (sc % 256))))

/-- `vspq` (R137). -/
def execVspq (f : LaneFields) (s : State) : Host.Outcome State Fault Refusal :=
  lanePure (.vspq f) f (fun x => x.outCoded (fun l => quantiseSp8 x.ftz (x.a l) (x.bsrc l))) s

end Sys2Proof.Machine
end

