-- ==== Sys2Proof/Machine/Dispatch.lean ====
section
/-!
DEFINITION. The dispatch: one arm per constructor of `Instr`.
-/

namespace Sys2Proof.Machine

/-- What an instruction does. -/
def exec (i : Instr) (s : State) : Host.Outcome State Fault Refusal :=
  match i with
  | .add sd sa sb => Sys2Proof.Machine.execAdd sd sa sb s
  | .sub sd sa sb => Sys2Proof.Machine.execSub sd sa sb s
  | .mul sd sa sb => Sys2Proof.Machine.execMul sd sa sb s
  | .mulh sd sa sb => Sys2Proof.Machine.execMulh sd sa sb s
  | .mulhU sd sa sb => Sys2Proof.Machine.execMulhU sd sa sb s
  | .div sd sa sb => Sys2Proof.Machine.execDiv sd sa sb s
  | .divU sd sa sb => Sys2Proof.Machine.execDivU sd sa sb s
  | .rem sd sa sb => Sys2Proof.Machine.execRem sd sa sb s
  | .remU sd sa sb => Sys2Proof.Machine.execRemU sd sa sb s
  | .and sd sa sb => Sys2Proof.Machine.execAnd sd sa sb s
  | .or sd sa sb => Sys2Proof.Machine.execOr sd sa sb s
  | .xor sd sa sb => Sys2Proof.Machine.execXor sd sa sb s
  | .shl sd sa sb => Sys2Proof.Machine.execShl sd sa sb s
  | .shr sd sa sb => Sys2Proof.Machine.execShr sd sa sb s
  | .sra sd sa sb => Sys2Proof.Machine.execSra sd sa sb s
  | .min sd sa sb => Sys2Proof.Machine.execMin sd sa sb s
  | .minU sd sa sb => Sys2Proof.Machine.execMinU sd sa sb s
  | .max sd sa sb => Sys2Proof.Machine.execMax sd sa sb s
  | .maxU sd sa sb => Sys2Proof.Machine.execMaxU sd sa sb s
  | .sel sd sa sb => Sys2Proof.Machine.execSel sd sa sb s
  | .clz sd sa => Sys2Proof.Machine.execClz sd sa s
  | .popc sd sa => Sys2Proof.Machine.execPopc sd sa s
  | .cmp sd sa sb c => Sys2Proof.Machine.execCmp sd sa sb c s
  | .bfx sd sa sb => Sys2Proof.Machine.execBfx sd sa sb s
  | .bfi sd sa sb => Sys2Proof.Machine.execBfi sd sa sb s
  | .aff sd sa sb => Sys2Proof.Machine.execAff sd sa sb s
  | .addImm sd sa imm => Sys2Proof.Machine.execAddImm sd sa imm s
  | .andImm sd sa imm => Sys2Proof.Machine.execAndImm sd sa imm s
  | .orImm sd sa imm => Sys2Proof.Machine.execOrImm sd sa imm s
  | .xorImm sd sa imm => Sys2Proof.Machine.execXorImm sd sa imm s
  | .shlImm sd sa n => Sys2Proof.Machine.execShlImm sd sa n s
  | .shrImm sd sa n => Sys2Proof.Machine.execShrImm sd sa n s
  | .sraImm sd sa n => Sys2Proof.Machine.execSraImm sd sa n s
  | .cmpImm sd sa c imm => Sys2Proof.Machine.execCmpImm sd sa c imm s
  | .lea sd imm => Sys2Proof.Machine.execLea sd imm s
  | .li sd imm => Sys2Proof.Machine.execLi sd imm s
  | .lui sd imm => Sys2Proof.Machine.execLui sd imm s
  | .ld sd sa w off => Sys2Proof.Machine.execLd sd sa w off s
  | .st sd sa w off => Sys2Proof.Machine.execSt sd sa w off s
  | .ald k sa sb w => Sys2Proof.Machine.execAld k sa sb w s
  | .aldx j k sa sb w => Sys2Proof.Machine.execAldx j k sa sb w s
  | .lpset sd sa imm => Sys2Proof.Machine.execLpset sd sa imm s
  | .lpend sd imm => Sys2Proof.Machine.execLpend sd imm s
  | .br imm => Sys2Proof.Machine.execBr imm s
  | .call imm => Sys2Proof.Machine.execCall imm s
  | .bc c sa imm => Sys2Proof.Machine.execBc c sa imm s
  | .jmp sa => Sys2Proof.Machine.execJmp sa s
  | .calli sa => Sys2Proof.Machine.execCalli sa s
  | .ret => Sys2Proof.Machine.execRet s
  | .brd p n t j => Sys2Proof.Machine.execBrd p n t j s
  | .join => Sys2Proof.Machine.execJoin s
  | .callv sa k => Sys2Proof.Machine.execCallv sa k s
  | .done => Sys2Proof.Machine.execDone s
  | .lrun r l imm => Sys2Proof.Machine.execLrun r l imm s
  | .mfem sd => Sys2Proof.Machine.execMfem sd s
  | .mtem sa => Sys2Proof.Machine.execMtem sa s
  | .voteAny sd n p => Sys2Proof.Machine.execVoteAny sd n p s
  | .voteAll sd n p => Sys2Proof.Machine.execVoteAll sd n p s
  | .voteBall sd n p => Sys2Proof.Machine.execVoteBall sd n p s
  | .lget sd r sb h => Sys2Proof.Machine.execLget sd r sb h s
  | .arrive sd g => Sys2Proof.Machine.execArrive sd g s
  | .await sd g => Sys2Proof.Machine.execAwait sd g s
  | .bar sd g => Sys2Proof.Machine.execBar sd g s
  | .cbwait sd c => Sys2Proof.Machine.execCbwait sd c s
  | .cbpoll sd c => Sys2Proof.Machine.execCbpoll sd c s
  | .rgive n => Sys2Proof.Machine.execRgive n s
  | .rclaim n => Sys2Proof.Machine.execRclaim n s
  | .enter k => Sys2Proof.Machine.execEnter k s
  | .leave k => Sys2Proof.Machine.execLeave k s
  | .mfk sd sc => Sys2Proof.Machine.execMfk sd sc s
  | .mtk sa sc => Sys2Proof.Machine.execMtk sa sc s
  | .nop => Sys2Proof.Machine.execNop s
  | .trap k => Sys2Proof.Machine.execTrap k s
  | .brk => Sys2Proof.Machine.execBrk s
  | .ifence => Sys2Proof.Machine.execIfence s
  | .cflush sa sb => Sys2Proof.Machine.execCflush sa sb s
  | .cycl sd => Sys2Proof.Machine.execCycl sd s
  | .phint sa sb => Sys2Proof.Machine.execPhint sa sb s
  | .ldacq sd sa sc w off => Sys2Proof.Machine.execLdacq sd sa sc w off s
  | .strel sd sa sc w off => Sys2Proof.Machine.execStrel sd sa sc w off s
  | .fence k sc => Sys2Proof.Machine.execFence k sc s
  | .relflush => Sys2Proof.Machine.execRelflush s
  | .xcopy sd sa sb r m => Sys2Proof.Machine.execXcopy sd sa sb r m s
  | .xseal sd => Sys2Proof.Machine.execXseal sd s
  | .xwait n => Sys2Proof.Machine.execXwait n s
  | .xpoll sd n => Sys2Proof.Machine.execXpoll sd n s
  | .tfill t sa sb c => Sys2Proof.Machine.execTfill t sa sb c s
  | .tfillOb t sa sb c => Sys2Proof.Machine.execTfillOb t sa sb c s
  | .tdrain t sa sb c => Sys2Proof.Machine.execTdrain t sa sb c s
  | .tstate sd t => Sys2Proof.Machine.execTstate sd t s
  | .tfree t => Sys2Proof.Machine.execTfree t s
  | .capinit sa sb => Sys2Proof.Machine.execCapinit sa sb s
  | .capin sa => Sys2Proof.Machine.execCapin sa s
  | .capstep => Sys2Proof.Machine.execCapstep s
  | .capout => Sys2Proof.Machine.execCapout s
  | .capres sd sa => Sys2Proof.Machine.execCapres sd sa s
  | .obres k sa sb => Sys2Proof.Machine.execObres k sa sb s
  | .obrel k => Sys2Proof.Machine.execObrel k s
  | .obfmt k sb => Sys2Proof.Machine.execObfmt k sb s
  | .mma sd sa k c => Sys2Proof.Machine.execMma sd sa k c s
  | .mmaBm sd sa k c => Sys2Proof.Machine.execMmaBm sd sa k c s
  | .mmaPair sd sa k c => Sys2Proof.Machine.execMmaPair sd sa k c s
  | .mmaPairBm sd sa k c => Sys2Proof.Machine.execMmaPairBm sd sa k c s
  | .mzero sd c => Sys2Proof.Machine.execMzero sd c s
  | .maccLd sd sa sb c => Sys2Proof.Machine.execMaccLd sd sa sb c s
  | .maccSt sd sa sb c => Sys2Proof.Machine.execMaccSt sd sa sb c s
  | .mwait sd => Sys2Proof.Machine.execMwait sd s
  | .mstat sd k => Sys2Proof.Machine.execMstat sd k s
  | .dcfg sa c => Sys2Proof.Machine.execDcfg sa c s
  | .dload sa sb c => Sys2Proof.Machine.execDload sa sb c s
  | .dloadPairs sa c => Sys2Proof.Machine.execDloadPairs sa c s
  | .dstream sa sb c => Sys2Proof.Machine.execDstream sa sb c s
  | .dbias sa sb c => Sys2Proof.Machine.execDbias sa sb c s
  | .dclamp sa c => Sys2Proof.Machine.execDclamp sa c s
  | .dinit sa c => Sys2Proof.Machine.execDinit sa c s
  | .dlink sa c => Sys2Proof.Machine.execDlink sa c s
  | .dsweep sa c => Sys2Proof.Machine.execDsweep sa c s
  | .dread sa k c => Sys2Proof.Machine.execDread sa k c s
  | .dclr k c => Sys2Proof.Machine.execDclr k c s
  | .dmon sd k => Sys2Proof.Machine.execDmon sd k s
  | .dmonClr sd k => Sys2Proof.Machine.execDmonClr sd k s
  | .remit sd sa sb => Sys2Proof.Machine.execRemit sd sa sb s
  | .remitW sa sb => Sys2Proof.Machine.execRemitW sa sb s
  | .remitj sd sa sb => Sys2Proof.Machine.execRemitj sd sa sb s
  | .rdone => Sys2Proof.Machine.execRdone s
  | .gquery sd n => Sys2Proof.Machine.execGquery sd n s
  | .gcount sd n => Sys2Proof.Machine.execGcount sd n s
  | .vadd f => Sys2Proof.Machine.execVadd f s
  | .vsub f => Sys2Proof.Machine.execVsub f s
  | .vmul f => Sys2Proof.Machine.execVmul f s
  | .vmulh f => Sys2Proof.Machine.execVmulh f s
  | .vmad f => Sys2Proof.Machine.execVmad f s
  | .vmin f => Sys2Proof.Machine.execVmin f s
  | .vmax f => Sys2Proof.Machine.execVmax f s
  | .vabs f => Sys2Proof.Machine.execVabs f s
  | .vand f => Sys2Proof.Machine.execVand f s
  | .vor f => Sys2Proof.Machine.execVor f s
  | .vxor f => Sys2Proof.Machine.execVxor f s
  | .vnot f => Sys2Proof.Machine.execVnot f s
  | .vshl f => Sys2Proof.Machine.execVshl f s
  | .vshr f => Sys2Proof.Machine.execVshr f s
  | .vsra f => Sys2Proof.Machine.execVsra f s
  | .vclz f => Sys2Proof.Machine.execVclz f s
  | .vpopc f => Sys2Proof.Machine.execVpopc f s
  | .vbfx f => Sys2Proof.Machine.execVbfx f s
  | .vbfi f => Sys2Proof.Machine.execVbfi f s
  | .vsel f => Sys2Proof.Machine.execVsel f s
  | .vcmp f => Sys2Proof.Machine.execVcmp f s
  | .vmov f => Sys2Proof.Machine.execVmov f s
  | .vli f => Sys2Proof.Machine.execVli f s
  | .vfadd f => Sys2Proof.Machine.execVfadd f s
  | .vfsub f => Sys2Proof.Machine.execVfsub f s
  | .vfmul f => Sys2Proof.Machine.execVfmul f s
  | .vfma f => Sys2Proof.Machine.execVfma f s
  | .vfmin f => Sys2Proof.Machine.execVfmin f s
  | .vfmax f => Sys2Proof.Machine.execVfmax f s
  | .vfcmp f => Sys2Proof.Machine.execVfcmp f s
  | .vfclass f => Sys2Proof.Machine.execVfclass f s
  | .vrcp f => Sys2Proof.Machine.execVrcp f s
  | .vrsqrt f => Sys2Proof.Machine.execVrsqrt f s
  | .vexp2 f => Sys2Proof.Machine.execVexp2 f s
  | .vlog2 f => Sys2Proof.Machine.execVlog2 f s
  | .vtanh f => Sys2Proof.Machine.execVtanh f s
  | .vcvt f => Sys2Proof.Machine.execVcvt f s
  | .vpack f => Sys2Proof.Machine.execVpack f s
  | .vunpack f => Sys2Proof.Machine.execVunpack f s
  | .vmxq f => Sys2Proof.Machine.execVmxq f s
  | .vmxdq f => Sys2Proof.Machine.execVmxdq f s
  | .vspq f => Sys2Proof.Machine.execVspq f s
  | .vperm f => Sys2Proof.Machine.execVperm f s
  | .vshfl f => Sys2Proof.Machine.execVshfl f s
  | .vred f => Sys2Proof.Machine.execVred f s
  | .vscan f => Sys2Proof.Machine.execVscan f s
  | .vballot f => Sys2Proof.Machine.execVballot f s
  | .vbcast f => Sys2Proof.Machine.execVbcast f s
  | .vcompact f => Sys2Proof.Machine.execVcompact f s
  | .pand f => Sys2Proof.Machine.execPand f s
  | .por f => Sys2Proof.Machine.execPor f s
  | .pnot f => Sys2Proof.Machine.execPnot f s
  | .pmov f => Sys2Proof.Machine.execPmov f s
  | .pmovV f => Sys2Proof.Machine.execPmovV f s
  | .pmovI f => Sys2Proof.Machine.execPmovI f s
  | .vrand f => Sys2Proof.Machine.execVrand f s
  | .vrandf f => Sys2Proof.Machine.execVrandf f s
  | .vld f => Sys2Proof.Machine.execVld f s
  | .vst f => Sys2Proof.Machine.execVst f s
  | .vlds f => Sys2Proof.Machine.execVlds f s
  | .vsts f => Sys2Proof.Machine.execVsts f s
  | .vldt f => Sys2Proof.Machine.execVldt f s
  | .vatom f => Sys2Proof.Machine.execVatom f s
  | .vredM f => Sys2Proof.Machine.execVredM f s
  | .vldacq f => Sys2Proof.Machine.execVldacq f s
  | .vstrel f => Sys2Proof.Machine.execVstrel f s
  | .mpost f => Sys2Proof.Machine.execMpost f s
  | .qfetch sb sa sd => Sys2Proof.Machine.execQfetch sb sa sd s
  | .fbfx sb sa sd => Sys2Proof.Machine.execFbfx sb sa sd s
  | .sigwait p e sb sa sd => Sys2Proof.Machine.execSigwait p e sb sa sd s
  | .dispatch sb sa sd => Sys2Proof.Machine.execDispatch sb sa sd s
  | .pcancel => Sys2Proof.Machine.execPcancel s
  | .prepeat => Sys2Proof.Machine.execPrepeat s
  | .burstStart core slot path => Sys2Proof.Machine.execBurstStart core slot path s
  | .burstCommit core slot path => Sys2Proof.Machine.execBurstCommit core slot path s
  | .trapDelivery core slot path => Sys2Proof.Machine.execTrapDelivery core slot path s
  | .claimDeadlock block => Sys2Proof.Machine.execClaimDeadlock block s
  | .l1Eviction core sector => Sys2Proof.Machine.execL1Eviction core sector s
  | .copyComplete core op => Sys2Proof.Machine.execCopyComplete core op s
  | .fillComplete core op => Sys2Proof.Machine.execFillComplete core op s
  | .drainComplete core op => Sys2Proof.Machine.execDrainComplete core op s
  | .matrixOpStart core => Sys2Proof.Machine.execMatrixOpStart core s
  | .matrixOpComplete core => Sys2Proof.Machine.execMatrixOpComplete core s
  | .duneCommandComplete core => Sys2Proof.Machine.execDuneCommandComplete core s
  | .colourPhaseBegin core => Sys2Proof.Machine.execColourPhaseBegin core s
  | .colourPhaseEnd core => Sys2Proof.Machine.execColourPhaseEnd core s
  | .witnessWindowClose core => Sys2Proof.Machine.execWitnessWindowClose core s
  | .generatorSelfTest core => Sys2Proof.Machine.execGeneratorSelfTest core s
  | .horizonPublication core entry => Sys2Proof.Machine.execHorizonPublication core entry s
  | .horizonReset core entry => Sys2Proof.Machine.execHorizonReset core entry s
  | .horizonTimeout core => Sys2Proof.Machine.execHorizonTimeout core s
  | .calibrationComplete core passed => Sys2Proof.Machine.execCalibrationComplete core passed s
  | .orderedUpdateArrival core slot => Sys2Proof.Machine.execOrderedUpdateArrival core slot s
  | .orderedUpdateFold addr => Sys2Proof.Machine.execOrderedUpdateFold addr s
  | .portResend core slot => Sys2Proof.Machine.execPortResend core slot s
  | .orphanReport core slot => Sys2Proof.Machine.execOrphanReport core slot s
  | .releaseNotice core slot => Sys2Proof.Machine.execReleaseNotice core slot s
  | .pageWalkComplete core page => Sys2Proof.Machine.execPageWalkComplete core page s
  | .pageServiceReply ctx record => Sys2Proof.Machine.execPageServiceReply ctx record s
  | .distributorTurn die => Sys2Proof.Machine.execDistributorTurn die s
  | .blockEnd block => Sys2Proof.Machine.execBlockEnd block s
  | .launchComplete launch => Sys2Proof.Machine.execLaunchComplete launch s
  | .preemptionRequest core => Sys2Proof.Machine.execPreemptionRequest core s
  | .forcedSaveBound core slot => Sys2Proof.Machine.execForcedSaveBound core slot s
  | .blockSaveComplete block => Sys2Proof.Machine.execBlockSaveComplete block s
  | .blockResume block => Sys2Proof.Machine.execBlockResume block s
  | .watchdogReport die ctx => Sys2Proof.Machine.execWatchdogReport die ctx s
  | .graphRunStart slot => Sys2Proof.Machine.execGraphRunStart slot s
  | .launcherCycle die => Sys2Proof.Machine.execLauncherCycle die s
  | .launcherAgeTimeout slot node => Sys2Proof.Machine.execLauncherAgeTimeout slot node s
  | .poolStall slot => Sys2Proof.Machine.execPoolStall slot s
  | .graphRunEnd slot => Sys2Proof.Machine.execGraphRunEnd slot s
  | .timerFire die => Sys2Proof.Machine.execTimerFire die s
  | .mappingInterval die => Sys2Proof.Machine.execMappingInterval die s
  | .queueMap die => Sys2Proof.Machine.execQueueMap die s
  | .queueMappingAck ctx record => Sys2Proof.Machine.execQueueMappingAck ctx record s
  | .prologueInstructionLimit die hart => Sys2Proof.Machine.execPrologueInstructionLimit die hart s
  | .prologueCycleLimit die hart => Sys2Proof.Machine.execPrologueCycleLimit die hart s
  | .prologueReturn die hart => Sys2Proof.Machine.execPrologueReturn die hart s
  | .nopCommand queue command => Sys2Proof.Machine.execNopCommand queue command s
  | .launchCommand queue command => Sys2Proof.Machine.execLaunchCommand queue command s
  | .uploadCommand queue command => Sys2Proof.Machine.execUploadCommand queue command s
  | .triggerCommand queue command => Sys2Proof.Machine.execTriggerCommand queue command s
  | .signalCommand queue command => Sys2Proof.Machine.execSignalCommand queue command s
  | .waitCommand queue command => Sys2Proof.Machine.execWaitCommand queue command s
  | .timerArm queue command => Sys2Proof.Machine.execTimerArm queue command s
  | .timerOff queue command => Sys2Proof.Machine.execTimerOff queue command s
  | .collectiveCommand queue command => Sys2Proof.Machine.execCollectiveCommand queue command s
  | .msgSend queue command => Sys2Proof.Machine.execMsgSend queue command s
  | .msgRecv queue command => Sys2Proof.Machine.execMsgRecv queue command s
  | .doorbell value => Sys2Proof.Machine.execDoorbell value s
  | .triggerWrite slot value => Sys2Proof.Machine.execTriggerWrite slot value s
  | .deviceEnable => Sys2Proof.Machine.execDeviceEnable s
  | .warmReset => Sys2Proof.Machine.execWarmReset s
  | .pwrSetWrite value => Sys2Proof.Machine.execPwrSetWrite value s
  | .registerWrite offset value => Sys2Proof.Machine.execRegisterWrite offset value s
  | .functionLevelReset => Sys2Proof.Machine.execFunctionLevelReset s
  | .coldReset => Sys2Proof.Machine.execColdReset s
  | .hostMemoryWrite offset bytes => Sys2Proof.Machine.execHostMemoryWrite offset bytes s
  | .hostMemoryRead offset count => Sys2Proof.Machine.execHostMemoryRead offset count s
  | .netinDataFrame port frame => Sys2Proof.Machine.execNetinDataFrame port frame s
  | .netinAckFrame port frame => Sys2Proof.Machine.execNetinAckFrame port frame s
  | .collectiveContributionFrame port frame => Sys2Proof.Machine.execCollectiveContributionFrame port frame s
  | .collectiveResultFrame port frame => Sys2Proof.Machine.execCollectiveResultFrame port frame s
  | .backlogFullFrame port frame => Sys2Proof.Machine.execBacklogFullFrame port frame s
  | .backlogOpenFrame port frame => Sys2Proof.Machine.execBacklogOpenFrame port frame s
  | .fragmentRetry message offset => Sys2Proof.Machine.execFragmentRetry message offset s
  | .remoteCompletionTimeout request => Sys2Proof.Machine.execRemoteCompletionTimeout request s
  | .netinPortFailure port => Sys2Proof.Machine.execNetinPortFailure port s
  | .ucieLinkFailure edge => Sys2Proof.Machine.execUcieLinkFailure edge s
  | .thermalThrottle die temperature => Sys2Proof.Machine.execThermalThrottle die temperature s
  | .thermalCritical die temperature => Sys2Proof.Machine.execThermalCritical die temperature s
  | .sramScrub sector corrected => Sys2Proof.Machine.execSramScrub sector corrected s
  | .hbmScrub sector corrected => Sys2Proof.Machine.execHbmScrub sector corrected s
  | .bankFailure stack bank => Sys2Proof.Machine.execBankFailure stack bank s
  | .restripeRegion stack => Sys2Proof.Machine.execRestripeRegion stack s
  | .sampleTick core quad => Sys2Proof.Machine.execSampleTick core quad s
  | .recordingCheckpoint handle => Sys2Proof.Machine.execRecordingCheckpoint handle s
  | .ctxInstall tag addr => Sys2Proof.Machine.execCtxInstall tag addr s
  | .ctxRemove tag ctx => Sys2Proof.Machine.execCtxRemove tag ctx s
  | .invalidate tag ctx base bytes => Sys2Proof.Machine.execInvalidate tag ctx base bytes s
  | .arrayClear tag die core => Sys2Proof.Machine.execArrayClear tag die core s
  | .arrayRetire tag die core => Sys2Proof.Machine.execArrayRetire tag die core s
  | .healthRead tag die core => Sys2Proof.Machine.execHealthRead tag die core s
  | .bankRepair tag stack bank => Sys2Proof.Machine.execBankRepair tag stack bank s
  | .trailRead tag die first count => Sys2Proof.Machine.execTrailRead tag die first count s
  | .saveMove tag ctx source => Sys2Proof.Machine.execSaveMove tag ctx source s
  | .watchdogAct tag ctx action => Sys2Proof.Machine.execWatchdogAct tag ctx action s
  | .fwUpdate tag addr bytes => Sys2Proof.Machine.execFwUpdate tag addr bytes s
  | .sampleStart tag ctx die core buffer bytes n => Sys2Proof.Machine.execSampleStart tag ctx die core buffer bytes n s
  | .grant tag ctx => Sys2Proof.Machine.execGrant tag ctx s
  | .revoke tag ctx => Sys2Proof.Machine.execRevoke tag ctx s
  | .dbgHalt tag target => Sys2Proof.Machine.execDbgHalt tag target s
  | .dbgResume tag target => Sys2Proof.Machine.execDbgResume tag target s
  | .dbgRead tag caravan item buffer => Sys2Proof.Machine.execDbgRead tag caravan item buffer s
  | .dbgWrite tag caravan item buffer => Sys2Proof.Machine.execDbgWrite tag caravan item buffer s
  | .dbgCommit tag caravan => Sys2Proof.Machine.execDbgCommit tag caravan s
  | .dbgMatch tag core entry word0 word1 => Sys2Proof.Machine.execDbgMatch tag core entry word0 word1 s
  | .dbgStopAtRecording tag handle k => Sys2Proof.Machine.execDbgStopAtRecording tag handle k s
  | .dbgStopAt tag handle checkpoint caravan count => Sys2Proof.Machine.execDbgStopAt tag handle checkpoint caravan count s
  | .dbgBack tag caravan => Sys2Proof.Machine.execDbgBack tag caravan s
  | .spdmGetVersion => Sys2Proof.Machine.execSpdmGetVersion s
  | .spdmGetCapabilities => Sys2Proof.Machine.execSpdmGetCapabilities s
  | .spdmNegotiateAlgorithms => Sys2Proof.Machine.execSpdmNegotiateAlgorithms s
  | .spdmGetDigests => Sys2Proof.Machine.execSpdmGetDigests s
  | .spdmGetCertificate certSlot offset count => Sys2Proof.Machine.execSpdmGetCertificate certSlot offset count s
  | .spdmChallenge certSlot nonce => Sys2Proof.Machine.execSpdmChallenge certSlot nonce s
  | .spdmGetMeasurements index signed => Sys2Proof.Machine.execSpdmGetMeasurements index signed s
  | .reservedScalarWord word => Sys2Proof.Machine.execReservedScalarWord word s
  | .reservedLaneOpcode word => Sys2Proof.Machine.execReservedLaneOpcode word s
  | .unknownQueueOpcode queue command => Sys2Proof.Machine.execUnknownQueueOpcode queue command s
  | .unknownMailboxCommand tag command => Sys2Proof.Machine.execUnknownMailboxCommand tag command s
  | .netinRemoteRequest request => Sys2Proof.Machine.execNetinRemoteRequest request s
  | .reservedKindFrame port frame => Sys2Proof.Machine.execReservedKindFrame port frame s
  | .netinPortRestore port => Sys2Proof.Machine.execNetinPortRestore port s
  | .stackCacheSpill core slot => Sys2Proof.Machine.execStackCacheSpill core slot s
  | .prologueException die hart cause => Sys2Proof.Machine.execPrologueException die hart cause s

end Sys2Proof.Machine
end

