-- ==== Sys2Proof/Machine/Riscv.lean ====
section
/-!
DEFINITION. The base instruction set of a front-end core (R339): RV64IMAC with Zicsr and Zifencei, and the machine and user
modes, as the RISC-V manuals give them (PRESUMED, log entry 9). R346 restricts what a prologue stores to.
-/

namespace Sys2Proof.Machine

/-! ### Compressed words -/

/-- A base word of the I layout. -/
def rvI (imm rs1 f3 rd op : Nat) : Nat := imm % 2 ^ 12 * 2 ^ 20 + rs1 * 2 ^ 15 + f3 * 2 ^ 12 + rd * 2 ^ 7 + op
/-- A base word of the S layout. -/
def rvS (imm rs2 rs1 f3 : Nat) : Nat :=
  imm / 32 * 2 ^ 25 + rs2 * 2 ^ 20 + rs1 * 2 ^ 15 + f3 * 2 ^ 12 + imm % 32 * 2 ^ 7 + 0x23
/-- A base word of the R layout. -/
def rvR (f7 rs2 rs1 f3 rd op : Nat) : Nat := f7 * 2 ^ 25 + rs2 * 2 ^ 20 + rs1 * 2 ^ 15 + f3 * 2 ^ 12 + rd * 2 ^ 7 + op
/-- A base word of the B layout, from the bits of a displacement. -/
def rvB (imm rs1 f3 : Nat) : Nat :=
  fld imm 12 1 * 2 ^ 31 + fld imm 5 6 * 2 ^ 25 + rs1 * 2 ^ 15 + f3 * 2 ^ 12 + fld imm 1 4 * 2 ^ 8 + fld imm 11 1 * 2 ^ 7 + 0x63
/-- `jal` with the bits of a displacement. -/
def rvJ (imm rd : Nat) : Nat :=
  fld imm 20 1 * 2 ^ 31 + fld imm 1 10 * 2 ^ 21 + fld imm 11 1 * 2 ^ 20 + fld imm 12 8 * 2 ^ 12 + rd * 2 ^ 7 + 0x6f

/-- A field of `n` bits sign-extended to a displacement of 21 bits. -/
def rvSext (v n : Nat) : Nat := ((BitVec.ofNat n v).signExtend 21).toNat

/-- The 6-bit immediate of a compressed word. -/
def rvcImm (w : Nat) : Nat := ((BitVec.ofNat 6 (fld w 12 1 * 32 + fld w 2 5)).signExtend 32).toNat

/-- A compressed word of quadrant 0 as the base word that it stands for. -/
def rvc0 (w : Nat) : Option Nat :=
  let rd := 8 + fld w 2 3
  let rs := 8 + fld w 7 3
  let four := fld w 10 3 * 8 + fld w 6 1 * 4 + fld w 5 1 * 64
  let eight := fld w 10 3 * 8 + fld w 5 2 * 64
  match fld w 13 3 with
  | 0 =>
    let imm := fld w 11 2 * 16 + fld w 7 4 * 64 + fld w 6 1 * 4 + fld w 5 1 * 8
    if imm = 0 then none else some (rvI imm 2 0 rd 0x13)
  | 2 => some (rvI four rs 2 rd 0x03)
  | 3 => some (rvI eight rs 3 rd 0x03)
  | 6 => some (rvS four rd rs 2)
  | 7 => some (rvS eight rd rs 3)
  | _ => none

/-- A compressed word of quadrant 1 as the base word that it stands for. -/
def rvc1 (w : Nat) : Option Nat :=
  let rd := fld w 7 5
  let imm := rvcImm w
  let rs := 8 + fld w 7 3
  let r2 := 8 + fld w 2 3
  let shamt := fld w 12 1 * 32 + fld w 2 5
  let near := fld w 12 1 * 256 + fld w 10 2 * 8 + fld w 5 2 * 64 + fld w 3 2 * 2 + fld w 2 1 * 32
  match fld w 13 3 with
  | 0 => some (rvI imm rd 0 rd 0x13)
  | 1 => if rd = 0 then none else some (rvI imm rd 0 rd 0x1b)
  | 2 => some (rvI imm 0 0 rd 0x13)
  | 3 =>
    if rd = 2 then
      let v := fld w 12 1 * 512 + fld w 6 1 * 16 + fld w 5 1 * 64 + fld w 3 2 * 128 + fld w 2 1 * 32
      if v = 0 then none else some (rvI (rvSext v 10) 2 0 2 0x13)
    else if shamt = 0 then none
    else some (imm % 2 ^ 20 * 2 ^ 12 + rd * 2 ^ 7 + 0x37)
  | 4 =>
    match fld w 10 2 with
    | 0 => some (rvI shamt rs 5 rs 0x13)
    | 1 => some (rvI (0x400 + shamt) rs 5 rs 0x13)
    | 2 => some (rvI imm rs 7 rs 0x13)
    | _ =>
      match fld w 12 1, fld w 5 2 with
      | 0, 0 => some (rvR 0x20 r2 rs 0 rs 0x33)
      | 0, 1 => some (rvR 0 r2 rs 4 rs 0x33)
      | 0, 2 => some (rvR 0 r2 rs 6 rs 0x33)
      | 0, _ => some (rvR 0 r2 rs 7 rs 0x33)
      | _, 0 => some (rvR 0x20 r2 rs 0 rs 0x3b)
      | _, 1 => some (rvR 0 r2 rs 0 rs 0x3b)
      | _, _ => none
  | 5 =>
    let far := fld w 12 1 * 2048 + fld w 11 1 * 16 + fld w 9 2 * 256 + fld w 8 1 * 1024 + fld w 7 1 * 64 + fld w 6 1 * 128
      + fld w 3 3 * 2 + fld w 2 1 * 32
    some (rvJ (rvSext far 12) 0)
  | 6 => some (rvB (rvSext near 9) rs 0)
  | _ => some (rvB (rvSext near 9) rs 1)

/-- A compressed word of quadrant 2 as the base word that it stands for. -/
def rvc2 (w : Nat) : Option Nat :=
  let rd := fld w 7 5
  let r2 := fld w 2 5
  match fld w 13 3 with
  | 0 => some (rvI (fld w 12 1 * 32 + r2) rd 1 rd 0x13)
  | 2 => if rd = 0 then none else some (rvI (fld w 12 1 * 32 + fld w 4 3 * 4 + fld w 2 2 * 64) 2 2 rd 0x03)
  | 3 => if rd = 0 then none else some (rvI (fld w 12 1 * 32 + fld w 5 2 * 8 + fld w 2 3 * 64) 2 3 rd 0x03)
  | 4 =>
    if fld w 12 1 = 0 then
      if r2 = 0 then (if rd = 0 then none else some (rvI 0 rd 0 0 0x67)) else some (rvR 0 r2 0 0 rd 0x33)
    else if r2 = 0 then (if rd = 0 then some 0x00100073 else some (rvI 0 rd 0 1 0x67))
    else some (rvR 0 r2 rd 0 rd 0x33)
  | 6 => some (rvS (fld w 9 4 * 4 + fld w 7 2 * 64) r2 2 2)
  | 7 => some (rvS (fld w 10 3 * 8 + fld w 7 3 * 64) r2 2 3)
  | _ => none

/-- A compressed word as the base word that it stands for. -/
def rvcExpand (w : Nat) : Option Nat :=
  match w % 4 with
  | 0 => rvc0 w
  | 1 => rvc1 w
  | _ => rvc2 w

/-! ### Arithmetic -/

/-- A 32-bit result as a register holds it. -/
def rvWord (v : BitVec 32) : Word := v.signExtend 64

/-- The register operations of RV64I by funct3, the alternative of subtraction and arithmetic shift. -/
def rvAlu (f3 : Nat) (alt : Bool) (a b : Word) : Option Word :=
  match f3, alt with
  | 0, false => some (a + b)
  | 0, true => some (a - b)
  | 1, false => some (a <<< (b.toNat % 64))
  | 2, false => some (if a.slt b then 1 else 0)
  | 3, false => some (if a.ult b then 1 else 0)
  | 4, false => some (a ^^^ b)
  | 5, false => some (a >>> (b.toNat % 64))
  | 5, true => some (a.sshiftRight (b.toNat % 64))
  | 6, false => some (a ||| b)
  | 7, false => some (a &&& b)
  | _, _ => none

/-- The 32-bit register operations of RV64I. -/
def rvAluW (f3 : Nat) (alt : Bool) (a b : BitVec 32) : Option (BitVec 32) :=
  match f3, alt with
  | 0, false => some (a + b)
  | 0, true => some (a - b)
  | 1, false => some (a <<< (b.toNat % 32))
  | 5, false => some (a >>> (b.toNat % 32))
  | 5, true => some (a.sshiftRight (b.toNat % 32))
  | _, _ => none

/-- The quotients and remainders of the M extension: of a division by zero all ones and the dividend. -/
def rvDivide {n : Nat} (signed rem : Bool) (a b : BitVec n) : BitVec n :=
  if b = 0 then (if rem then a else BitVec.allOnes n)
  else if signed then (if rem then BitVec.ofInt n (a.toInt.tmod b.toInt) else BitVec.ofInt n (a.toInt.tdiv b.toInt))
  else if rem then BitVec.ofNat n (a.toNat % b.toNat) else BitVec.ofNat n (a.toNat / b.toNat)

/-- The 64-bit operations of the M extension. -/
def rvMul (f3 : Nat) (a b : Word) : Word :=
  match f3 with
  | 0 => a * b
  | 1 => BitVec.ofInt 64 (a.toInt * b.toInt / 2 ^ 64)
  | 2 => BitVec.ofInt 64 (a.toInt * b.toNat / 2 ^ 64)
  | 3 => BitVec.ofNat 64 (a.toNat * b.toNat / 2 ^ 64)
  | 4 => rvDivide true false a b
  | 5 => rvDivide false false a b
  | 6 => rvDivide true true a b
  | _ => rvDivide false true a b

/-- The 32-bit operations of the M extension. -/
def rvMulW (f3 : Nat) (a b : BitVec 32) : Option (BitVec 32) :=
  match f3 with
  | 0 => some (a * b)
  | 4 => some (rvDivide true false a b)
  | 5 => some (rvDivide false false a b)
  | 6 => some (rvDivide true true a b)
  | 7 => some (rvDivide false true a b)
  | _ => none

/-- Whether a branch of funct3 is taken. -/
def rvTaken (f3 : Nat) (a b : Word) : Option Bool :=
  match f3 with
  | 0 => some (a == b)
  | 1 => some (a != b)
  | 4 => some (a.slt b)
  | 5 => some (!a.slt b)
  | 6 => some (a.ult b)
  | 7 => some (!a.ult b)
  | _ => none

/-- The new value of an atomic of the A extension. -/
def rvAtomic {n : Nat} (f5 : Nat) (old v : BitVec n) : Option (BitVec n) :=
  match f5 with
  | 0 => some (old + v)
  | 1 => some v
  | 4 => some (old ^^^ v)
  | 8 => some (old ||| v)
  | 12 => some (old &&& v)
  | 16 => some (if old.slt v then old else v)
  | 20 => some (if old.slt v then v else old)
  | 24 => some (if old.ult v then old else v)
  | 28 => some (if old.ult v then v else old)
  | _ => none

/-! ### Memory of a front-end core -/

/-- Whether `n` bytes at an address lie in a range. -/
def rvWithin (base : Word) (size : Nat) (va : Word) (n : Nat) : Bool := (va - base).toNat + n ≤ size

/-- Whether an address of the firmware lies in the local memory: its low 256 KiB (PRESUMED, log entry 9). -/
def rvLocal (x : Hart) (va : Word) : Bool := x.machineMode && va.toNat < 2 ^ 18

/-- Bytes that a front-end core loads (R339, R346): the local memory of the firmware, the packet copy and the stack of a prologue,
device memory in its context. -/
def State.hartLoad (s : State) (die h : Nat) (x : Hart) (va : Word) (n : Nat) : Found Nat :=
  if rvLocal x va then
    .ok (leNat ((List.range n).map (fun i => Tab.getD (s.die die).localMem ((va.toNat + i) % 2 ^ 18) (0 : Byte)))) s
  else
    match if x.machineMode then none else s.prologueOf die h with
    | none => s.frontNat x.fctx va n
    | some (_, d) =>
      if rvWithin d.copyAt 64 va n then .ok (d.copy.toNat / 2 ^ (8 * (va - d.copyAt).toNat) % 2 ^ (8 * n)) s
      else if rvWithin (d.stackTop - 1024) 1024 va n then
        .ok (leNat ((List.range n).map (fun i => match Tab.get? d.stack ((va - (d.stackTop - 1024)).toNat + i) with
          | some b => b
          | none => BitVec.ofNat 8 (Config.freeNat s.free i)))) { s with free := s.free + 1 }
      else s.frontNat x.fctx va n

/-- The copy of a packet with bytes stored at an offset. -/
def copyWith (w : BitVec 512) (at_ n v : Nat) : BitVec 512 :=
  BitVec.ofNat 512 (w.toNat - w.toNat / 2 ^ (8 * at_) % 2 ^ (8 * n) * 2 ^ (8 * at_) + v % 2 ^ (8 * n) * 2 ^ (8 * at_))

/-- Bytes set in a prologue's stack. -/
def stackWith (t : Tab Byte) (at_ : Nat) : List Byte → Tab Byte
  | [] => t
  | b :: bs => stackWith (Tab.set t at_ b) (at_ + 1) bs

/-- Bytes that a front-end core stores (R339, R346): a prologue stores to its packet copy and its stack alone, and elsewhere takes
the store access fault. -/
def State.hartStore (s : State) (die h : Nat) (x : Hart) (va : Word) (n v : Nat) : Found Unit :=
  let elsewhere : Found Unit := s.frontWrite x.fctx va (leBytes n v)
  if rvLocal x va then .ok () (s.modDie die (fun d => d.localWrite va.toNat (leBytes n v)))
  else if x.machineMode then elsewhere
  else
    match s.prologueOf die h with
    | none => elsewhere
    | some (k, d) =>
      if rvWithin d.copyAt 64 va n then
        .ok () (s.modDispatch die k (fun y => { y with copy := copyWith y.copy (va - d.copyAt).toNat n v }))
      else if rvWithin (d.stackTop - 1024) 1024 va n then
        .ok () (s.modDispatch die k (fun y => { y with stack := stackWith y.stack (va - (d.stackTop - 1024)).toNat (leBytes n v) }))
      else .fail codePoison 0 va s

/-- The exception of a load or a store that fails: a page fault of a translation, an access fault otherwise. -/
def rvMemoryCause (store : Bool) (code : Nat) : Nat :=
  if code = codePageFault ∨ code = codeProtection then (if store then 15 else 13) else if store then 7 else 5

/-- What follows a load: its value, or its exception. -/
def Found.loaded (die h : Nat) (store : Bool) (r : Found Nat) (k : Nat → State → State) : State :=
  match r with
  | .ok v t => k v t
  | .wait t => t
  | .fail code _ va t => t.frontTrap die h (rvMemoryCause store code) va

/-- What follows a store. -/
def Found.stored (die h : Nat) (r : Found Unit) (k : State → State) : State :=
  match r with
  | .ok _ t => k t
  | .wait t => t
  | .fail code _ va t => t.frontTrap die h (rvMemoryCause true code) va

/-! ### Control and status registers -/

/-- The interrupt enables and the previous mode that `mstatus` holds. -/
def rvStatusMask : Nat := 0x1888

/-- A control and status register of a front-end core: none where there is none. -/
def State.rvCsr (s : State) (die h : Nat) (x : Hart) (n : Nat) : Option Word :=
  let own := Tab.getD x.csrs n 0
  let clock : Word := BitVec.ofNat 64 (s.die die).cyc
  let user (k : Nat) (v : Word) : Option Word :=
    if x.machineMode || flag (Tab.getD x.csrs 0x306 0).toNat k then some v else none
  match n with
  | 0xc00 => user 0 (clock + Tab.getD x.csrs 0xb00 0)
  | 0xc01 => user 1 clock
  | 0xc02 => user 2 (Tab.getD x.csrs 0xb02 0)
  | _ =>
    if !x.machineMode then none
    else
      match n with
      | 0x300 | 0x304 | 0x306 | 0x340 | 0xb02 => some own
      | 0x301 => some (BitVec.ofNat 64 (2 * 2 ^ 62 + 2 ^ 20 + 2 ^ 12 + 2 ^ 8 + 2 ^ 2 + 1))
      | 0x305 => some x.mtvec
      | 0x30a | 0x320 | 0x344 | 0xf11 | 0xf12 | 0xf13 | 0xf15 => some 0
      | 0x341 => some x.mepc
      | 0x342 => some x.mcause
      | 0x343 => some x.mtval
      | 0x7c0 => some (BitVec.ofNat 64 x.fctx)
      | 0xb00 => some (clock + own)
      | 0xf14 => some (BitVec.ofNat 64 (4 * die + h))
      | _ => if (0xb03 ≤ n ∧ n ≤ 0xb1f) ∨ (0x323 ≤ n ∧ n ≤ 0x33f) ∨ (0xc03 ≤ n ∧ n ≤ 0xc1f) then some 0 else none

/-- The registers of a core after a write of a control and status register. The count of retired instructions, written, is not
raised by the instruction that writes it. -/
def Hart.rvSetCsr (x : Hart) (clock : Word) (n : Nat) (v : Word) : Hart :=
  let put (w : Word) : Hart := { x with csrs := Tab.set x.csrs n w }
  match n with
  | 0x300 =>
    let previous := if fld v.toNat 11 2 = 3 then 0x1800 else 0
    put (BitVec.ofNat 64 (v.toNat % 2 ^ 8 / 2 ^ 7 * 0x80 + v.toNat % 2 ^ 4 / 2 ^ 3 * 8 + previous))
  | 0x304 => put (v &&& 0x888)
  | 0x306 => put (v &&& 7)
  | 0x340 => put v
  | 0xb00 => put (v - clock)
  | 0xb02 => put (v - 1)
  | 0x305 => { x with mtvec := v &&& ~~~ 2 }
  | 0x341 => { x with mepc := v &&& ~~~ 1 }
  | 0x342 => { x with mcause := v }
  | 0x343 => { x with mtval := v }
  | 0x7c0 => { x with fctx := v.toNat % 2 ^ 16 }
  | _ => x

/-- An instruction of Zicsr. -/
def rvCsrOp (die h len : Nat) (w : Nat) (s : State) : State :=
  let x := (s.die die).hart h
  let n := fld w 20 12
  let f3 := fld w 12 3
  let rs := fld w 15 5
  let writes : Bool := f3 % 4 = 1 || rs ≠ 0
  let src : Word := if f3 ≥ 4 then BitVec.ofNat 64 rs else x.reg (BitVec.ofNat 5 rs)
  match s.rvCsr die h x n with
  | none => s.frontIllegal die h
  | some old =>
    if writes && fld n 10 2 = 3 then s.frontIllegal die h
    else
      let new := match f3 % 4 with
        | 1 => src
        | 2 => old ||| src
        | _ => old &&& ~~~ src
      s.retireHartTo die h (x.pc + BitVec.ofNat 64 len) (fun y =>
        (if writes then y.rvSetCsr (BitVec.ofNat 64 (s.die die).cyc) n new else y).setReg (BitVec.ofNat 5 (fld w 7 5)) old)

/-- `mret`: the mode and the interrupt enable that the last exception found come back. -/
def Hart.rvReturn (x : Hart) : Hart :=
  let status := (Tab.getD x.csrs 0x300 0).toNat
  { x with machineMode := fld status 11 2 = 3,
           csrs := Tab.set x.csrs 0x300 (BitVec.ofNat 64 (0x80 + if flag status 7 then 8 else 0)) }

/-! ### Instructions -/

/-- A load-reserve, a store-conditional or an atomic of the A extension. A store-conditional succeeds where its core holds the
reservation and the bytes there are still those that it read. -/
def rvAmo (die h len : Nat) (w : Nat) (s : State) : State :=
  let x := (s.die die).hart h
  let n := if fld w 12 3 = 2 then 4 else 8
  let va := x.reg (BitVec.ofNat 5 (fld w 15 5))
  let v := (x.reg (BitVec.ofNat 5 (fld w 20 5))).toNat
  let rd := BitVec.ofNat 5 (fld w 7 5)
  let f5 := fld w 27 5
  let wide (u : Nat) : Word := if n = 4 then rvWord (BitVec.ofNat 32 u) else BitVec.ofNat 64 u
  let after (t : State) (f : Hart → Hart) : State := t.retireHartTo die h (x.pc + BitVec.ofNat 64 len) f
  if fld w 12 3 ≠ 2 ∧ fld w 12 3 ≠ 3 then s.frontIllegal die h
  else if f5 = 2 ∧ fld w 20 5 ≠ 0 then s.frontIllegal die h
  else if f5 ≠ 2 ∧ f5 ≠ 3 ∧ rvAtomic f5 (0 : Word) 0 = none then s.frontIllegal die h
  else if va.toNat % n ≠ 0 then s.frontTrap die h (if f5 = 2 then 4 else 6) va
  else if f5 = 2 then
    (s.hartLoad die h x va n).loaded die h false (fun u t =>
      after t (fun y => { y.setReg rd (wide u) with reserved := some (va, n, u) }))
  else
    (s.hartLoad die h x va n).loaded die h true (fun u t =>
      if f5 = 3 then
        if x.reserved = some (va, n, u) then
          (t.hartStore die h x va n v).stored die h (fun z => after z (fun y => { y.setReg rd 0 with reserved := none }))
        else after t (fun y => { y.setReg rd 1 with reserved := none })
      else
        let new := if n = 4 then ((rvAtomic f5 (BitVec.ofNat 32 u) (BitVec.ofNat 32 v)).map BitVec.toNat).getD u
          else ((rvAtomic f5 (BitVec.ofNat 64 u) (BitVec.ofNat 64 v)).map BitVec.toNat).getD u
        (t.hartStore die h x va n new).stored die h (fun z => after z (fun y => y.setReg rd (wide u))))

/-- The system instructions: `ecall`, `ebreak`, `mret`, `wfi`, which ends at once, and Zicsr. -/
def rvSystem (die h len : Nat) (w : Nat) (s : State) : State :=
  let x := (s.die die).hart h
  if fld w 12 3 = 4 then s.frontIllegal die h
  else if fld w 12 3 ≠ 0 then rvCsrOp die h len w s
  else
    match w with
    | 0x00000073 => s.frontTrap die h (if x.machineMode then 11 else 8) 0
    | 0x00100073 => s.frontTrap die h 3 x.pc
    | 0x10500073 => s.retireHartTo die h (x.pc + BitVec.ofNat 64 len) id
    | 0x30200073 => if x.machineMode then s.retireHartTo die h x.mepc Hart.rvReturn else s.frontIllegal die h
    | _ => s.frontIllegal die h

/-- A BASE WORD of a front-end core executed: `len` is the length in bytes of the word that it was fetched as. -/
def rvExec (die h len : Nat) (w : Nat) (s : State) : State :=
  let x := (s.die die).hart h
  let rd := BitVec.ofNat 5 (fld w 7 5)
  let a := x.reg (BitVec.ofNat 5 (fld w 15 5))
  let b := x.reg (BitVec.ofNat 5 (fld w 20 5))
  let f3 := fld w 12 3
  let f7 := fld w 25 7
  let following := x.pc + BitVec.ofNat 64 len
  let immI : Word := (BitVec.ofNat 12 (fld w 20 12)).signExtend 64
  let immS : Word := (BitVec.ofNat 12 (f7 * 32 + fld w 7 5)).signExtend 64
  let immU : Word := (BitVec.ofNat 32 (fld w 12 20 * 2 ^ 12)).signExtend 64
  let immB : Word := (BitVec.ofNat 13 (fld w 31 1 * 2 ^ 12 + fld w 7 1 * 2 ^ 11 + fld w 25 6 * 2 ^ 5 + fld w 8 4 * 2)).signExtend 64
  let immJ : Word := (BitVec.ofNat 21 (fld w 31 1 * 2 ^ 20 + fld w 12 8 * 2 ^ 12 + fld w 20 1 * 2 ^ 11 + fld w 21 10 * 2)).signExtend 64
  let illegal := s.frontIllegal die h
  let write (v : Word) : State := s.retireHartTo die h following (fun y => y.setReg rd v)
  let writes (v : Option Word) : State := (v.map write).getD illegal
  let writesW (v : Option (BitVec 32)) : State := (v.map (fun u => write (rvWord u))).getD illegal
  let jump (target : Word) : State := s.retireHartTo die h target (fun y => y.setReg rd following)
  match fld w 0 7 with
  | 0x37 => write immU
  | 0x17 => write (x.pc + immU)
  | 0x6f => jump (x.pc + immJ)
  | 0x67 => if f3 = 0 then jump ((a + immI) &&& ~~~ 1) else illegal
  | 0x63 =>
    match rvTaken f3 a b with
    | some t => s.retireHartTo die h (if t then x.pc + immB else following) id
    | none => illegal
  | 0x03 =>
    if f3 = 7 then illegal
    else
      let n := 2 ^ (f3 % 4)
      (s.hartLoad die h x (a + immI) n).loaded die h false (fun v t =>
        t.retireHartTo die h following (fun y =>
          y.setReg rd (if f3 < 4 then (BitVec.ofNat (8 * n) v).signExtend 64 else BitVec.ofNat 64 v)))
  | 0x23 =>
    if f3 > 3 then illegal
    else (s.hartStore die h x (a + immS) (2 ^ f3) b.toNat).stored die h (fun t => t.retireHartTo die h following id)
  | 0x13 =>
    if f3 = 1 ∨ f3 = 5 then
      match fld w 26 6 with
      | 0 => writes (rvAlu f3 false a immI)
      | 0x10 => writes (rvAlu f3 true a immI)
      | _ => illegal
    else writes (rvAlu f3 false a immI)
  | 0x1b =>
    if f3 = 0 then writesW (rvAluW 0 false (a.truncate 32) (immI.truncate 32))
    else
      match f7 with
      | 0 => writesW (rvAluW f3 false (a.truncate 32) (immI.truncate 32))
      | 0x20 => if f3 = 5 then writesW (rvAluW 5 true (a.truncate 32) (immI.truncate 32)) else illegal
      | _ => illegal
  | 0x33 =>
    match f7 with
    | 0 => writes (rvAlu f3 false a b)
    | 1 => write (rvMul f3 a b)
    | 0x20 => writes (rvAlu f3 true a b)
    | _ => illegal
  | 0x3b =>
    match f7 with
    | 0 => writesW (rvAluW f3 false (a.truncate 32) (b.truncate 32))
    | 1 => writesW (rvMulW f3 (a.truncate 32) (b.truncate 32))
    | 0x20 => writesW (rvAluW f3 true (a.truncate 32) (b.truncate 32))
    | _ => illegal
  | 0x2f => rvAmo die h len w s
  | 0x0f => if f3 ≤ 1 then s.retireHartTo die h following id else illegal
  | 0x73 => rvSystem die h len w s
  | _ => illegal

/-- A base word fetched: of 16 bits where its low two bits are not both one, of 32 otherwise. -/
def rvRun (die h : Nat) (w : Nat) (s : State) : State :=
  if w % 4 = 3 then rvExec die h 4 (w % 2 ^ 32) s
  else
    match rvcExpand (w % 2 ^ 16) with
    | some e => rvExec die h 2 e s
    | none => s.frontIllegal die h

end Sys2Proof.Machine
end

