-- ==== Sys2Proof/Machine/Fetch.lean ====
section
/-!
DEFINITION. The fetch of a path's next scalar word, of a burst's next lane word, of a front-end core's next word and of a
queue's next command, what stands between instructions, and a word placed for the next step (R45, R75, R88, R102, R187, R334,
R335, R339, R424).
-/

namespace Sys2Proof.Machine

/-! ### Code fetch -/

/-- The store of a byte of this package's memory that some core's L1 holds and has not pushed, or none (R254). -/
def State.unpushed (s : State) (a : Nat) : Option Byte :=
  s.cores.findSome? (fun c => match Tab.get? c.2.l1 (a / 64) with
    | some l => if l.dirty.toNat / 2 ^ (a % 64) % 2 = 1 then some (BitVec.ofNat 8 (l.data.toNat / 2 ^ (8 * (a % 64)))) else none
    | none => none)

/-- `n` bytes of code, of one page or of two (R74). A word whose parts lie in two sectors is taken whole with what has been stored
to it, though one of the sectors is pushed before the other (R75). -/
def codeBytes (t : Translation) (next : Option Translation) (va : Word) (n : Nat) : Act (List Byte) := do
  let k := 65536 - va.toNat % 65536
  let bs ← match next with
    | none => codePart t va n
    | some u => do pure ((← codePart t va k) ++ (← codePart u (va + BitVec.ofNat 64 k) (n - k)))
  if va.toNat % 64 + n ≤ 64 then pure bs
  else
    let s ← get
    let at_ (i : Nat) : Option Nat :=
      let u := if i < k then t else next.getD t
      if u.package.isSome then none else some (physical u (va + BitVec.ofNat 64 i))
    pure (bs.mapIdx (fun i b => ((at_ i).bind s.unpushed).getD b))

/-- Whether a code cache goes on with the word it holds: always while memory holds the same, else as it may (R75). What another
package's memory holds is not known. -/
def keepsCached (held : Nat) (now : Option Nat) : Act Bool := do
  if now = some held then pure true
  else pure (Config.choice (← drawFree) % 2 = 1)

/-- A code cache of a quadrant in one table with those of its core: its words by key, and how many one quadrant holds (R1). -/
structure CodeCache where
  get : Core → Nat → Option Nat
  put : Core → Nat → Nat → Core
  keys : Core → List Nat
  drop : Core → Nat → Core
  words : Nat

/-- A code cache of a core with room for a word of a quadrant: where it is full, a word that the machine chooses leaves it. -/
def CodeCache.room (x : CodeCache) (c : Core) (quad pick : Nat) : Core :=
  let mine := (x.keys c).filter (fun k => k % 4 = quad)
  if mine.length < x.words then c else x.drop c (mine.getD (pick % mine.length) 0)

/-- A word of code through a cache of the quadrant in focus, keyed by where its bytes lie and the quadrant (R75, R361). Both pages of a
word that straddles them are translated whether the cache holds it or not (R74). -/
def codeWord (n : Nat) (va : Word) (x : CodeCache) : Act Nat := do
  let m ← me
  let t ← translate va .fetch
  let k := 65536 - va.toNat % 65536
  let next ← if n ≤ k then pure none else do pure (some (← translate (va + BitVec.ofNat 64 k) .fetch))
  let second : Nat := match next with
    | none => 0
    | some u => recordAddress u (va + BitVec.ofNat 64 k) + 1
  let quad := slotQuad m.slot
  let key := (second * 2 ^ 56 + recordAddress t va) * 4 + quad
  let s ← get
  let read : Act Nat := do
    let w := leNat (← codeBytes t next va n)
    let pick := Config.choice (← drawFree)
    update (fun s => s.modCore m.core (fun c => x.put (x.room c quad pick) key w))
    pure w
  match x.get (s.core m.core) key with
  | none => read
  | some w =>
    let now : Option Nat :=
      if t.package.isSome || next.isSome then none else some (s.homeNat (physical t va) n)
    if ← keepsCached w now then pure w else read

/-- The scalar-code cache: 32 KiB for a quadrant (R1). -/
def scalarCache : CodeCache :=
  { get := fun c k => (Tab.get? c.scode k).map BitVec.toNat, put := fun c k w => { c with scode := Tab.set c.scode k (BitVec.ofNat 32 w) },
    keys := fun c => c.scode.map Prod.fst, drop := fun c k => { c with scode := Tab.erase c.scode k }, words := 8192 }

/-- The lane-code cache: 96 KiB for a quadrant (R1). -/
def laneCache : CodeCache :=
  { get := fun c k => (Tab.get? c.lcode k).map BitVec.toNat, put := fun c k w => { c with lcode := Tab.set c.lcode k (BitVec.ofNat 96 w) },
    keys := fun c => c.lcode.map Prod.fst, drop := fun c k => { c with lcode := Tab.erase c.lcode k }, words := 8192 }

/-- The scalar word at the SPC of the path in focus (R62, R75, R98). -/
def fetchScalar (spc : Word) : Act (BitVec 32) := do
  check (spc.toNat % 4 = 0) codeMisaligned 1 spc
  let w ← codeWord 4 spc scalarCache
  pure (BitVec.ofNat 32 w)

/-- The lane word that a burst of the path in focus issues next (R74, R75). -/
def fetchLane (b : Burst) : Act (BitVec 96) := do
  let w ← codeWord 12 (b.entry.start + BitVec.ofNat 64 (12 * b.pos)) laneCache
  pure (BitVec.ofNat 96 w)

/-- A scalar word executed by the path in focus: its instruction, or what R67 gives a word that is none. -/
def runScalar (w : BitVec 32) (s : State) : Host.Outcome State Fault Refusal :=
  match decodeScalar w with
  | .ok i => exec i s
  | .error _ => execReservedScalarWord w s

/-- A lane word executed by the burst of the path in focus: its instruction, or what R73 gives a word that is none. -/
def runLane (w : BitVec 96) (s : State) : Host.Outcome State Fault Refusal :=
  match decodeLane w with
  | .ok i => exec i s
  | .error _ => execReservedLaneOpcode w s

/-- A fetched word executed; a fetch that does not complete leaves its path waiting with reason 8, or raises its fault; for a
page that the driver serves a burst is given up (R88, R245, R375, R377). -/
def afterFetch {w : Nat} (s : State) (m : Me) (wait gaveUp : State → State) (failed : Nat → Nat → Word → State → State)
    (run : BitVec w → State → Host.Outcome State Fault Refusal) :
    EStateM.Result Stop State (BitVec w) → Host.Outcome State Fault Refusal
  | .ok v t => run v t
  | .error (.trap code cause addr) t => .next (failed code cause addr (s.keep t m))
  | .error (.stall _) t => .next (wait t)
  | .error .abandon t => .next (wait (gaveUp t))
  | .error .hold _ => .next (wait s)
  | .error (.fault f) _ => .fault f

/-! ### The scalar stream of a path -/

/-- The handler of the lowest match entry that holds the SPC of a path (R424). -/
def State.pcMatch (s : State) (m : Me) : Option Word :=
  if m.blk.pk.debug && s.mayDebug m.blk.ctx && m.path.handler.isNone && m.car.capsule.isNone && !m.path.matchDone then
    (s.core m.core).matchTab.findSome? (fun e =>
      if flag e.2.1.toNat 63 && fld e.2.1.toNat 2 46 = fld m.path.spc.toNat 2 46 then
        some ((BitVec.ofNat 48 (4 * fld e.2.2.toNat 2 46)).signExtend 64)
      else none)
  else none

/-- A path whose SPC is the return address of its innermost `callv` goes on with the next target, once it has drained
(R102). -/
def State.returnCallv (s : State) (m : Me) : State :=
  if m.path.drained then
    let (c, x) := resumeCallv m.car m.path
    s.setCaravan m.key { c with paths := Tab.set c.paths m.p { x with stall := none } }
  else s.waits m .data

/-- What stands between the instructions of a path and is taken before its next one: a capsule's resume rows (R187), a trap
that awaits delivery (R377), a `callv` return (R102), the point of a precise stop (R427), a match handler (R424). -/
def State.between (s : State) (m : Me) : Option State :=
  if m.car.halted || m.car.savePoint.isSome then some s
  else if m.path.pending.isSome then some (s.waits m .faultPending)
  else if (match m.car.capsule with
    | some r => r.descheduled
    | none => false) then some (s.resumeCapsule m.key)
  else if m.path.atReturn then some (s.returnCallv m)
  else if s.goalReached m.key 1 then some (s.stopAtGoal m.key)
  else
    (s.pcMatch m).map (fun h =>
      s.modPath m.key m.p (fun x => { x with spc := h, stall := none, handler := some { matched := x.spc, count := 0 } }))

/-- A path's turn in the scalar stream: its next scalar word is fetched and executed. -/
def pathTurn (core slot p : Nat) (s : State) : Host.Outcome State Fault Refusal :=
  let s0 : State := { s with focus := .path core slot p }
  match s0.me? with
  | none => .next s
  | some m =>
    match s0.between m with
    | some t => .next t
    | none =>
      afterFetch s0 m (fun t => t.waits m .fetch) id (fun code cause addr t => t.raiseTrap m.key m.p (m.trap code cause addr)) runScalar
        ((fetchScalar m.path.spc).run s0)

/-- A quadrant's turn of its lane slot: the burst of a path issues its next lane word (R74, R243). -/
def laneTurn (core slot p : Nat) (s : State) : Host.Outcome State Fault Refusal :=
  let s0 : State := { s with focus := .path core slot p }
  match s0.me? with
  | none => .next s
  | some m =>
    match m.path.burst with
    | none => .next s
    | some b =>
      if b.issued then .next s
      else
        afterFetch s0 m (fun t => t.laneWaits m .fetch) (fun t => t.modPath m.key m.p (fun x => { x with burst := none }))
          (fun code cause addr t => t.raiseLane m b code cause addr) runLane ((fetchLane b).run s0)

/-! ### Front-end cores and queues -/

/-- A fetched word of a front-end core executed: of the extension (R340), or of the base instruction set (R339). -/
def runFront (die h : Nat) (w : BitVec 32) (s : State) : Host.Outcome State Fault Refusal :=
  if fld w.toNat 0 7 = 0x0b then
    match decodeFront w with
    | some i => exec i s
    | none => .next (s.frontIllegal die h)
  else .next (rvRun die h w.toNat s)

/-- The standard exceptions of an instruction fetch, as the base instruction set numbers them (PRESUMED, log entry 9). -/
def fetchCause (code : Nat) : Nat := if code = codePageFault ∨ code = codeProtection then 12 else 1

/-- The two bytes of a front-end core's word at an address of its context, at a translation: none for an access fault. Those of
another package are asked for, and are not known here (R361). -/
def State.hartPart (s : State) (t : Translation) (va : Word) : Found (Option Nat) :=
  let a := physical t va
  match t.package with
  | none => .ok (if s.poisoned a 2 then none else some (s.homeNat a 2)) s
  | some p =>
    match s.frontAsk [(.remote p, a)] false va with
    | .ok _ u => .ok (some (Config.freeNat u.free 0 % 2 ^ 16)) { u with free := u.free + 1 }
    | .fail _ _ _ u => .ok none u
    | .wait u => .wait u

/-- The word at a user pc (R346, R373): two bytes, and two more where the first two say so. The inner outcome is none for an
access fault. -/
def State.hartFetch (s : State) (fctx : Nat) (pc : Word) : Found (Option Nat) :=
  match s.walkServe fctx pc .fetch with
  | .wait t => .wait t
  | .fault code cause t => .fail code cause pc t
  | .leaf t u =>
    match u.hartPart t pc with
    | .fail c k a v => .fail c k a v
    | .wait v => .wait v
    | .ok none v => .ok none v
    | .ok (some low) v =>
      let whole (l : Translation) (w : State) : Found (Option Nat) :=
        match w.hartPart l (pc + 2) with
        | .ok high x => .ok (high.map (fun h => low + 2 ^ 16 * h)) x
        | r => r
      if low % 4 ≠ 3 then .ok (some low) v
      else if pc.toNat % 65536 + 4 ≤ 65536 then whole t v
      else
        match v.walkServe fctx (pc + 2) .fetch with
        | .wait w => .wait w
        | .fault code cause w => .fail code cause (pc + 2) w
        | .leaf l w => whole l w

/-- What ends a prologue before its next instruction (R346, R347): more than 256 instructions retired, more than 4,096 local
cycles, its return. -/
def prologueEnds (die h : Nat) (s : State) : Option (Host.Outcome State Fault Refusal) :=
  match s.prologueOf die h with
  | none => none
  | some (_, d) =>
    if d.instructions > Config.prologueInstructions then some (execPrologueInstructionLimit die h s)
    else if (s.die die).cyc > d.started + Config.prologueCycles then some (execPrologueCycleLimit die h s)
    else if ((s.die die).hart h).pc = d.returnTo then some (execPrologueReturn die h s)
    else none

/-- A front-end core's turn (R339, R346): the firmware fetches from the local memory, a prologue in its context. -/
def hartTurn (die h : Nat) (s : State) : Host.Outcome State Fault Refusal :=
  let s0 : State := { s with focus := .hart die h }
  let d := s0.die die
  let x := d.hart h
  if die > 3 ∨ h > 3 then .next s
  else if x.machineMode && x.dispatch.isSome then execPrologueException die h x.mcause.toNat s0
  else if x.machineMode then
    let bs := (List.range 4).map (fun i => Tab.getD d.localMem ((x.pc.toNat + i) % 2 ^ 18) (0 : Byte))
    runFront die h (BitVec.ofNat 32 (leNat bs)) s0
  else
    match prologueEnds die h s0 with
    | some o => o
    | none =>
      match s0.hartFetch x.fctx x.pc with
      | .wait t => .next t
      | .fail code _ va t => .next (t.frontTrap die h (fetchCause code) va)
      | .ok none u => .next (u.frontTrap die h (fetchCause codePoison) x.pc)
      | .ok (some w) u => runFront die h (BitVec.ofNat 32 w) u

/-- A command issued by its opcode (R336). -/
def runCommand (q : Nat) (c : Command) (s : State) : Host.Outcome State Fault Refusal :=
  match fld c.w0.toNat 0 8 with
  | 0 => execNopCommand q c s
  | 1 => execLaunchCommand q c s
  | 2 => execUploadCommand q c s
  | 3 => execTriggerCommand q c s
  | 4 => execSignalCommand q c s
  | 5 => execWaitCommand q c s
  | 6 => execTimerArm q c s
  | 7 => execTimerOff q c s
  | 8 => execCollectiveCommand q c s
  | 9 => execMsgSend q c s
  | 10 => execMsgRecv q c s
  | _ => execUnknownQueueOpcode q c s

/-- A mapped queue's turn at its front end (R334, R335, R338): the command it holds issues again, or its next command is
fetched and issues. A fault of the ring leaves the head where it is; no instruction stands behind its record (log entry 51). -/
def queueTurn (q : Nat) (s : State) : Host.Outcome State Fault Refusal :=
  let x := s.queue q
  if !s.queueLive q || x.mapped.isNone then .next s
  else
    match x.held with
    | some c => runCommand q c s
    | none =>
      if x.head = x.tail then .next s
      else
        match s.ringCommand q with
        | .wait t => .next t
        | .fail code cause addr t => .next (t.logFault (s.queueDesc q).ctx [recordWord code cause 1 0, 0, addr, 0, 0, 0, 0, 0])
        | .ok w t =>
          if flag w 8 && !x.open_.isEmpty then .next s
          else
            match t.advanceHead q with
            | .ok _ u => runCommand q (commandOf w) u
            | .wait u => .next u
            | .fail _ _ _ u => .next u

/-- The queue whose command an instruction is. -/
def commandQueue : Instr → Option Nat
  | .nopCommand q _ | .launchCommand q _ | .uploadCommand q _ | .triggerCommand q _ | .signalCommand q _ | .waitCommand q _
  | .timerArm q _ | .timerOff q _ | .collectiveCommand q _ | .msgSend q _ | .msgRecv q _ | .unknownQueueOpcode q _ => some q
  | _ => none

/-- Whether an instruction is a request of the firmware mailbox (R419, R420, R422). -/
def isMailbox : Instr → Bool
  | .ctxInstall _ _ | .ctxRemove _ _ | .invalidate _ _ _ _ | .arrayClear _ _ _ | .arrayRetire _ _ _ | .healthRead _ _ _
  | .bankRepair _ _ _ | .trailRead _ _ _ _ | .saveMove _ _ _ | .watchdogAct _ _ _ | .fwUpdate _ _ _ | .sampleStart _ _ _ _ _ _ _
  | .grant _ _ | .revoke _ _ | .dbgHalt _ _ | .dbgResume _ _ | .dbgRead _ _ _ _ | .dbgWrite _ _ _ _ | .dbgCommit _ _
  | .dbgMatch _ _ _ _ _ | .dbgStopAtRecording _ _ _ | .dbgStopAt _ _ _ _ _ | .dbgBack _ _ | .unknownMailboxCommand _ _ => true
  | _ => false

/-- Whether a mailbox request cannot be performed yet (R419): an earlier one still waits for its calibration (R413), or the accesses
that an INVALIDATE waits for have not completed (R376). -/
def State.mailHeld (s : State) (i : Instr) : Bool :=
  !s.clearing.isEmpty || (match i with
    | .invalidate _ ctx _ _ => (Tab.get? s.contexts ctx).isSome && s.holdsStores ctx
    | _ => false)

/-- An event, or a request from outside, comes about. A command comes from its queue's ring alone, and a word of a stream
from its agent's fetch alone: as events they do nothing. A mailbox request waits for those before it (R419). -/
def eventTurn (i : Instr) (s : State) : Host.Outcome State Fault Refusal :=
  if (commandQueue i).isSome then .next s
  else if isMailbox i && (!s.mailWaiting.isEmpty || s.mailHeld i) then .next { s with mailWaiting := s.mailWaiting ++ [i] }
  else
    match exec i { s with focus := .idle } with
    | .fault .noAgent => .next s
    | o => o

/-! ### A word placed for the next step -/

/-- The packet of the block that `placeBlock` gives a word to run in: one caravan with every resource of a core. -/
def stagePacket : Packet :=
  { packetOf 0 with entry := 0x10000, lcodeBase := 0x10000, regs8 := 32, stack := 16, stackBase := 0x40000, scratch := 128,
                    acc := 64, ob := 64, dune := true }

/-- A block of context 0 with one caravan in slot 0 of core 0, as a launch places one, its code page cached (R236). -/
def State.placeBlock (s : State) : State :=
  let g := Group.start 1 0
  let half : Half := { core := 0, slots := [0], scratch := ⟨.free 0, []⟩, scratchPoison := 0, pool := 0, claims := [] }
  let b : Block := { launch := 0, ctx := 0, bid := 0, pk := stagePacket, halves := [half], groups := [g], barriers := [],
                     live := 1, faulted := none, record := none }
  let page : Translation := { ctx := 0, size := 65536, base := 0x10000, readable := true, writable := true, executable := true,
                              package := none, localDie := none }
  let ctx : Context := { vector := 0, flog := 0, free := 0, save := 0, root := 0, modes := 0, logN := 4, debug := false,
                         fired := false, waiting := [] }
  let core : Core := { s.core 0 with tlb := Tab.set (s.core 0).tlb 1 page, scode := [], lcode := [] }
  { s with blocks := Tab.set s.blocks 0 b, contexts := Tab.set s.contexts 0 ctx, cores := Tab.set s.cores 0 core,
           caravans := Tab.set s.caravans 0 (Caravan.start 0 1 0 0 0 0 0 0 stagePacket 0 (.free 0) (0, 0)) }

/-- Bytes placed in the home memory. -/
def placeBytes (m : List Host.Cell) (a : Nat) : List Byte → List Host.Cell
  | [] => m
  | b :: bs => placeBytes (memWrite m a b) (a + 1) bs

/-- A scalar word placed where the path of that caravan fetches it next. -/
def State.placeScalar (s : State) (w : Nat) : State :=
  { s.placeBlock with mem := placeBytes s.mem 0x10000 (leBytes 4 w), agenda := [.path 0 0 0] }

/-- A lane word placed where a burst of that path fetches it next. -/
def State.placeLane (s : State) (w : Nat) : State :=
  let e : LaneEntry := { rep := 0, len := 0, start := 0x10000, lrun := 0 }
  let t := s.placeBlock.modPath 0 0 (fun x => { x with laneq := [e], burst := some (Burst.start e) })
  { t with mem := placeBytes s.mem 0x10000 (leBytes 12 w), agenda := [.lane 0 0 0] }

/-- A front-end word placed at the pc of core 0 of die (0, 0)'s front end, which runs firmware. -/
def State.placeFront (s : State) (w : Nat) : State :=
  let t := s.modHart 0 0 (fun x => { x with machineMode := true, dispatch := none, waiting := false })
  { t.modDie 0 (fun d => d.localWrite (d.hart 0).pc.toNat (leBytes 4 w)) with agenda := [.hart 0 0] }

end Sys2Proof.Machine
end

