-- ==== Sys2Proof/Machine/Schedule.lean ====
section
/-!
DEFINITION. What a turn does, the issue of work in a quadrant, and the local cycle of a die (R6, R207, R209, R239, R243 to R247,
R283, R324, R338, R355, R396, R419, R426).
-/

/-- What happens next where nothing is known to: the n-th choice of an agent, an event or a request (DESIGN CHOICE, log entry 8). -/
opaque Sys2Proof.Config.schedule : Nat → Sys2Proof.Machine.Turn

namespace Sys2Proof.Machine

/-! ### The scalar slot of a quadrant -/

/-- The scalar registers that an instruction cannot issue without, its sources first (R88). -/
def waitRegs (i : Instr) : List Nat :=
  let r := ruleOf i
  let payload : List Nat := match i with
    | .remit _ a _ | .remitW a _ | .remitj _ a _ => (List.range 32).map (fun k => a.toNat + k)
    | _ => []
  let dest : List Nat := (r.dest.map BitVec.toNat).toList
  (r.regs.map BitVec.toNat).filter (fun k => !dest.contains k) ++ payload ++ (if r.hidden then [61, 63] else []) ++ dest

/-- The register that a scalar load writes (R88). -/
def loadDest : Instr → Option Nat
  | .ld d _ _ _ | .ldacq d _ _ _ _ => some d.toNat
  | _ => none

/-- The instruction that the path in focus executes next, where its word can be fetched now. -/
def State.nextInstr (s : State) (m : Me) : Option Instr :=
  match (fetchScalar m.path.spc).run s with
  | .ok w _ => (match decodeScalar w with
      | .ok i => some i
      | .error _ => none)
  | .error _ _ => none

/-- A path's part in a local cycle before its quadrant's pick (R243, R245): whether its next scalar word can issue, and the state
after what stands between instructions, or with the wait that it is in. A word that needs a register with a pending write waits
for it, and blames the load that writes it (R88, R246). -/
def State.tryPath (s : State) (core slot p : Nat) : Bool × State :=
  let s0 : State := { s with focus := .path core slot p }
  match s0.me? with
  | none => (false, s)
  | some m =>
    match s0.between m with
    | some t => (false, t)
    | none =>
      let now := (s.die (coreDie core)).cyc
      let board := m.path.board.filter (fun b => now < b.2.1)
      let s1 := s0.modPath m.key p (fun x => { x with board := board, blamed := none })
      let held := if board.isEmpty then none
        else (s1.nextInstr m).bind (fun i => (waitRegs i).findSome? (fun r => Tab.get? board r))
      match held with
      | some b => (false, (s1.waits m .data).modPath m.key p (fun x => { x with blamed := some b.2 }))
      | none =>
        match pathTurn core slot p s1 with
        | .next t => (match t.pathAt core slot p with
            | some y => if y.stall.isSome && y.pending.isNone then (false, t) else (true, s1)
            | none => (true, s1))
        | _ => (true, s1)

/-- The paths of a quadrant tried in their order: the candidates for its scalar slot (R243). -/
def State.tryPaths (s : State) (core : Nat) : List (Nat × Nat) → List (Nat × Nat) × State
  | [] => ([], s)
  | x :: r =>
    let (can, t) := s.tryPath core x.1 x.2
    let (xs, u) := State.tryPaths t core r
    (if can then x :: xs else xs, u)

/-- A load that issues: the register that it writes is pending for as long as the machine chooses (R88, R246). -/
def State.markLoad (s : State) (core slot p : Nat) : State :=
  let s0 : State := { s with focus := .path core slot p }
  match s0.me? with
  | none => s
  | some m =>
    match (s0.nextInstr m).bind loadDest with
    | none => s
    | some d =>
      let (v, t) := s.choose
      t.modPath m.key p (fun x =>
        { x with board := Tab.set x.board d ((s.die (coreDie core)).cyc + 1 + v % 1024, scalarPc m.path.spc) })

/-- The pick of a quadrant's scalar slot in a local cycle (R243 to R245): the oldest candidate whose pass count has reached 64, else
the oldest. The others that could issue have reason 10, and their counts rise; the count of a path that is no candidate is
zero. -/
def State.pickScalar (s : State) (core quad : Nat) : Option (Nat × Nat) × State :=
  let all := s.quadPaths core quad
  let (cands, t) := s.tryPaths core all
  let pick := pickOldest (fun x => ((t.pathAt core x.1 x.2).map Path.passes).getD 0) cands
  let mark (u : State) (x : Nat × Nat) : State := u.modPath (carKey core x.1) x.2 (fun y =>
    if !cands.contains x || pick = some x then { y with passes := 0 } else { y with passes := y.passes + 1, stall := some .busy })
  let u := all.foldl mark t
  (pick, match pick with
    | some x => u.markLoad core x.1 x.2
    | none => u)

/-- The quadrants of a die that hold caravans, 4 × core + quadrant, in ascending order. -/
def State.busyQuads (s : State) (die : Nat) : List Nat :=
  ((s.caravans.map (fun c => c.1 / 16)).eraseDups).filter (fun n => coreDie (n / 4) = die)

/-- The picks of the scalar slots of a die, in ascending order of core and quadrant. -/
def State.pickAll (s : State) : List Nat → List (Nat × Nat × Nat) × State
  | [] => ([], s)
  | n :: r =>
    let (x, t) := s.pickScalar (n / 4) (n % 4)
    let (xs, u) := State.pickAll t r
    ((match x with
      | some y => (n / 4, y.1, y.2) :: xs
      | none => xs), u)

/-- Whether a path is about to free records: such events go before those that allocate (R328). -/
def State.frees (s : State) (x : Nat × Nat × Nat) : Bool :=
  let s0 : State := { s with focus := .path x.1 x.2.1 x.2.2 }
  match s0.me? with
  | none => false
  | some m => s0.nextInstr m = some .rdone

/-! ### The lane slot of a quadrant -/

/-- What the lane slot of a quadrant does in a local cycle (R74, R121, R243): the burst that holds it issues its next word or
commits, or the burst of its pick starts. -/
def State.laneTurnOf (s : State) (core quad : Nat) : List Turn :=
  let running := (s.quadPaths core quad).findSome? (fun x =>
    ((s.pathAt core x.1 x.2).bind Path.burst).map (fun b => (x, b.issued)))
  match running with
  | some ((slot, p), issued) => [if issued then .event (.burstCommit core slot p) else .lane core slot p]
  | none =>
    match s.lanePick core quad with
    | some (slot, p) => [.event (.burstStart core slot p)]
    | none => []

/-- The traps of a quadrant that can be delivered (R377). -/
def State.deliveries (s : State) (core quad : Nat) : List Turn :=
  (s.quadPaths core quad).filterMap (fun x =>
    match s.pathAt core x.1 x.2 with
    | some y => if y.pending.isSome && y.drained then some (.event (.trapDelivery core x.1 x.2)) else none
    | none => none)

/-! ### The local cycle of a die -/

/-- A cycle counted on the cores of a die whose matrix queue waits for the allowance alone (R207). -/
def State.countHeld (s : State) (die : Nat) : State :=
  let held := (s.cores.map Prod.fst).filter (fun n => coreDie n = die && s.heldForPower n)
  held.foldl (fun t n => t.modMatrix n (fun m => { m with counters := Tab.set m.counters 2 (Tab.getD m.counters 2 0 + 1) })) s

/-- A cycle counted by the horizon waits of the arrays of a die (R283). -/
def State.countWaits (s : State) (die : Nat) : State :=
  let wait (d : Dune) : Dune :=
    match d.sweep with
    | some w => if w.waiting then { d with waitCount := d.waitCount + 1 } else d
    | none => d
  { s with cores := s.cores.map (fun c => if coreDie c.1 = die then (c.1, { c.2 with dune := wait c.2.dune }) else c) }

/-- The package power that `pwr_sts` shows (R330). -/
def State.readPower (s : State) : State :=
  let mw := Config.powerReading (s.die 0).cyc % 2 ^ 16
  { s with bar := { s.bar with pwrSts := BitVec.ofNat 64 (s.bar.pwrSts.toNat / 2 ^ 16 * 2 ^ 16 + mw) } }

/-- What the agents of a die that act once in a local cycle have to do: its distributor (R239), the launcher (R324), the timer wheel
(R355), the sampling of its cores (R426). -/
def State.agentTurns (s : State) (die : Nat) : List Turn :=
  let d := s.die die
  let samples := (s.cores.filter (fun c => coreDie c.1 = die && (match c.2.sampling with
    | some x => d.cyc % 2 ^ x.n = 0
    | none => false))).map Prod.fst
  (if d.pending.isEmpty then [] else [Turn.event (.distributorTurn die)])
    ++ (if s.graphs.any (fun g => g.2.run.isSome) then [.event (.launcherCycle die)] else [])
    ++ (if d.firstDue.isSome then [.event (.timerFire die)] else [])
    ++ samples.flatMap (fun n => (List.range 4).map (fun q => .sample n q))

/-- The issue of work in a local cycle of a die (R243 to R247): the turns that it consists of. -/
def State.issueCycle (s : State) (die : Nat) : List Turn × State :=
  let quads := s.busyQuads die
  let (picks, t) := s.pickAll quads
  let turn (x : Nat × Nat × Nat) : Turn := .path x.1 x.2.1 x.2.2
  let first := picks.filter t.frees
  let then_ := picks.filter (fun x => !first.contains x)
  (first.map turn ++ then_.map turn ++ quads.flatMap (fun n => t.laneTurnOf (n / 4) (n % 4))
    ++ quads.flatMap (fun n => t.deliveries (n / 4) (n % 4)) ++ t.agentTurns die, { t with focus := s.focus })

/-- The oldest of the mailbox requests that wait, performed once none is in progress (R419). -/
def State.serveMail (s : State) : State :=
  match s.mailWaiting with
  | [] => s
  | i :: r =>
    if s.mailHeld i then s
    else
      match exec i { s with mailWaiting := r, focus := .idle } with
      | .next t => t
      | _ => { s with mailWaiting := r }

/-- A local cycle of a die (R6): its clock, the allowance (R209), the counters of waits (R207, R283, R396), the mapping
interval (R338), the ends of scrub passes (R406), firmware's care of arrays (R413), what has been waiting for room, for a
partner, for a front-end core or in the mailbox (R344, R363, R364, R385, R419), and the issue of work in it, which the agenda takes. -/
def State.tick (s : State) (die : Nat) : State :=
  let gain := s.allowanceGain die
  let s1 := (s.countHeld die).countWaits die
  let s2 := s1.modDie die (fun d =>
    { d with cyc := d.cyc + 1, allowance := min Config.capacity (d.allowance + gain), interval := d.interval + 1 })
  let s3 := ((s2.watchStep die).endScrubs die).firmwareHealth die
  let s4 := (s3.contexts.map Prod.fst).foldl State.flushLog s3
  let s5 := (((s4.matchMessages 257).progressCollectives).nextPrologue die).serveMail
  let s6 := if die = 0 then s5.readPower else s5
  let (turns, s7) := s6.issueCycle die
  { s7 with agenda := s7.agenda ++ turns }

/-! ### Turns -/

/-- Whether an event ends the stop of a package at its critical temperature (R366, R415). -/
def isReset : Instr → Bool
  | .warmReset | .functionLevelReset | .coldReset => true
  | .registerWrite offset value => offset = 0x40 && value.toNat / 2 % 2 = 1
  | _ => false

/-- What a turn does. Of a stopped package only a reset does anything (R366). -/
def runTurn (t : Turn) (s : State) : Host.Outcome State Fault Refusal :=
  if s.stopped && (match t with
    | .event i => !isReset i
    | _ => true) then .next s
  else
    match t with
    | .path core slot p => pathTurn core slot p s
    | .lane core slot p => laneTurn core slot p s
    | .hart die h => hartTurn die h s
    | .queue q => queueTurn q s
    | .event i => eventTurn i s
    | .tick die => .next (if die < 4 then s.tick die else s)
    | .storeDrain core slot p => .next (s.performOldest (carKey core slot) p)
    | .copyProgress core id => .next (s.copyProgress core id)
    | .storageError row core index => .next (s.storageError row core index)
    | .sample core quad => execSampleTick core quad s
    | .netinSetting x => .next (s.modNetin (fun n => n.setting x))

/-- The die whose local cycles give a turn (R239, R243, R324, R355, R426), where they do. -/
def Turn.cycleDie : Turn → Option Nat
  | .path core _ _ | .lane core _ _ => some (coreDie core)
  | .event (.burstStart core _ _) | .event (.burstCommit core _ _) | .event (.trapDelivery core _ _)
  | .event (.sampleTick core _) | .sample core _ => some (coreDie core)
  | .event (.distributorTurn die) | .event (.launcherCycle die) | .event (.timerFire die) => some die
  | _ => none

/-- The next turn: the head of the agenda, or the machine's choice. What a die does once in a local cycle is never chosen so: a
local cycle of the die passes instead, and gives its turns (R243 to R247). -/
def State.takeTurn (s : State) : Turn × State :=
  match s.agenda with
  | t :: r => (t, { s with agenda := r })
  | [] =>
    let t := Config.schedule s.sched
    (match t.cycleDie with
      | some die => .tick die
      | none => t, { s with sched := s.sched + 1 })

/-- The outcome of a step whose home writes have reached the memory that it began with (DESIGN CHOICE, log entry 31). -/
def settled (mem : List Host.Cell) : Host.Outcome State Fault Refusal → Host.Outcome State Fault Refusal
  | .next t => .next { t with mem := applyWrites t.writes mem, writes := [] }
  | .fault f => .fault f
  | .refused r => .refused r

end Sys2Proof.Machine
end

