-- ==== Sys2Proof/Machine/Step.lean ====
section
/-!
DEFINITION. The step of the machine, and a word placed so that the next step executes it.
-/

namespace Sys2Proof.Machine

/-- One step: the next turn is taken, and the home writes that it made reach the memory. -/
def step (s : State) : Host.Outcome State Fault Refusal := settled s.mem (runTurn s.takeTurn.1 s.takeTurn.2)

/-- The state with an instruction word placed where the next step fetches and executes it, in a block of one caravan, or on a
front-end core: it stands for the launch, or the firmware, that brings the word there (DESIGN CHOICE, log entry 15). -/
def State.withFetchWord (s : State) (nbits w : Nat) : State :=
  if nbits ≤ 32 then
    let v := leNat (leBytes 4 w)
    if isFrontWord v then s.placeFront v else s.placeScalar v
  else s.placeLane (leNat (leBytes 12 w))

end Sys2Proof.Machine
end

