-- ==== Sys2Proof/Safety.lean ====
section
/-!
DEFINITION. What every state of a run keeps, what a run does not do, and the terms in which the claims speak of the
path that executes.
-/

namespace Sys2Proof.Machine

/-- The invariant of every step: the home memory is in canonical form, and no home write is left over from a step (R252,
DEDUCED, log entries 30 and 31). -/
structure State.Inv (s : State) : Prop where
  mem : memWf s.mem = true
  writes : s.writes = []

/-- A step that stops neither by a fault nor by a refusal. -/
def stepsOn (s : State) : Prop := ∃ t, step s = .next t

/-! ### A path that executes a scalar instruction -/

/-- Whether the handler that runs on the path, if any, may execute an instruction (R425). -/
def Me.handlerAllows (m : Me) (i : Instr) : Bool :=
  match m.path.handler with
  | none => true
  | some h =>
    !((ruleOf i).excluded || (ruleOf i).waits || h.count ≥ 64 || (match (ruleOf i).dest with
      | some d => 16 ≤ d.toNat
      | none => false))

/-- Whether the capsule body that the caravan is in, if any, may execute an instruction (R119, R182). -/
def Me.bodyAllows (m : Me) (i : Instr) : Bool :=
  match m.car.capsule with
  | none => true
  | some c =>
    c.count < 16 && !(i = .capstep ∧ c.step ≥ 15)
      && !((ruleOf i).hidden || (ruleOf i).waits || (ruleOf i).regs.any (fun d => 16 ≤ d.toNat)) && !(ruleOf i).writes

/-- The path in focus executes an instruction: its caravan is neither halted nor saved, no trap is pending, no precise
stop holds it, and the fields of the instruction and its place admit it (R73, R86, R377, R388, R422, R427). -/
structure State.Runs (s : State) (m : Me) (i : Instr) : Prop where
  path : s.me? = some m
  halted : m.car.halted = false
  saved : m.car.savePoint = none
  pending : m.path.pending = none
  goal : s.goalReached m.key 1 = false
  legal : i.check = none
  handler : m.handlerAllows i = true
  body : m.bodyAllows i = true

/-- The caravan with a scalar register written; a write to `s0` is discarded, and a handler writes its shadow of `s1` to
`s15` (R38, R425). -/
def Me.written (m : Me) (d : BitVec 6) (v : Word) : Caravan :=
  if m.path.handler.isSome ∧ 1 ≤ d.toNat ∧ d.toNat ≤ 15 then { m.car with shadow := Tab.set m.car.shadow d.toNat v }
  else m.car.setSreg d.toNat v

/-- The path after an instruction: SPC at the target, no stall, and one more instruction counted in a handler (R425). -/
def Me.moved (m : Me) (target : Word) : Path :=
  { m.path with spc := target, stall := none, token := none, awaiting := none, matchDone := false,
                handler := m.path.handler.map (fun h => { h with count := h.count + 1 }) }

/-- The path after an instruction that goes on in sequence. -/
def Me.next (m : Me) : Path := m.moved (m.path.spc + 4)

/-- The caravan with an instruction counted: in `wkcnt`, unless a handler executed it (R427), and in the step of a capsule
body (R182). -/
def Me.counted (m : Me) (i : Instr) (c : Caravan) : Caravan :=
  { c with wkcnt := if m.path.handler.isSome then c.wkcnt else c.wkcnt + 1,
           capsule := c.capsule.map (fun r =>
             { r with count := if m.car.capsule.isSome && i ≠ .capstep then r.count + 1 else r.count }) }

/-- THE STATE AFTER AN INSTRUCTION that changed only its caravan, to `c`, and its path, to `x`: everything else is as before,
the answered reads of the path excepted (R362). -/
def State.after (s : State) (m : Me) (i : Instr) (c : Caravan) (x : Path) : State :=
  { s.dropReads m.key m.p with
    caravans := Tab.set s.caravans m.key { m.counted i c with paths := Tab.set c.paths m.p x } }

/-- An instruction that runs completes, its one effect a value in a scalar register: nothing else changes (`State.after`). -/
def Gives (s : State) (m : Me) (i : Instr) (d : BitVec 6) (v : Word) : Prop :=
  s.Runs m i → exec i s = .next (s.after m i (m.written d v) m.next)

/-- The condition of a code of R91 between two words; none for the reserved codes. -/
def holdsCode : Nat → Word → Word → Option Bool
  | 0, x, y => some (x == y)
  | 1, x, y => some (x != y)
  | 2, x, y => some (x.slt y)
  | 3, x, y => some (y.sle x)
  | 4, x, y => some (x.ult y)
  | 5, x, y => some (y.ule x)
  | 6, x, y => some (x.sle y)
  | 7, x, y => some (y.slt x)
  | 8, x, y => some (x.ule y)
  | 9, x, y => some (y.ult x)
  | _, _, _ => none

/-- The `n` bytes of code at an address lie in one page that the core of the path has cached as executable memory of this
package, are not poisoned, and are the little-endian number `w`; where they straddle two sectors, no core holds a store to them that
is not at its home. -/
structure State.CodeAt (s : State) (m : Me) (va : Word) (n w : Nat) (t : Translation) : Prop where
  canonical : canonical va = true
  cached : Tab.get? (s.core m.core).tlb (pageOf va) = some t
  mine : t.ctx = m.blk.ctx
  executable : t.executable = true
  package : t.package = none
  whole : va.toNat % 65536 + n ≤ 65536
  clean : s.poisoned (physical t va) n = false
  pushed : va.toNat % 64 + n ≤ 64 ∨ ∀ i < n, s.unpushed (physical t (va + BitVec.ofNat 64 i)) = none
  bytes : s.homeNat (physical t va) n = w

/-- The key of a word in a code cache of R75. -/
def codeKey (m : Me) (t : Translation) (va : Word) : Nat := physical t va * 4 + slotQuad m.slot

/-- The state with a word that a fetch has read in a code cache, which had room for it or made some (R1, R75). -/
def State.cachedWord (s : State) (m : Me) (x : CodeCache) (key w : Nat) : State :=
  ({ s with free := s.free + 1 } : State).modCore m.core (fun c =>
    x.put (x.room c (slotQuad m.slot) (Config.choice s.free)) key w)

/-- The state as a turn finds it: the turn taken from the agenda, its agent in focus. -/
def State.turned (s : State) (rest : List Turn) (focus : Agent) : State := { s with agenda := rest, focus := focus }

/-- An instruction is the row of a command of a queue, by the opcode in bits 7:0 of its word 0 (R336). -/
def isCommand (q : Nat) (c : Command) (i : Instr) : Prop :=
  match c.w0.toNat % 256 with
  | 0 => i = .nopCommand q c
  | 1 => i = .launchCommand q c
  | 2 => i = .uploadCommand q c
  | 3 => i = .triggerCommand q c
  | 4 => i = .signalCommand q c
  | 5 => i = .waitCommand q c
  | 6 => i = .timerArm q c
  | 7 => i = .timerOff q c
  | 8 => i = .collectiveCommand q c
  | 9 => i = .msgSend q c
  | 10 => i = .msgRecv q c
  | _ => i = .unknownQueueOpcode q c

/-- An instruction that runs completes: it takes the state to `u`, and the scalar stream goes on in sequence. -/
def Completes (s : State) (m : Me) (i : Instr) (u : State) : Prop :=
  s.Runs m i → exec i s = .next (u.retire m i (m.path.spc + 4))

/-- An instruction that runs completes: it takes the state to `u`, and the scalar stream goes on at a target. -/
def Jumps (s : State) (m : Me) (i : Instr) (u : State) (target : Word) : Prop :=
  s.Runs m i → exec i s = .next (u.retire m i target)

/-- An instruction that runs raises a fault, with none of its effects (`State.keep` keeps only what drew numbers). -/
def Traps (s : State) (m : Me) (i : Instr) (code cause : Nat) (addr : Word) : Prop :=
  s.Runs m i → exec i s = .next ((s.keep s m).raiseTrap m.key m.p (m.trap code cause addr))

/-- An instruction that runs waits with a stall reason of R245: nothing else changes, and it issues again at its next turn. -/
def Stalls (s : State) (m : Me) (i : Instr) (r : Stall) : Prop := s.Runs m i → exec i s = .next (s.waits m r)

/-- Everything of a state but one of its caravans and Netin is as before. -/
def State.onlyCaravan (s t : State) (key : Nat) : Prop :=
  t = { s with caravans := t.caravans, netin := t.netin } ∧ (∀ k, k ≠ key → t.caravan? k = s.caravan? k)

/-- `n` bytes at an address that the path in focus may access in one way: aligned to `n`, translated by the core's cached
translation to this package's memory, in no other caravan's stack area, no fence of the path holding the access back. -/
structure State.Maps (s : State) (m : Me) (va : Word) (n : Nat) (k : Access) (t : Translation) : Prop where
  aligned : va.toNat % n = 0
  canonical : canonical va = true
  cached : Tab.get? (s.core m.core).tlb (pageOf va) = some t
  mine : t.ctx = m.blk.ctx
  permitted : permission t k = none
  package : t.package = none
  based : t.base % 65536 = 0
  stranger : s.stackOwner m.blk.ctx m.key va.toNat = none
  gate : m.path.fences = []

/-- The L1 of a core has room for the line of an address: it holds the line, or fewer than the 256 of its 128 KiB (R1). -/
def State.roomFor (s : State) (core a : Nat) : Prop :=
  a / 64 / 8 ∈ (s.core core).l1Lines ∨ (s.core core).l1Lines.length < 256

/-- Such bytes, to be read: not freed by the block, not of the context's save area, without `.det` updates in progress and without
poison; the L1 has room for them, and no re-execution is followed. -/
structure State.Reach (s : State) (m : Me) (va : Word) (n : Nat) (t : Translation) : Prop where
  maps : s.Maps m va n .read t
  freed : m.blk.hasFreed va.toNat n = false
  unsaved : ∀ c, Tab.get? s.contexts m.blk.ctx = some c → c.saves (physical t va) n = false
  room : s.roomFor m.core (physical t va)
  settled : ∀ i < n, s.unsettled (physical t va + i) = false
  clean : s.l1Poisoned m.core (physical t va) n = false ∧ s.poisoned (physical t va) n = false
  replay : s.monitor.replay = none

/-- Byte i of an access of the path in focus at an address (R51, R95, R144, R182): the capsule step's buffer, the caravan's
own stack, the youngest store of the path's queue, the L1, the home. -/
def State.seenByte (s : State) (m : Me) (t : Translation) (va : Word) (i : Nat) : Byte :=
  ((m.car.capsule.bind (fun r => Tab.get? r.buffer (physical t va + i))).or
    ((if inStack m.car m.blk.stackBytes (va.toNat + i) 1 then Tab.get? m.car.stack (va.toNat + i) else none).or
      (forward m.path.storeq .mem (physical t va + i)))).getD (s.l1Byte m.core (physical t va + i))

/-- The store queue of a path with a store of the scalar stream behind those before it: ahead of the releases that wait for
bursts where no burst is left (R257). -/
def Path.queued (x : Path) (e : StoreEntry) : List StoreEntry :=
  if x.laneq.length = 0 then readyStores x.storeq ++ [e] ++ waitingStores x.storeq else x.storeq ++ [e]

/-- A record of so many bytes, which the spec lays out no further, put into the stack memory below `s61` and the records there
(R50, R102). -/
def State.recordPut (s : State) (m : Me) (bytes : Nat) : Put :=
  ({ s with free := s.free + 1 } : State).putBytes m.key (m.car.sreg 61 - BitVec.ofNat 64 (m.car.recordBytes + bytes))
    ((List.range bytes).map (fun i => BitVec.ofNat 8 (Config.freeNat s.free i)))

/-- The little-endian number of `n` bytes of an access. -/
def State.seen (s : State) (m : Me) (t : Translation) (va : Word) (n : Nat) : Nat :=
  leNat ((List.range n).map (s.seenByte m t va))

/-- The two states hold the same bytes of home memory, and a core's view of every byte that is defined is the same. -/
def State.sameMemory (s t : State) : Prop :=
  t.mem = s.mem ∧ t.writes = s.writes ∧ t.poison = s.poison
    ∧ ∀ c a, s.unsettled a = false → a < hbmBytes → t.l1Byte c a = s.l1Byte c a

/-- The lanes of a path that execute (R41). -/
def Me.lanesOn (m : Me) : Mask := m.path.em &&& ~~~ m.car.xm

/-- A predicate, or its complement, as a field of a word asks for. -/
def Me.chosen (m : Me) (p : BitVec 3) (n : BitVec 1) : Mask := if n = 1 then ~~~ m.car.pred p.toNat else m.car.pred p.toNat

/-- The caravan of the path in focus with a scalar register written, in the state. -/
def State.wrote (s : State) (m : Me) (d : BitVec 6) (v : Word) : State := s.setCaravan m.key (m.written d v)

/-- Scalar register n of a caravan of a state holds a value; `s0` reads as zero. -/
def State.holds (s : State) (key : Nat) (n : BitVec 6) (v : Word) : Prop :=
  ∃ c, s.caravan? key = some c ∧ c.sreg n.toNat = if n = 0 then 0 else v

/-- The path in focus has gone on to an address, its caravan having counted one more instruction. -/
def State.wentOn (s u : State) (m : Me) (spc : Word) : Prop :=
  ∃ c x, u.caravan? m.key = some c ∧ Tab.get? c.paths m.p = some x ∧ x.spc = spc ∧ x.stall = none
    ∧ c.wkcnt = (if m.path.handler.isSome then m.car.wkcnt else m.car.wkcnt + 1) ∧ u.focus = s.focus

/-- The path in focus stands where it stood, with a stall reason. -/
def State.stood (u : State) (m : Me) (r : Stall) : Prop :=
  ∃ c x, u.caravan? m.key = some c ∧ Tab.get? c.paths m.p = some x ∧ x.spc = m.path.spc ∧ x.stall = some r
    ∧ c.wkcnt = m.car.wkcnt

/-- A truth value as a bit. -/
def bit (b : Bool) : Nat := if b then 1 else 0

/-- The little-endian number of a range as a core sees it at its homes: its own dirty bytes, and the homes' bytes elsewhere. -/
def State.upToDate (s : State) (core a : Nat) : Byte :=
  match Tab.get? (s.core core).l1 (a / 64) with
  | some l => if l.dirty.getLsbD (a % 64) then sectorByte l.data (a % 64) else s.rawByte a
  | none => s.rawByte a

/-- No dirty sector is left in the L1 of a core, and what was dirty in `v` is at its home in `u`; a capsule cell that it was stored
to is undefined (R176). -/
def State.flushed (v u : State) (core : Nat) : Prop :=
  (∀ k l, Tab.get? (u.core core).l1 k = some l → l.dirty = 0)
    ∧ ∀ a, a < hbmBytes → v.cellsIn a 1 = [] → u.rawByte a = v.upToDate core a

/-- No copy that a core fetched before stays valid: its L1 holds dirty bytes alone (R265). -/
def State.dropped (u : State) (core : Nat) : Prop := ∀ k l, Tab.get? (u.core core).l1 k = some l → l.valid = l.dirty

/-- A range of home memory has no `.det` updates in progress and no poison. -/
def State.quiet (s : State) (a n : Nat) : Prop := (∀ i < n, s.unsettled (a + i) = false) ∧ s.poisoned a n = false

/-- A copy record in memory, as its 32 bytes are read (R165). -/
structure CopyRecord where
  len0 : Nat
  n1 : Nat
  n2 : Nat
  words : Nat → Nat

/-- The counts of a record are in their limits (R165). -/
def CopyRecord.inLimits (r : CopyRecord) : Prop :=
  1 ≤ r.len0 ∧ r.len0 ≤ 2 ^ 24 ∧ 1 ≤ r.n1 ∧ r.n1 ≤ 2 ^ 16 ∧ 1 ≤ r.n2 ∧ r.n2 ≤ 2 ^ 16 ∧ r.len0 * r.n1 * r.n2 ≤ 2 ^ 32

/-- A path reads the record at an address: its words are the 32-bit fields of the 32 bytes (R165). -/
def State.readsRecord (s : State) (m : Me) (va : Word) (t : Translation) (r : CopyRecord) : Prop :=
  s.Reach m va 32 t ∧ ∀ k < 8, r.words k = s.seen m t va 32 / 2 ^ (32 * k) % 2 ^ 32

/-- A signed word of a record. -/
def CopyRecord.stride (r : CopyRecord) (k : Nat) : Int := (BitVec.ofNat 32 (r.words k)).toInt

/-- Where an end of a copy lies (R164, R166): memory at the address, or the scratchpad of a half of the block at the offset in
bits 18:0, with its whole extent inside the block's scratchpad. -/
def Me.placed (m : Me) (v : Word) (scratch : Bool) (r : CopyRecord) (s1 s2 : Int) (at_ : Place) (o : Nat) : Prop :=
  if scratch then
    v.toNat < 2 ^ 20 ∧ (v.toNat / 2 ^ 19 = 1 → 1 < m.blk.halves.length) ∧ o = v.toNat % 2 ^ 19
      ∧ at_ = .scratch m.car.block (if v.toNat / 2 ^ 19 = 1 then 1 - m.car.half else m.car.half)
      ∧ (0 : Int) ≤ o + min 0 (((r.n1 : Int) - 1) * s1) + min 0 (((r.n2 : Int) - 1) * s2)
      ∧ (o : Int) + max 0 (((r.n1 : Int) - 1) * s1) + max 0 (((r.n2 : Int) - 1) * s2) + r.len0 ≤ 4096 * m.blk.pk.scratch
  else at_ = .mem ∧ o = v.toNat

/-- The copy operation that a path issues. -/
def Me.issues (m : Me) (order : Nat) (o : CopyOp) : Prop :=
  o.order = order ∧ o.issuer = m.key ∧ o.caravan = m.car.uid ∧ o.block = m.car.block ∧ o.ctx = m.blk.ctx ∧ o.failed = none
    ∧ o.done = false

/-- The counts and places of a copy operation. -/
def CopyOp.moves (o : CopyOp) (r : CopyRecord) (srcPlace dstPlace : Place) (src dst : Nat) (srcS1 srcS2 dstS1 dstS2 : Int) : Prop :=
  o.len0 = r.len0 ∧ o.n1 = r.n1 ∧ o.n2 = r.n2 ∧ o.srcPlace = srcPlace ∧ o.dstPlace = dstPlace ∧ o.src = src ∧ o.dst = dst
    ∧ o.srcS1 = srcS1 ∧ o.srcS2 = srcS2 ∧ o.dstS1 = dstS1 ∧ o.dstS2 = dstS2

/-- The bytes that a code of 64-byte units names; 0 names 8,192 units (R171). -/
def tileBytes (code : Nat) : Nat := 64 * (if code = 0 then 8192 else code)

/-- A cell of 512 bytes that a path reaches at an address: aligned, translated, in this package, quiet,
none of it in the core's L1 or in a release record (R177, R180). -/
structure State.Cell (s : State) (m : Me) (va : Word) (cell : Nat) : Prop where
  aligned : va.toNat % 512 = 0
  canonical : canonical va = true
  cached : ∃ t, Tab.get? (s.core m.core).tlb (pageOf va) = some t ∧ t.ctx = m.blk.ctx ∧ t.readable = true
    ∧ t.base % 65536 = 0 ∧ t.package = none ∧ t.localDie = none ∧ cell = physical t va
  quiet : s.quiet cell 512
  home : ∀ k < 8, Tab.get? (s.core m.core).l1 (cell / 64 + k) = none
  stores : m.path.storeq = []
  unreleased : ∀ r ∈ s.releases, ¬ (r.1 < cell + 512 ∧ cell < r.1 + r.2.size)
  gate : m.path.fences = []
  replay : s.monitor.replay = none
  slot : m.slot < 64
  below : cell + 512 ≤ hbmBytes

/-- A path may enqueue an engine command that a barrier counts: no fence holds it back, and the barrier's count has room (R56). -/
def Me.ready (m : Me) (bar : BitVec 4) : Prop := m.path.fences = [] ∧ (m.blk.barrier bar.toNat).pending < 65535

/-- A barrier of the block in focus has counted one more command (R56). -/
def State.countedOn (u : State) (m : Me) (bar : BitVec 4) : Prop :=
  ∃ b, Tab.get? u.blocks m.car.block = some b ∧ (b.barrier bar.toNat).pending = (m.blk.barrier bar.toNat).pending + 1

/-- A reservation record that R190 and R192 admit in an operand-buffer claim of so many units of 4 KiB. -/
def ObRecord.admitted (r : ObRecord) (units : Nat) : Prop :=
  ((r.fmt ∈ [3, 4, 5, 6] ∧ r.blkLen ≤ 2) ∨ (r.fmt ∈ [1, 2] ∧ r.blkLen = 0))
    ∧ r.base + r.bytes ≤ 4096 * units ∧ (r.blkLen = 0 ∨ r.scaleOff < r.bytes) ∧ (r.bmpEn = false ∨ r.bmpOff < r.bytes)
    ∧ r.base % 64 = 0 ∧ r.length % 64 = 0 ∧ r.scaleOff % 64 = 0 ∧ r.bmpOff % 64 = 0

/-- The reservation record that a range word and a format word name (R191). -/
def recordFrom (base length : Nat) (w : Nat) : ObRecord :=
  { base := base, length := length, fmt := w % 2 ^ 4, blkLen := w / 2 ^ 4 % 2 ^ 3, bmpEn := w / 2 ^ 7 % 2 = 1,
    scaleOff := w / 2 ^ 8 % 2 ^ 18, bmpOff := w / 2 ^ 26 % 2 ^ 18 }

/-- A matrix operation that the path in focus issued with an operation number. -/
def Me.issuedMatrix (m : Me) (order : Nat) (o : MatrixOp) : Prop :=
  o.order = order ∧ o.issuer = m.key ∧ o.caravan = m.car.uid ∧ o.block = m.car.block ∧ o.ctx = m.blk.ctx ∧ o.path = m.p
    ∧ o.passed = 0 ∧ o.poison = false ∧ o.fault = none

/-- An instruction of the path in focus puts an operation at the end of its core's matrix queue, counted on a barrier. -/
def State.queuesMatrix (s : State) (m : Me) (i : Instr) (bar : BitVec 4) (is : MatrixOp → Prop) : Prop :=
  s.Runs m i → m.ready bar → (s.core m.core).mat.queue.length < 16 → ∃ u o, exec i s = .next u
    ∧ s.wentOn u m (m.path.spc + 4) ∧ m.issuedMatrix s.nextUid o ∧ o.bar = bar.toNat ∧ is o
    ∧ (u.core m.core).mat.queue = (s.core m.core).mat.queue ++ [o] ∧ u.countedOn m bar
    ∧ (m.path.storeq = [] → u.writes = s.writes) ∧ ∀ n, u.holds m.key n (m.car.sreg n.toNat)

/-- An instruction of the path in focus puts a command at the end of its core's dune queue, counted on a barrier. -/
def State.queuesDune (s : State) (m : Me) (i : Instr) (bar : BitVec 4) (form : DuneForm) : Prop :=
  s.Runs m i → m.ready bar → (s.core m.core).dune.queue.length < 8 → ∃ u x, exec i s = .next u
    ∧ s.wentOn u m (m.path.spc + 4) ∧ x.form = form ∧ x.order = s.nextUid ∧ x.issuer = m.key ∧ x.caravan = m.car.uid
    ∧ x.bar = bar.toNat ∧ x.bursts = m.path.laneq.length
    ∧ (u.core m.core).dune.queue = (s.core m.core).dune.queue ++ [x] ∧ u.countedOn m bar
    ∧ (u.core m.core).dune.states = (s.core m.core).dune.states ∧ (m.path.storeq = [] → u.writes = s.writes)

/-- The path in focus runs in a block that a graph's launcher started, with its record, graph slot and run. -/
def State.inGraph (s : State) (m : Me) (r : RecordBlock) (g : GraphSlot) (x : GraphRun) : Prop :=
  m.blk.record = some r ∧ Tab.get? s.graphs r.graph = some g ∧ g.run = some x

/-- The node of a run in a state. -/
def State.nodeIn (u : State) (graph t : Nat) (x : GraphRun) (n : Node) : Prop :=
  ∃ g, Tab.get? u.graphs graph = some g ∧ g.run = some x ∧ Tab.get? x.nodes t = some n

/-- What an emit has behind it: its path's accesses are performed, as a release at package scope (R320). -/
def State.emitted (s : State) (m : Me) : State := s.releasePath m.key m.p

/-! ### A lane word that runs -/

/-- A lane word in a burst of the path in focus, and the lanes active in it (R41, R122). -/
def Me.laneOf (m : Me) (b : Burst) (i : Instr) (f : LaneFields) : Lane :=
  let pr := burstPred m.car b f.pred.toNat
  { m := m, b := b, i := i, f := f, active := m.path.em &&& ~~~ m.car.xm &&& (if f.neg = 1 then ~~~ pr else pr) }

/-- A burst of the path in focus has words left to issue (R74). -/
structure State.Issues (s : State) (m : Me) (b : Burst) : Prop where
  path : s.me? = some m
  burst : m.path.burst = some b
  left : b.issued = false

/-- A lane word raises no ILLEGAL_OP that every word can raise: its fields are legal, its registers lie in the budget, it stands
where R152 admits it (R39, R73). -/
structure State.LaneLegal (s : State) (m : Me) (b : Burst) (i : Instr) (f : LaneFields) : Prop where
  issues : s.Issues m b
  legal : i.check = none
  budget : ∀ r ∈ highestRegs i f, r < m.car.lbud
  last : atCommit i = true → b.entry.len ≤ b.pos ∧ b.entry.rep = 0

/-- A lane word executes: it is legal, the latches it names are valid, and no operand queue that it names is empty or waits for a
sibling's burst (R39, R43, R44, R120). -/
structure State.LaneRuns (s : State) (m : Me) (b : Burst) (i : Instr) (f : LaneFields) : Prop extends s.LaneLegal m b i f where
  latches : ∀ k ∈ latchesOf i f, (Tab.get? b.latches k).isSome
  queues : ∀ q ∈ queuesOf i f, (queueHead m.car b q).isSome ∧ siblingPops m q = false

/-- What the entry of a lane word adds to ILLEGAL_OP (R73) does not hold of it: of a `vred.m` R157, of an `mpost` R194. -/
def Me.entryAdmits (m : Me) (s : State) (b : Burst) : Instr → Prop
  | .vredM f => (checkReduction (m.laneOf b (.vredM f) f)).run s = .ok () s
  | .mpost f => (checkPost (m.laneOf b (.mpost f) f)).run s = .ok () s
  | _ => True

/-- The latch that a word leaves (R43): its result in the lanes that receive it; in the other lanes the value of the destination
register, or an undefined value where write-back is suppressed. -/
def Lane.latch (x : Lane) (n : Nat) (mask : Mask) (vals : List LaneWord) : List LaneWord :=
  (List.range 32).map (fun l =>
    if hasLane mask l then vals.getD l 0
    else if x.f.nw = 0 then x.reg x.f.d.toNat l else BitVec.ofNat 32 (Config.freeNat n l))

/-- A result as the low and the high words that go to the destination and, of 64 bits, to the register after it (R39, R71). -/
def resultWords : LaneResult → Option (Mask × List LaneWord × Option (List LaneWord))
  | .lanes mask vals => some (mask, vals, none)
  | .pairs mask vals =>
    some (mask, vals.map (BitVec.ofNat 32), some (vals.map (fun v => BitVec.ofNat 32 (v / 2 ^ 32))))
  | _ => none

/-- A burst with a word's result in it (R71, R120): registers where write-back is not suppressed, or a predicate. -/
def Lane.held (x : Lane) (r : LaneResult) (b : Burst) : Burst :=
  match r with
  | .pred mask v => b.setPred x.f.d.toNat mask v
  | _ =>
    match resultWords r with
    | none => b
    | some (mask, lo, hi) =>
      if x.f.nw = 0 then
        let b1 := b.setReg x.f.d.toNat mask lo
        match hi with
        | none => b1
        | some hi => b1.setReg (x.f.d.toNat + 1) mask hi
      else b

/-- A burst after a word: the result, the latch of its position, a status predicate, a pop for each queue that it names, flags and
draws; and it moves on to its next word (R43, R44, R74, R120, R121). -/
def Lane.recorded (x : Lane) (n : Nat) (o : LaneOut) (b : Burst) : Burst :=
  let b1 := x.held o.res b
  let latches := match resultWords o.res with
    | none => Tab.erase b.latches (x.b.pos % 8)
    | some (mask, lo, _) => Tab.set b.latches (x.b.pos % 8) (x.latch n mask lo)
  let b2 := match o.status with
    | some (p, v) => ({ b1 with latches := latches } : Burst).setPred p x.active v
    | none => { b1 with latches := latches }
  let pops := (queuesOf x.i x.f).foldl (fun t q => Tab.set t q (Tab.getD t q 0 + 1)) b.pops
  Burst.advance { b2 with pops := pops, flags := b.flags ||| o.flags, draws := b.draws + o.draws }

/-- THE STATE AFTER A LANE WORD that came to `o`: its burst holds the word's effects, its path does not stall, and the answered
reads of the path are gone (R362); nothing else changes. -/
def State.laneDone (s : State) (x : Lane) (o : LaneOut) : State :=
  let s1 : State := { s with free := if (resultWords o.res).isSome then s.free + 1 else s.free }
  (s1.modPath x.m.key x.m.p (fun y => { y with burst := y.burst.map (x.recorded s.free o), laneStall := none })).dropReads x.m.key x.m.p

/-- A lane word that runs completes, and comes to a result. -/
def LaneGives (s : State) (m : Me) (b : Burst) (i : Instr) (f : LaneFields) (o : LaneOut) : Prop :=
  s.LaneRuns m b i f → exec i s = .next (s.laneDone (m.laneOf b i f) o)

/-- A lane word that runs raises a fault of its burst (R378). -/
def LaneTraps (s : State) (m : Me) (b : Burst) (i : Instr) (code cause : Nat) (addr : Word) : Prop :=
  exec i s = .next ((s.keep s m).raiseLane m b code cause addr)

/-- Byte i of a lane's access to memory (R51, R121, R144): the stores that the burst holds, the caravan's own stack, the youngest
store of the path's queue, the L1, the home. -/
def State.laneByte (s : State) (m : Me) (b : Burst) (t : Translation) (va : Word) (i : Nat) : Byte :=
  ((if inStack m.car m.blk.stackBytes (va.toNat + i) 1 then
      (forward b.stores (.stack m.key) (va.toNat + i)).or (Tab.get? m.car.stack (va.toNat + i))
    else none).or (forward (m.path.storeq ++ b.stores) .mem (physical t va + i))).getD (s.l1Byte m.core (physical t va + i))

/-- Byte i of a lane's access to the scratchpad of a half (R146). -/
def Me.scratchByte (m : Me) (b : Burst) (h : Nat) (x : Half) (i : Nat) : Byte :=
  (forward (m.path.storeq ++ b.stores) (.scratch m.car.block h) i).getD (x.scratch.read i)

/-- What an integer lane word computes with: its width, its sources, and its shift count (R126). -/
structure LaneInts (n : Nat) where
  a : BitVec n
  b : BitVec n
  c : BitVec n
  k : Nat

/-- The sources of an integer lane word in a lane. -/
def Lane.ints (x : Lane) (n l : Nat) : LaneInts n :=
  ⟨BitVec.ofNat n (x.a l), BitVec.ofNat n (x.bsrc l), BitVec.ofNat n (x.c l), (x.code x.f.b.toNat l).toNat % n⟩

/-- An integer lane word that runs gives a value of its width in each active lane, of 32 bits, or of 64 for `.i64`. -/
def LaneInteger (s : State) (m : Me) (b : Burst) (i : Instr) (f : LaneFields) (v : (n : Nat) → Nat → LaneInts n → BitVec n) : Prop :=
  let x := m.laneOf b i f
  LaneGives s m b i f (if f.fmt = 10 then { res := .pairs x.active ((List.range 32).map (fun l => (v 64 l (x.ints 64 l)).toNat)) }
    else { res := .lanes x.active ((List.range 32).map (fun l => v 32 l (x.ints 32 l))) })

/-- A lane word that runs gives a code with flags in each active lane; the flags of all of them are joined (R25). -/
def LaneCoded (s : State) (m : Me) (b : Burst) (i : Instr) (f : LaneFields) (v : Lane → Nat → Coded) : Prop :=
  let x := m.laneOf b i f
  LaneGives s m b i f { res := .lanes x.active ((List.range 32).map (fun l => BitVec.ofNat 32 (v x l).1)),
                        flags := joinFlags ((lanesOf x.active).map (fun l => (v x l).2)) }

/-- A lane's source of a format: the low bits of its value (R122). -/
def Lane.num (x : Lane) (v : Nat) : Nat := v % 2 ^ formatBits x.f.fmt

/-- The state with a word left to its burst's commit (R152): the word, and what its active lanes read. -/
def State.deferred (s : State) (x : Lane) (addr : Nat → Nat) : State :=
  s.modPath x.m.key x.m.p (fun y => { y with burst := y.burst.map (fun b =>
    { b with deferred := some x.i, deferOps := (lanesOf x.active).map (fun l => (l, addr l, x.bsrc l, x.c l)) }) })

/-- The state with the hit of a bound register held in the burst of the path in focus (R59, R121). -/
def State.hitHeld (s : State) (m : Me) (j : Nat) : State :=
  s.modPath m.key m.p (fun y => { y with burst := y.burst.map (fun b =>
    { b with hits := if b.hits.contains j then b.hits else b.hits ++ [j] }) })

/-- The state with stores held in the burst of the path in focus. -/
def State.holding (s : State) (m : Me) (es : List StoreEntry) : State :=
  s.modPath m.key m.p (fun y => { y with burst := y.burst.map (fun b => { b with stores := b.stores ++ es }) })
/-- Events act on the path `p` of the caravan in a slot: it exists, and its caravan is neither halted nor at a save point. -/
structure State.Acts (s : State) (core slot p : Nat) (m : Me) : Prop where
  path : ({ s with focus := .path core slot p } : State).me? = some m
  halted : m.car.halted = false
  saved : m.car.savePoint = none

/-- The state with a path in focus. -/
def State.at (s : State) (core slot p : Nat) : State := { s with focus := .path core slot p }

/-- The keys of a table rise. -/
def sortedKeys {α : Type} (t : Tab α) : Prop := (t.map Prod.fst).Pairwise (· < ·)

/-- The burst of an entry at its start (R43, R74). -/
def burstOf (e : LaneEntry) : Burst :=
  { entry := e, pos := 0, rep := 0, regs := [], preds := [], latches := [], pops := [], draws := 0, flags := 0, stores := [],
    deferred := none, deferOps := [], posts := [], issued := false, hits := [] }

/-- The caravan after the commit of a burst holds what the burst held (R121). -/
def Me.committed (m : Me) (b : Burst) (c : Caravan) : Prop :=
  (∀ r, ∀ l < 32, c.lane r l = (Tab.get? b.regs (r * 32 + l)).getD (m.car.lane r l))
    ∧ (∀ n, c.pred n = burstPred m.car b n)
    ∧ (∀ q, Tab.getD c.queues q [] = (Tab.getD m.car.queues q []).drop (Tab.getD b.pops q 0))
    ∧ c.drawctr = m.car.drawctr + BitVec.ofNat 64 b.draws ∧ c.fpm = m.car.fpm ||| BitVec.ofNat 64 (8 * b.flags.toNat)
    ∧ c.wkcnt = m.car.wkcnt + BitVec.ofNat 64 ((b.entry.len + 1) * (b.entry.rep + 1)) ∧ c.sregs = m.car.sregs ∧ c.xm = m.car.xm
    ∧ c.lbud = m.car.lbud

/-- A burst of the path in focus commits now: all its words have issued, no precise stop holds it, and no fence or arrival of its
path and no record of a graph waits for it. -/
structure State.Commits (s : State) (core slot p : Nat) (m : Me) (b : Burst) : Prop where
  acts : s.Acts core slot p m
  burst : m.path.burst = some b
  issued : b.issued = true
  goal : s.goalReached m.key ((b.entry.len + 1) * (b.entry.rep + 1)) = false
  free : m.path.fences = [] ∧ m.path.arrivals = []
  records : ∀ g ∈ s.graphs, ∀ r, g.2.run = some r → ∀ d ∈ r.nodes, ∀ x ∈ d.2.pool, x.2.covers m.car.uid p = false
  keys : sortedKeys b.regs ∧ sortedKeys b.preds ∧ sortedKeys b.pops
/-- A front-end core executes in a mode (R339). -/
structure State.FrontRuns (s : State) (die h : Nat) (x : Hart) (machine : Bool) : Prop where
  focus : s.focus = .hart die h
  hart : (s.die die).hart h = x
  mode : x.machineMode = machine

/-- A command at the head of its queue issues: no other command holds the queue, its barrier bit finds nothing open, its signal can
be written (R334, R335, R374). -/
structure State.Issuable (s : State) (q : Nat) (c : Command) : Prop where
  live : s.queueLive q = true
  held : (s.queue q).held = none ∨ (s.queue q).held = some c
  barrier : c.w0.getLsbD 8 = true → (s.queue q).open_ = []
  signal : s.signalWait (s.queueDesc q).ctx c.w7 = none

/-- The state with a command issued and open, and its number (R335). -/
def State.opened (s : State) (q : Nat) (c : Command) : State :=
  let d := s.queueDesc q
  let o : OpenCommand := { queue := q, ctx := d.ctx, die := d.die, command := c }
  let s1 : State := { s with nextUid := s.nextUid + 1, commands := Tab.set s.commands s.nextUid o }
  s1.modQueue q (fun y => { y with held := none, open_ := y.open_ ++ [s.nextUid] })

/-- A command issues and completes with a status, from a state that it came to (R335, R337). -/
def completes (s : State) (q : Nat) (i : Instr) (x : Status) (t : State) : Prop :=
  exec i s = .next ((t.completeCommand s.nextUid x).refreshQueue q)

/-- A status of a code and a detail. -/
def status (code detail : Nat) : Status := { code := code, detail := detail, launches := 0 }
/-! ### Engines -/

/-- The byte at a place of an engine's access: of memory as the core sees it, of a scratchpad, of an operand buffer. -/
def State.placeByte (s : State) (core : Nat) (l : Loc) : Option Byte :=
  match l.1 with
  | .mem => some (s.l1Byte core l.2)
  | .scratch b h => ((Tab.get? s.blocks b).bind (fun x => x.half? h)).map (fun x => x.scratch.read l.2)
  | .buffer c => some ((s.core c).mat.ob.read l.2)
  | _ => none

/-- A place that holds bytes: memory without `.det` updates in progress (R157), an operand buffer, or the scratchpad of a block that is
no dune block (R217). -/
def State.plainPlace (s : State) (l : Loc) : Prop :=
  match l.1 with
  | .mem => s.unsettled l.2 = false
  | .buffer _ => True
  | .scratch b h => ∃ x y, Tab.get? s.blocks b = some x ∧ x.half? h = some y ∧ x.pk.dune = false
  | _ => False

/-- A place whose byte the spec defines: no memory with `.det` updates in progress (R157) and none beyond HBM (R1). -/
def State.definedPlace (s : State) (l : Loc) : Prop := l.1 = .mem → s.unsettled l.2 = false ∧ l.2 < hbmBytes

/-- A place that lies in no range of a tile that is FILLING (R174). -/
def State.unfilled (s : State) (l : Loc) : Prop :=
  let free (core : Nat) (buffer : Bool) : Prop := ∀ t ∈ (s.core core).tiles, t.2.state = tileFilling → t.2.buffer = buffer →
    ¬ (t.2.offset ≤ l.2 ∧ l.2 < t.2.offset + t.2.bytes)
  match l.1 with
  | .scratch b h => ∀ x y, Tab.get? s.blocks b = some x → x.half? h = some y → free y.core false
  | .buffer c => free c true
  | _ => True

/-- The L1 of a core has room for the lines of all of some places (R1). -/
def State.roomForAll (s : State) (core : Nat) (ls : List Loc) : Prop :=
  ((s.core core).l1Lines ++ ls.filterMap (fun (l : Loc) => if l.1 = Place.mem then some (l.2 / 64 / 8) else none)).eraseDups.length ≤ 256

/-- A completed command is off its barrier: one fewer is pending, and the generation steps when none is left (R56). -/
def Barrier.lowered (b c : Barrier) : Prop :=
  c.pending = b.pending - 1 ∧ c.generation = if b.pending = 1 then (b.generation + 1) % 16 else b.generation

/-- A barrier of a block is lowered. -/
def State.lowers (s u : State) (block bar : Nat) : Prop :=
  ∀ b, Tab.get? s.blocks block = some b → ∃ c, Tab.get? u.blocks block = some c ∧ (b.barrier bar).lowered (c.barrier bar)

/-- A fault of an engine's command is pending for its issuer, after those that were (R173, R383). -/
def State.toldFault (s u : State) (key : Nat) (f : EngineFault) : Prop :=
  ∀ c, s.caravan? key = some c → ∃ d, u.caravan? key = some d ∧ d.engineFaults = c.engineFaults ++ [f]

/-- A copy-engine operation can be carried out: every byte has its source, its value and its destination, no two bytes have
one destination, and none that is written is read (R166, R167); none has moved yet, none is a freed record's (R321), the L1 has room
for the destination (R1), and no store has reached a range that is being filled (R174). -/
structure CopyOp.Clean (o : CopyOp) (s : State) (core : Nat) (src dst : Int × Int → Loc) (val : Int × Int → Byte) : Prop where
  issuer : o.issuer / 64 = core
  reads : ∀ x ∈ o.bytes, o.locate s o.srcPlace .read x.1 = .ok (src x) s
  values : ∀ x ∈ o.bytes, s.engineByte core (src x) (BitVec.ofInt 64 x.1) = .ok (val x) s
  writes : ∀ x ∈ o.bytes, o.locate s o.dstPlace .write x.2 = .ok (dst x) s
  distinct : (o.bytes.map dst).Nodup
  apart : ∀ x ∈ o.bytes, ∀ y ∈ o.bytes, dst x ≠ src y
  plain : ∀ x ∈ o.bytes, s.plainPlace (dst x)
  local_ : ∀ x ∈ o.bytes, (src x).isRemote = false
  moved : o.moved = []
  freed : ∀ x ∈ o.bytes, o.srcPlace = .mem → s.freedIn o.block (BitVec.ofInt 64 x.1) = false
  room : s.roomForAll core (o.bytes.map dst)
  still : o.kind.fillTile = none → ∀ x ∈ o.bytes, s.unfilled (dst x)
  kept : ∀ t, o.kind.fillTile = some t → ((s.core core).tile t).lost = false

/-- The instruction that completes an operation of the copy engine. -/
def CopyOp.completion (o : CopyOp) (core : Nat) : Instr :=
  match o.kind with
  | .copy => .copyComplete core o.order
  | .fill _ => .fillComplete core o.order
  | .drain _ => .drainComplete core o.order

/-- An operation has left the copy engine of a core: the tile it moves has the state, and its barrier is lowered. -/
def State.leftEngine (s u : State) (core : Nat) (o : CopyOp) (t : Nat) (x : Tile) : Prop :=
  (u.core core).tile t = x ∧ (u.core core).copyOp o.order = none ∧ ∀ n, o.bar = some n → s.lowers u o.block n
/-- The engines of a core read bytes of a context's memory, in this package, for a block that has freed none of them (R214). -/
def State.duneGets (s : State) (core bid ctx : Nat) (va : Word) (n : Nat) (bs : List Byte) : Prop :=
  s.engineRead core ctx va n = .ok bs s ∧ (∀ a ∈ addresses va n, s.freedIn bid a = false)
    ∧ ∃ ls, s.locateAll ctx .read (addresses va n) = .ok ls s ∧ ∀ l ∈ ls, l.isRemote = false

/-- The dune array of a core runs a sweep of the `dsweep` at the head of its queue, outside a save (R226). -/
structure State.Sweeps (s : State) (core : Nat) (d : Dune) (c : DuneCommand) (w : Sweep) (n burn : Nat) (corr : Bool) : Prop where
  dune : (s.core core).dune = d
  head : d.queue.head? = some c
  form : c.form = .sweep n burn corr
  bursts : c.bursts = 0
  sweep : d.sweep = some w
  running : w.ending = .running
  free : s.duneSaving core = false
  intime : d.timedOut w = false
/-- A frame that a port has sent after those that were (R360). -/
def State.sends (s u : State) (fs : List (Nat × Frame)) : Prop := u.netin.sent = s.netin.sent ++ fs

/-- The answer to a fragment: a frame of a kind back to its source, with its number and offset (R360). -/
def State.answerTo (s : State) (kind : Nat) (f : Frame) : Frame :=
  let h := f.header.toNat
  { header := frameHeader kind s.netin.package (fld h 32 19) (fld h 96 32) (fld h 128 64) (fld h 192 32) (fld h 224 32), payload := [] }

/-- An event of a kind and code is the next record of a die's trail (R414, R416). -/
def State.trailed (s u : State) (die kind code : Nat) : Prop :=
  (u.die die).trailCount = ((s.die die).trailCount + 1) % 2 ^ 32
    ∧ ∃ r, Tab.get? (u.die die).trail ((s.die die).trailCount % 4096) = some r ∧ r.toNat / 2 ^ 24 % 2 ^ 8 = kind ∧ r.toNat / 2 ^ 32 % 2 ^ 8 = code
/-- The trail of a die has one record more, and has a record of a kind and a code (R414, R416). -/
def State.trailGains (s u : State) (die kind code : Nat) : Prop :=
  (u.die die).trailCount = ((s.die die).trailCount + 1) % 2 ^ 32
    ∧ ∃ k r, Tab.get? (u.die die).trail k = some r ∧ r.toNat / 2 ^ 24 % 2 ^ 8 = kind ∧ r.toNat / 2 ^ 32 % 2 ^ 8 = code

/-- The mailbox has answered a request: its command and tag repeated, a status, the result (R419). -/
def State.answers (s u : State) (command : Nat) (tag : BitVec 16) (st : Nat) (data : List Nat) : Prop :=
  u.mailbox = s.mailbox ++ [{ command := command, tag := tag.toNat, status := st, data := data }]

/-- Nothing but the mailbox's answer is new. -/
def State.onlyAnswers (s : State) (command : Nat) (tag : BitVec 16) (st : Nat) (data : List Nat) : State :=
  { s with mailbox := s.mailbox ++ [{ command := command, tag := tag.toNat, status := st, data := data }] }
end Sys2Proof.Machine
end

