-- ==== Sys2Proof/Certificates/Slice0/Obligations.lean ====
section
/-!
DEFINITION. The statements for the provers. A statement of several parts is the conjunction of them; each part is defined
right before it and cites the rules that it rests on.
-/

open Sys2Proof Sys2Proof.Machine

/-- R89: the sums, products, bitwise operations, shifts, minima and maxima of two registers, `sel`, and `aff` of R93. -/
def Claims.ScalarArithmetic : Prop :=
  ∀ (s : State) (m : Me) (d a b : BitVec 6),
    let o := m.reg d.toNat
    let x := m.reg a.toNat
    let y := m.reg b.toNat
    Gives s m (.add d a b) d (x + y) ∧ Gives s m (.sub d a b) d (x - y) ∧ Gives s m (.mul d a b) d (x * y)
      ∧ Gives s m (.mulh d a b) d (BitVec.ofInt 64 (x.toInt * y.toInt / 2 ^ 64))
      ∧ Gives s m (.mulhU d a b) d (BitVec.ofNat 64 (x.toNat * y.toNat / 2 ^ 64))
      ∧ Gives s m (.and d a b) d (x &&& y) ∧ Gives s m (.or d a b) d (x ||| y) ∧ Gives s m (.xor d a b) d (x ^^^ y)
      ∧ Gives s m (.shl d a b) d (x <<< (y.toNat % 64)) ∧ Gives s m (.shr d a b) d (x >>> (y.toNat % 64))
      ∧ Gives s m (.sra d a b) d (x.sshiftRight (y.toNat % 64))
      ∧ Gives s m (.min d a b) d (if x.slt y then x else y) ∧ Gives s m (.minU d a b) d (if x.ult y then x else y)
      ∧ Gives s m (.max d a b) d (if x.slt y then y else x) ∧ Gives s m (.maxU d a b) d (if x.ult y then y else x)
      ∧ Gives s m (.sel d a b) d (if o = 0 then y else x) ∧ Gives s m (.aff d a b) d (o + x * y)

/-- R89, R91 and R93: the counts of leading zero bits and of one bits, the compares under every condition code that is not
reserved, and the bit-field instructions, bit by bit. -/
def Claims.ScalarBits : Prop :=
  ∀ (s : State) (m : Me) (d a b : BitVec 6),
    let o := m.reg d.toNat
    let x := m.reg a.toNat
    let y := m.reg b.toNat
    let pos := y.toNat % 64
    let len := y.toNat / 64 % 64 + 1
    Gives s m (.clz d a) d (if x = 0 then 64 else BitVec.ofNat 64 (63 - Nat.log2 x.toNat))
      ∧ Gives s m (.popc d a) d (BitVec.ofNat 64 ((List.range 64).countP (fun i => x.getLsbD i)))
      ∧ (∀ c : BitVec 4, ∀ v, holdsCode c.toNat x y = some v → Gives s m (.cmp d a b c) d (if v then 1 else 0))
      ∧ (∃ v : Word, Gives s m (.bfx d a b) d v
        ∧ ∀ i < 64, v.getLsbD i = if i < len then x.getLsbD (pos + i) else y.getLsbD 12 && x.getLsbD (pos + len - 1))
      ∧ (∃ v : Word, Gives s m (.bfi d a b) d v
        ∧ ∀ i < 64, v.getLsbD i = if pos ≤ i ∧ i < pos + len then x.getLsbD (i - pos) else o.getLsbD i)

/-- R91, R92 and R94: the immediate forms; immediates are sign-extended, and `lui` fills the low 20 bits. -/
def Claims.ScalarImmediates : Prop :=
  ∀ (s : State) (m : Me) (d a : BitVec 6),
    let o := m.reg d.toNat
    let x := m.reg a.toNat
    (∀ n : BitVec 14, Gives s m (.addImm d a n) d (x + n.signExtend 64)
      ∧ Gives s m (.lea d n) d (m.path.spc + 4 * n.signExtend 64))
    ∧ (∀ n : BitVec 12, Gives s m (.andImm d a n) d (x &&& n.signExtend 64)
      ∧ Gives s m (.orImm d a n) d (x ||| n.signExtend 64) ∧ Gives s m (.xorImm d a n) d (x ^^^ n.signExtend 64))
    ∧ (∀ n : BitVec 6, Gives s m (.shlImm d a n) d (x <<< n.toNat) ∧ Gives s m (.shrImm d a n) d (x >>> n.toNat)
      ∧ Gives s m (.sraImm d a n) d (x.sshiftRight n.toNat))
    ∧ (∀ (c : BitVec 4) (n : BitVec 10) (v : Bool), holdsCode c.toNat x (n.signExtend 64) = some v →
      Gives s m (.cmpImm d a c n) d (if v then 1 else 0))
    ∧ (∀ n : BitVec 20, Gives s m (.li d n) d (n.signExtend 64)
      ∧ Gives s m (.lui d n) d (BitVec.ofNat 64 (o.toNat * 2 ^ 20 + n.toNat)))

/-- Scalar integer instructions give the values of R89 and R91 to R94, and change nothing else. -/
def Obligations.ScalarIntegers : Prop := Claims.ScalarArithmetic ∧ Claims.ScalarBits ∧ Claims.ScalarImmediates

/-- R90: the quotients truncate towards zero, the remainder takes the sign of the dividend, and a division by zero gives all ones
and the dividend; the most negative number divided by −1 is itself, with remainder 0. -/
def Obligations.ScalarDivision : Prop :=
  ∀ (s : State) (m : Me) (d a b : BitVec 6),
    let x := m.reg a.toNat
    let y := m.reg b.toNat
    (y = 0 → Gives s m (.div d a b) d (-1) ∧ Gives s m (.divU d a b) d (BitVec.ofNat 64 (2 ^ 64 - 1))
      ∧ Gives s m (.rem d a b) d x ∧ Gives s m (.remU d a b) d x)
    ∧ (y ≠ 0 → Gives s m (.div d a b) d (BitVec.ofInt 64 (x.toInt.tdiv y.toInt))
      ∧ Gives s m (.rem d a b) d (BitVec.ofInt 64 (x.toInt - x.toInt.tdiv y.toInt * y.toInt))
      ∧ Gives s m (.divU d a b) d (BitVec.ofNat 64 (x.toNat / y.toNat))
      ∧ Gives s m (.remU d a b) d (BitVec.ofNat 64 (x.toNat % y.toNat)))
    ∧ (x = BitVec.ofInt 64 (-2 ^ 63) → y = -1 →
      Gives s m (.div d a b) d (BitVec.ofInt 64 (-2 ^ 63)) ∧ Gives s m (.rem d a b) d 0)

/-- R38: a write of `s0` is discarded, and `s0` reads as zero; a write of another register reads back, and leaves every other
register alone. -/
def Claims.RegisterZero : Prop :=
  (∀ (m : Me) (v : Word), m.written 0 v = m.car) ∧ (∀ m : Me, m.reg 0 = 0)
    ∧ (∀ (m : Me) (d n : BitVec 6) (v : Word), d ≠ 0 →
      ({ m with car := m.written d v }).reg n.toNat = if n = d then v else m.reg n.toNat)

/-- R86, R182, R425, R427: an instruction that has completed leaves its path at the target without a stall, raises `wkcnt` by one
outside a match handler, counts in a capsule body and in a handler, and changes nothing else: no other caravan, no other path, no
register, no queue, no mask. -/
def Claims.Retire : Prop :=
  ∀ (u : State) (m : Me) (i : Instr) (target : Word) (c : Caravan) (x : Path),
    u.caravan? m.key = some c → Tab.get? c.paths m.p = some x →
    let t := u.retire m i target
    u.onlyCaravan t m.key ∧ ∃ d y, t.caravan? m.key = some d ∧ Tab.get? d.paths m.p = some y
      ∧ y.spc = target ∧ y.stall = none ∧ y.em = x.em ∧ y.recs = x.recs ∧ y.laneq = x.laneq ∧ y.storeq = x.storeq
      ∧ d.wkcnt = (if m.path.handler.isSome then c.wkcnt else c.wkcnt + 1)
      ∧ (∀ q ≠ m.p, Tab.get? d.paths q = Tab.get? c.paths q)
      ∧ d = { c with wkcnt := d.wkcnt, capsule := d.capsule, paths := d.paths }

/-- A retired instruction moves its path on and counts; s0 discards writes and reads as zero. -/
def Obligations.RetireAndWrite : Prop := Claims.RegisterZero ∧ Claims.Retire

/-- R61 to R73 and R340: for every well-formed instruction of the scalar stream, of the lane stream and of a front-end core, with
every operand at every value, there are words, and the decoder of its stream reads them as that instruction. -/
def Obligations.DecodeEncode : Prop :=
  ∀ i : Instr, i.WellFormed →
    (∀ st w, encode i = some (st, w) → decodeOf st w = some i) ∧ ((encode i).isSome = (streamOf i).isSome)

/-- A step keeps the invariant: the home memory stays in canonical form and no home write is left over (log entries 30, 31). -/
def Obligations.StepKeepsInv : Prop := ∀ s t : State, s.Inv → step s = .next t → t.Inv

/-- The invariant holds after reset. -/
def Claims.ResetInv : Prop := State.reset.Inv

/-- R331, R332, R414, R415: after a cold reset every byte of memory is zero and no sector is poisoned; no block, context, queue,
graph slot, timer or trail record is left; every die's `cyc` is zero; no feature is enabled, and neither enable nor ready is set.
-/
def Claims.ResetState : Prop :=
  (∀ a, State.reset.rawByte a = 0) ∧ (∀ a n, State.reset.poisoned a n = false)
    ∧ State.reset.blocks = [] ∧ State.reset.caravans = [] ∧ State.reset.contexts = [] ∧ State.reset.queues = []
    ∧ State.reset.graphs = []
    ∧ (∀ d, (State.reset.die d).cyc = 0 ∧ (State.reset.die d).timers = [] ∧ (State.reset.die d).trail = []
      ∧ (State.reset.die d).trailCount = 0)
    ∧ State.reset.bar.featEn = 0 ∧ State.reset.bar.enabled = false ∧ State.reset.bar.ready = false

/-- The state after reset: the invariant, empty tables, zero memory, zero clocks. -/
def Obligations.AfterReset : Prop := Claims.ResetInv ∧ Claims.ResetState

/-- R62, R75: a path's turn executes the instruction that the four bytes at its SPC decode to, where nothing stands between (a
trap, a save, a return of `callv`, a match) and the package is not stopped; the word enters the code cache of its quadrant. -/
def Claims.StepRunsScalar : Prop :=
  ∀ (s : State) (core slot p w : Nat) (rest : List Turn) (m : Me) (t : Translation) (i : Instr),
    let u := s.turned rest (.path core slot p)
    s.agenda = .path core slot p :: rest → s.stopped = false → u.me? = some m → u.between m = none →
    m.path.spc.toNat % 4 = 0 → u.CodeAt m m.path.spc 4 w t →
    decodeOf .scalar w = some i →
    (Tab.get? (u.core core).scode (codeKey m t m.path.spc) = none →
      step s = settled s.mem (exec i (u.cachedWord m scalarCache (codeKey m t m.path.spc) w)))
    ∧ (Tab.get? (u.core core).scode (codeKey m t m.path.spc) = some (BitVec.ofNat 32 w) → step s = settled s.mem (exec i u))

/-- R74, R75: a quadrant's turn executes the lane instruction that the twelve bytes at the position of the burst decode to. -/
def Claims.StepRunsLane : Prop :=
  ∀ (s : State) (core slot p w : Nat) (rest : List Turn) (m : Me) (b : Burst) (t : Translation) (i : Instr),
    let u := s.turned rest (.path core slot p)
    let va := b.entry.start + BitVec.ofNat 64 (12 * b.pos)
    s.agenda = .lane core slot p :: rest → s.stopped = false → u.me? = some m → m.path.burst = some b → b.issued = false →
    u.CodeAt m va 12 w t → decodeOf .lane w = some i →
    (Tab.get? (u.core core).lcode (codeKey m t va) = none →
      step s = settled s.mem (exec i (u.cachedWord m laneCache (codeKey m t va) w)))
    ∧ (Tab.get? (u.core core).lcode (codeKey m t va) = some (BitVec.ofNat 96 w) → step s = settled s.mem (exec i u))

/-- A turn of a path or a quadrant runs the instruction that its bytes decode to. -/
def Obligations.StepRunsStreams : Prop := Claims.StepRunsScalar ∧ Claims.StepRunsLane

/-- R339, R340: a front-end core that runs firmware executes the instruction that the word at its pc in the local memory decodes
to; one in user mode executes the word at its pc in its context, a prologue within its limits and before its return. -/
def Claims.StepRunsFront : Prop :=
  ∀ (s : State) (die h w : Nat) (rest : List Turn) (i : Instr),
    let u := s.turned rest (.hart die h)
    let x := (u.die die).hart h
    s.agenda = .hart die h :: rest → s.stopped = false → die ≤ 3 → h ≤ 3 → w % 2 ^ 7 = 0x0b →
    decodeOf .front w = some i →
    (x.machineMode = true → x.dispatch = none →
      leNat ((List.range 4).map (fun k => Tab.getD (u.die die).localMem ((x.pc.toNat + k) % 2 ^ 18) (0 : Byte))) = w →
      step s = settled s.mem (exec i u))
    ∧ (x.machineMode = false → ∀ (t : Translation) (v : State), u.walkServe x.fctx x.pc .fetch = .leaf t v →
      (∀ k d, u.prologueOf die h = some (k, d) → d.instructions ≤ 256 ∧ (u.die die).cyc ≤ d.started + 4096 ∧ x.pc ≠ d.returnTo) →
      t.package = none → x.pc.toNat % 65536 + 4 ≤ 65536 → v.poisoned (physical t x.pc) 4 = false →
      leNat ((List.range 4).map (fun k => v.homeByte (physical t x.pc + k))) = w →
      step s = settled s.mem (exec i v))

/-- R334, R335: a queue's turn executes the command that it holds, by its opcode; and an event of the agenda comes about as its
row of the table says, an event that has no agent changing nothing. A mailbox request that finds others waiting, or that must wait
itself, waits behind them (R419). -/
def Claims.StepRunsRows : Prop :=
  (∀ (s : State) (q : Nat) (c : Command) (i : Instr) (rest : List Turn),
    let u := s.turned rest s.focus
    s.agenda = .queue q :: rest → s.stopped = false → u.queueLive q = true → (u.queue q).mapped.isSome → (u.queue q).held = some c →
    isCommand q c i → step s = settled s.mem (exec i u))
  ∧ (∀ (s : State) (i : Instr) (rest : List Turn),
    let u := s.turned rest .idle
    s.agenda = .event i :: rest → (s.stopped = false ∨ isReset i = true) → commandQueue i = none →
    ((isMailbox i = false ∨ (s.mailWaiting = [] ∧ s.mailHeld i = false)) →
      (exec i u ≠ .fault .noAgent → step s = settled s.mem (exec i u))
      ∧ (exec i u = .fault .noAgent → step s = settled s.mem (.next (s.turned rest s.focus))))
    ∧ (isMailbox i = true → (s.mailWaiting ≠ [] ∨ s.mailHeld i = true) →
      step s = settled s.mem (.next { s.turned rest s.focus with mailWaiting := s.mailWaiting ++ [i] })))

/-- A turn of a front-end core, a queue or an event runs its instruction. -/
def Obligations.StepRunsFrontAndRows : Prop := Claims.StepRunsFront ∧ Claims.StepRunsRows

/-- R61 to R73, R340: words written out from their encodings decode to the instructions that they stand for. -/
def Claims.DecodeWords : Prop :=
  decodeOf .scalar 0x0c51bffd = some (.addImm 5 6 (-3)) ∧ decodeOf .scalar 0x04720922 = some (.cmp 7 8 9 2)
    ∧ decodeOf .scalar 0x60420028 = some (.lrun 4 2 0x28) ∧ decodeOf .scalar 0x51802008 = some (.brd 3 0 4 8)
    ∧ decodeOf .scalar 0x7c000000 = some .nop ∧ decodeOf .scalar 0xb0000030 = some .rdone
    ∧ decodeOf .scalar 0x88300000 = some (.fence 0 3)
    ∧ decodeOf .lane (leNat [0xff, 0xff, 0, 0, 0, 0, 0, 0x20, 1, 2, 0, 0x52])
      = some (.vred ⟨0, 4, 0, 9, 0, 0, 0, 0, 0, 0xffff⟩)
    ∧ decodeOf .lane (leNat [3, 7, 0, 0, 0, 0, 0x70, 0x81, 2, 0, 0, 0x90])
      = some (.mpost ⟨0, 0, 0, 20, 23, 0, 0, 0, 0, 0x703⟩)
    ∧ decodeOf .front 0x00c5b50b = some (.dispatch 12 11 10) ∧ decodeOf .front 0x0000400b = some .pcancel
    ∧ decodeOf .front 0x0000500b = some .prepeat

/-- R61, R73: a word that stands for no instruction raises ILLEGAL_OP, with the cause that its decoding gives: a scalar word at
its address, a lane word as a fault of its burst. -/
def Claims.ReservedWords : Prop :=
  (∀ (s : State) (m : Me) (w : BitVec 32) (e : Illegal), decodeScalar w = .error e → s.Runs m .nop →
    exec (.reservedScalarWord w) s = .next ((s.keep s m).raiseTrap m.key m.p (m.trap codeIllegal e.code 0)))
  ∧ (∀ (s : State) (m : Me) (b : Burst) (w : BitVec 96) (e : Illegal), decodeLane w = .error e → s.Issues m b →
    exec (.reservedLaneOpcode w) s = .next (s.raiseLane m b codeIllegal e.code 0))

/-- Words written out from their encodings decode as they should; reserved words raise ILLEGAL_OP. -/
def Obligations.DecodeWords : Prop := Claims.DecodeWords ∧ Claims.ReservedWords

/-- R1, R252, R253: after a step's writes a byte of home memory reads as its newest write, or as before, and writing keeps the
canonical form, so that two memories which read alike are equal; where no HBM is, nothing is written (the model's choice, log
entry 49). -/
def Claims.HomeMemory : Prop :=
  (∀ (m : List Host.Cell) (a : Nat) (b : Byte), memWf m = true →
    memWf (memWrite m a b) = true ∧ memRead (memWrite m a b) a = b ∧ ∀ c ≠ a, memRead (memWrite m a b) c = memRead m c)
  ∧ (∀ m n : List Host.Cell, memWf m = true → memWf n = true → (∀ a, memRead m a = memRead n a) → m = n)
  ∧ (∀ (s : State) (a : Nat) (bs : List Byte) (plain : Bool), memWf s.mem = true →
    ∀ i, (s.homeStore a bs plain).rawByte i =
      if a < hbmBytes ∧ a ≤ i ∧ i < a + bs.length then bs.getD (i - a) 0 else s.rawByte i)

/-- R253, R254, R257: the oldest store of a path's queue, performed where the L1 has room for its line, changes the bytes that it
stores to and no others: its core sees the stored bytes there, and at every other address what it saw before. A release that waits
for bursts is not performed (R160). -/
def Claims.StorePerformed : Prop :=
  ∀ (s : State) (key p a : Nat) (bs : List Byte) (c : Caravan) (x : Path) (r : List StoreEntry),
    s.caravan? key = some c → Tab.get? c.paths p = some x →
    (∀ e, x.storeq = e :: r → e.after ≠ 0 → s.performOldest key p = s)
    ∧ (x.storeq = { place := .mem, addr := a, bytes := bs } :: r → s.roomFor (key / 64) a →
      (∀ b, a ≤ b → b < a + bs.length → s.unsettled b = false) →
    let t := s.performOldest key p
    (∀ b, t.l1Byte (key / 64) b = if a ≤ b ∧ b < a + bs.length then bs.getD (b - a) 0 else s.l1Byte (key / 64) b)
      ∧ (∀ k ≠ key / 64, ∀ b, t.l1Byte k b = s.l1Byte k b)
      ∧ t = { s with cores := t.cores, caravans := (s.modPath key p (fun y => { y with storeq := r })).caravans, saved := t.saved })

/-- Home writes and performed stores change the bytes stored to and no others. -/
def Obligations.MemoryWrites : Prop := Claims.HomeMemory ∧ Claims.StorePerformed

/-- R95: a load reads its bytes little-endian and extends them as its width code says; the destination takes the value, and every
byte of memory reads as before. -/
def Claims.Load : Prop :=
  ∀ (s : State) (m : Me) (d a : BitVec 6) (w : BitVec 3) (off : BitVec 11) (t : Translation),
    let n := [1, 2, 4, 8, 1, 2, 4].getD w.toNat 1
    let va := m.reg a.toNat + off.signExtend 64 * BitVec.ofNat 64 n
    let v := s.seen m t va n
    let value : Word := if w.toNat < 4 then BitVec.ofNat 64 v else (BitVec.ofNat (8 * n) v).signExtend 64
    (s.Runs m (.ld d a w off) → s.Reach m va n t →
      ∃ (u : State) (rs : Tab ReleaseRecord), exec (.ld d a w off) s = .next u
        ∧ u = { s.after m (.ld d a w off) (m.written d value)
            { m.next with loaded := Tab.set m.path.loaded (physical t va) (n, rs) } with cores := u.cores, monitor := u.monitor }
        ∧ s.sameMemory u)
    ∧ (va.toNat % n ≠ 0 → Traps s m (.ld d a w off) codeMisaligned 0 va)

/-- R51, R95, R182: a store outside a capsule body takes the low bytes of its source to the address `sa` plus the scaled offset:
into the path's store queue, or into the caravan's own stack cache where the address lies there; no byte of memory changes before
the queue is performed. A store through `s61` to an address below `stklim` raises STACK_LIMIT. -/
def Claims.Store : Prop :=
  ∀ (s : State) (m : Me) (d a : BitVec 6) (w : BitVec 3) (off : BitVec 11) (t : Translation),
    let i : Instr := .st d a w off
    let n := [1, 2, 4, 8].getD w.toNat 1
    let va := m.reg a.toNat + off.signExtend 64 * BitVec.ofNat 64 n
    let bs := leBytes n (m.reg d.toNat).toNat
    (w.toNat < 4 → s.Maps m va n .write t → m.car.capsule = none → m.path.relScope = 0 →
      (a = 61 → m.car.stklim.toNat ≤ va.toNat) →
      (inStack m.car m.blk.stackBytes va.toNat n = false → Completes s m i
        (s.modPath m.key m.p (fun x => { x with storeq := x.queued { place := .mem, addr := physical t va, bytes := bs } })))
      ∧ (inStack m.car m.blk.stackBytes va.toNat n = true → Completes s m i (s.stackStore m.key va.toNat bs)))
    ∧ (m.car.capsule = none → va.toNat % n ≠ 0 → Traps s m i codeMisaligned 0 va)
    ∧ (m.car.capsule = none → va.toNat % n = 0 → a = 61 → va.toNat < m.car.stklim.toNat → Traps s m i codeStackLimit 0 va)

/-- R96: a queue load reads an element for each active lane, gives the other lanes zero, and appends the entry to its operand
queue, which holds at most eight; `aldx` reads runs of 2^j consecutive elements. Every byte of memory reads as before. -/
def Claims.QueueLoads : Prop :=
  ∀ (s : State) (m : Me) (k j : BitVec 3) (a b : BitVec 6) (w : BitVec 4) (t : Nat → Translation),
    let n := [4, 2, 2, 1, 1].getD w.toNat 4
    let lane (va : Nat → Word) (l : Nat) : LaneWord :=
      if (m.path.em &&& ~~~ m.car.xm).getLsbD l then
        let v := s.seen m (t l) (va l) n
        if w.toNat = 2 ∨ w.toNat = 4 then (BitVec.ofNat (8 * n) v).signExtend 32 else BitVec.ofNat 32 v
      else 0
    let loads (i : Instr) (va : Nat → Word) : Prop :=
      s.Runs m i → (∀ l < 32, (m.path.em &&& ~~~ m.car.xm).getLsbD l → s.Reach m (va l) n (t l)) → m.path.fences = [] →
      (s.core m.core).l1Lines.length + 32 ≤ 256 →
      ((Tab.getD m.car.queues k.toNat []).length < 8 → ∃ u : State, exec i s = .next u ∧ s.sameMemory u
        ∧ ∃ c, u.caravan? m.key = some c
          ∧ c.queues = Tab.set m.car.queues k.toNat (Tab.getD m.car.queues k.toNat [] ++ [(List.range 32).map (lane va)])
          ∧ c.sregs = m.car.sregs ∧ c.lanes = m.car.lanes ∧ c.preds = m.car.preds)
      ∧ (8 ≤ (Tab.getD m.car.queues k.toNat []).length → ∃ u : State, exec i s = .next u
        ∧ ∃ c, u.caravan? m.key = some c ∧ c.queues = m.car.queues ∧ (Tab.get? c.paths m.p).map Path.stall = some (some .busy))
    loads (.ald k a b w) (fun l => m.reg a.toNat + BitVec.ofNat 64 l * m.reg b.toNat)
      ∧ loads (.aldx j k a b w) (fun l => m.reg a.toNat + BitVec.ofNat 64 (l % 2 ^ j.toNat * n)
          + BitVec.ofNat 64 (l / 2 ^ j.toNat) * m.reg b.toNat)

/-- Scalar loads and stores, and the queue loads ald and aldx. -/
def Obligations.LoadsAndStores : Prop := Claims.Load ∧ Claims.Store ∧ Claims.QueueLoads

/-- R62, R97, R98: branches and calls; a displacement counts words from the SPC of the instruction, the target of `jmp`, `calli`
and `ret` is a multiple of 4, `call` and `calli` leave SPC + 4 in `s63`, and a `ret` in a match handler ends the handler at the
matched instruction (R425). -/
def Claims.Branches : Prop :=
  ∀ (s : State) (m : Me) (a d : BitVec 6) (c : BitVec 4) (n : BitVec 20) (k : BitVec 14),
    let spc := m.path.spc
    let v := m.reg a.toNat
    let far := spc + 4 * n.signExtend 64
    let near := spc + 4 * k.signExtend 64
    Jumps s m (.br n) s far ∧ Jumps s m (.call n) (s.wrote m 63 (spc + 4)) far
      ∧ (holdsCode c.toNat v 0 = some true → Jumps s m (.bc c a k) s near)
      ∧ (holdsCode c.toNat v 0 = some false → Completes s m (.bc c a k) s)
      ∧ (v.toNat % 4 = 0 → Jumps s m (.jmp a) s v ∧ Jumps s m (.calli a) (s.wrote m 63 (spc + 4)) v)
      ∧ (v.toNat % 4 ≠ 0 → Traps s m (.jmp a) codeMisaligned 1 v ∧ Traps s m (.calli a) codeMisaligned 1 v)
      ∧ (m.path.handler = none → (m.reg 63).toNat % 4 = 0 → Jumps s m .ret s (m.reg 63))
      ∧ (m.path.handler = none → (m.reg 63).toNat % 4 ≠ 0 → Traps s m .ret codeMisaligned 1 (m.reg 63))
      ∧ (∀ h, m.path.handler = some h → Jumps s m .ret (s.modPath m.key m.p (fun x => { x with handler := none })) h.matched)
      ∧ (v = 0 → Jumps s m (.lpset d a k) (s.wrote m d v) (near + 4)) ∧ (v ≠ 0 → Completes s m (.lpset d a k) (s.wrote m d v))
      ∧ (m.reg d.toNat = 1 → Completes s m (.lpend d k) (s.wrote m d 0))
      ∧ (m.reg d.toNat ≠ 1 → Jumps s m (.lpend d k) (s.wrote m d (m.reg d.toNat - 1)) near)

/-- R102: `callv` calls the procedures that its active lanes' queue elements name, the one at the lowest address first, with the
lanes that name it; each target's header is checked before the first call (R65), and its record takes 160 bytes of stack memory
(R50). With no active lane it does nothing but take the entry. -/
def Claims.CallV : Prop :=
  ∀ (s : State) (m : Me) (a : BitVec 6) (k : BitVec 3) (entry : List LaneWord) (rest : List (List LaneWord)),
    let i : Instr := .callv a k
    let target (l : Nat) : Word := m.reg a.toNat + (entry.getD l 0).zeroExtend 64
    let popped (u : State) : State := u.modCaravan m.key (fun c => { c with queues := Tab.set c.queues k.toNat rest })
    m.path.drained = true → siblingPops m k.toNat = false → Tab.getD m.car.queues k.toNat [] = entry :: rest →
    (m.lanesOn = 0 → Completes s m i (popped s))
    ∧ (∀ (cur : Word) (e : Mask) (u : State),
      (∀ l < 32, m.lanesOn.getLsbD l = true → (target l).toNat % 4 = 0 ∧ cur.toNat ≤ (target l).toNat ∧ ∃ n t,
        s.CodeAt m (target l - 4) 4 (0x3f * 2 ^ 26 + n * 2 ^ 14) t ∧ 2 ≤ n ∧ n ≤ 32 ∧ 8 * n ≤ m.car.lbud) →
      (∃ l < 32, m.lanesOn.getLsbD l = true ∧ target l = cur) →
      (∀ l < 32, e.getLsbD l = (m.lanesOn.getLsbD l && target l = cur)) →
      m.car.depth < 31 → m.car.stklim.toNat + m.car.recordBytes + 160 ≤ (m.car.sreg 61).toNat → s.recordPut m 160 = .done u →
      Jumps s m i (((popped u).modCaravan m.key (fun c => c.setSreg 63 (m.path.spc + 4))).modPath m.key m.p (fun x =>
        { x with em := e, recs := .callv m.lanesOn (m.path.spc + 4) ((List.range 32).map target) cur :: x.recs })) cur)

/-- R45, R104 to R107: `lrun` appends an entry to its path's lane-issue queue, and waits while four stand in it; `mfem` and `mtem`
move the mask, the votes test a predicate in the lanes that execute, and `lget` reads one lane of a lane register; all but `mfem`
and `lrun` wait until the path has drained. -/
def Claims.LaneControl : Prop :=
  ∀ (s : State) (m : Me) (d r b : BitVec 6) (l : BitVec 4) (imm : BitVec 16) (n : BitVec 1) (p : BitVec 3) (h : BitVec 2),
    let on := m.lanesOn
    let v := on &&& m.chosen p n
    let reg := h.toNat * 64 + r.toNat
    Gives s m (.mfem d) d (on.zeroExtend 64)
    ∧ ((m.reg r.toNat).toNat ≤ 255 → m.path.laneq.length < 4 → Completes s m (.lrun r l imm) (s.modPath m.key m.p (fun x =>
        { x with laneq := x.laneq ++ [⟨(m.reg r.toNat).toNat, l.toNat, m.blk.pk.lcodeBase + BitVec.ofNat 64 (12 * imm.toNat), m.path.spc⟩] })))
    ∧ ((m.reg r.toNat).toNat ≤ 255 → 4 ≤ m.path.laneq.length → Stalls s m (.lrun r l imm) .busy)
    ∧ (255 < (m.reg r.toNat).toNat → Traps s m (.lrun r l imm) codeIllegal 1 0)
    ∧ (m.path.drained = false → Stalls s m (.mtem r) .data ∧ Stalls s m (.voteAny d n p) .data ∧ Stalls s m (.voteAll d n p) .data
      ∧ Stalls s m (.voteBall d n p) .data)
    ∧ (m.path.drained = true →
      Completes s m (.mtem r) (s.modPath m.key m.p (fun x => { x with em := (m.reg r.toNat).truncate 32 &&& ~~~ m.car.xm }))
      ∧ Gives s m (.voteAny d n p) d (if v = 0 then 0 else 1) ∧ Gives s m (.voteAll d n p) d (if v = on then 1 else 0)
      ∧ Gives s m (.voteBall d n p) d (v.zeroExtend 64)
      ∧ (reg < m.car.lbud → Gives s m (.lget d r b h) d ((m.car.lane reg ((m.reg b.toNat).toNat % 32)).zeroExtend 64)))
    ∧ (reg < m.car.lbud → m.path.drained = false → Stalls s m (.lget d r b h) .data)
    ∧ (m.car.lbud ≤ reg → Traps s m (.lget d r b h) codeIllegal 2 0)

/-- Branches, calls and loops, callv, lrun, mask moves, votes and lget. -/
def Obligations.BranchesAndLanes : Prop := Claims.Branches ∧ Claims.CallV ∧ Claims.LaneControl

/-- R99: `brd` waits until its path has drained; lanes that all take it, or none of which does, do not divide; the first division
makes two paths, and a further one pushes a record of 32 bytes (R50), within the depth and the stack limit. -/
def Claims.Divide : Prop :=
  ∀ (s : State) (m : Me) (p : BitVec 3) (n : BitVec 1) (t j : BitVec 11),
    let i : Instr := .brd p n t j
    let on := m.lanesOn
    let taken := on &&& m.chosen p n
    let target := m.path.spc + 4 * t.signExtend 64
    let join := m.path.spc + 4 * j.zeroExtend 64
    (m.path.drained = false → Stalls s m i .data)
    ∧ (m.path.drained = true →
      (on ≠ 0 → taken = on → Jumps s m i s target) ∧ (taken = 0 → Completes s m i s)
      ∧ (taken ≠ 0 → taken ≠ on → m.car.split = none → m.p = 0 → s.Runs m i → ∃ u c x y, exec i s = .next u
        ∧ u.caravan? m.key = some c ∧ c.paths = [(0, x), (1, y)] ∧ c.split = some join ∧ c.baseRecs = m.path.recs
        ∧ x.spc = m.path.spc + 4 ∧ x.em = on &&& ~~~ taken ∧ x.recs = [] ∧ y.spc = target ∧ y.em = taken ∧ y.recs = []
        ∧ c.sregs = m.car.sregs ∧ c.lanes = m.car.lanes ∧ c.preds = m.car.preds ∧ c.queues = m.car.queues
        ∧ u.mem = s.mem ∧ (m.path.storeq = [] → u.writes = s.writes))
      ∧ (taken ≠ 0 → taken ≠ on → m.car.split.isSome →
        (m.car.depth < 31 → m.car.stklim.toNat + m.car.recordBytes + 32 ≤ (m.car.sreg 61).toNat → ∀ u, s.recordPut m 32 = .done u →
          Jumps s m i (u.modPath m.key m.p (fun x =>
            { x with em := taken, recs := .split (m.path.spc + 4) (on &&& ~~~ taken) join false :: x.recs })) target)
        ∧ (31 ≤ m.car.depth → Traps s m i codeStackLimit 1 0)
        ∧ (m.car.depth < 31 → (m.car.sreg 61).toNat < m.car.stklim.toNat + m.car.recordBytes + 32 → Traps s m i codeStackLimit 0
          (m.car.sreg 61 - BitVec.ofNat 64 (m.car.recordBytes + 32)))))

/-- R100, R103: `join` at the join of the innermost record goes on with the lanes that have not run, and the second time with all
of them; elsewhere it does nothing. `done` of a caravan's only path ends the caravan; the `done` of one of two paths leaves the
other, and under a record it takes its lanes out of the rest. -/
def Claims.Rejoin : Prop :=
  ∀ (s : State) (m : Me), m.path.drained = true →
    (∀ spc em join rest, m.path.recs = .split spc em join false :: rest → join = m.path.spc → Jumps s m .join
      (s.modPath m.key m.p (fun x => { x with em := em, recs := .split spc m.path.em join true :: rest })) spc)
    ∧ (∀ spc em join rest, m.path.recs = .split spc em join true :: rest → join = m.path.spc → Completes s m .join
      (s.modPath m.key m.p (fun x => { x with em := (em ||| m.path.em) &&& ~~~ m.car.xm, recs := rest })))
    ∧ (∀ spc em join second rest, m.path.recs = .split spc em join second :: rest → join ≠ m.path.spc → Completes s m .join s)
    ∧ (∀ a r ts c rest, m.path.recs = .callv a r ts c :: rest → Completes s m .join s)
    ∧ (m.path.recs = [] → m.car.split ≠ some m.path.spc → Completes s m .join s)
    ∧ (m.path.recs = [] → m.car.split = none → s.Runs m .done → ∃ u, exec .done s = .next u ∧ u.caravan? m.key = none)
    ∧ (∀ q y, m.path.recs = [] → m.car.split.isSome → m.car.paths = [(m.p, m.path), (q, y)] ∨ m.car.paths = [(q, y), (m.p, m.path)] →
      q ≠ m.p → s.Runs m .done → ∃ u c, exec .done s = .next u ∧ u.caravan? m.key = some c ∧ c.paths = [(q, y)]
        ∧ c.xm = m.car.xm ||| m.lanesOn)
    ∧ (∀ spc em join rest, m.path.recs = .split spc em join false :: rest → Jumps s m .done
      ((s.modCaravan m.key (fun c => { c with xm := m.car.xm ||| m.lanesOn })).modPath m.key m.p (fun x =>
        { x with em := em, recs := .split spc 0 join true :: rest })) spc)
    ∧ (∀ spc em join rest, m.path.recs = .split spc em join true :: rest → Jumps s m .done
      ((s.modCaravan m.key (fun c => { c with xm := m.car.xm ||| m.lanesOn })).modPath m.key m.p (fun x =>
        { x with em := em &&& ~~~ (m.car.xm ||| m.lanesOn), recs := rest })) (join + 4))

/-- R100: the second `join` of two paths merges them: one path, numbered 0, with the lanes of both and the records pushed before
the split, and both joins counted in `wkcnt`. The first one waits. -/
def Claims.Merge : Prop :=
  ∀ (s : State) (m : Me) (q : Nat) (y : Path),
    s.Runs m .join → m.path.drained = true → m.path.recs = [] → m.car.split = some m.path.spc →
    (m.p = 0 ∧ q = 1 ∧ m.car.paths = [(0, m.path), (1, y)] ∨ m.p = 1 ∧ q = 0 ∧ m.car.paths = [(0, y), (1, m.path)]) →
    (y.spc = m.path.spc ∧ y.recs = [] ∧ y.token = some true ∧ y.drained = true → ∃ u c x, exec .join s = .next u
      ∧ u.caravan? m.key = some c ∧ c.paths = [(0, x)] ∧ x.em = (m.path.em ||| y.em) &&& ~~~ m.car.xm
      ∧ x.spc = m.path.spc + 4 ∧ x.recs = m.car.baseRecs ∧ c.split = none ∧ c.wkcnt = m.car.wkcnt + 2
      ∧ c.sregs = m.car.sregs ∧ c.lanes = m.car.lanes ∧ c.preds = m.car.preds)
    ∧ (y.spc ≠ m.path.spc → exec .join s =
      .next ((s.modPath m.key m.p (fun x => { x with token := some true })).waits m .data))

/-- brd divides a path, join rejoins and merges, done ends. -/
def Obligations.Divergence : Prop := Claims.Divide ∧ Claims.Rejoin ∧ Claims.Merge

/-- R46 to R48, R115: `mfk` reads the control register of its selector, zero-extended; `cyc` is the local cycle count of the die.
Reads of `fpm` and `drawctr` wait until the path has drained (R87). -/
def Claims.ReadControl : Prop :=
  ∀ (s : State) (m : Me) (d : BitVec 6),
    (m.path.drained = true → Gives s m (.mfk d 0x02) d m.car.fpm ∧ Gives s m (.mfk d 0x18) d m.car.drawctr)
    ∧ (m.path.drained = false → Stalls s m (.mfk d 0x02) .data ∧ Stalls s m (.mfk d 0x18) .data)
    ∧ Gives s m (.mfk d 0x00) d (m.lanesOn.zeroExtend 64) ∧ Gives s m (.mfk d 0x01) d (m.car.xm.zeroExtend 64)
    ∧ Gives s m (.mfk d 0x03) d (BitVec.ofNat 64 m.car.lbud)
    ∧ Gives s m (.mfk d 0x04) d (BitVec.ofNat 64 (m.p + 2 ^ 5 * m.car.depth))
    ∧ Gives s m (.mfk d 0x08) d
      (BitVec.ofNat 64 (m.slot + 2 ^ 6 * (m.core % 8) + 2 ^ 9 * (m.core % 48 / 8) + 2 ^ 12 * (m.core / 48)))
    ∧ Gives s m (.mfk d 0x09) d (BitVec.ofNat 64 (m.blk.bid % 2 ^ 24))
    ∧ Gives s m (.mfk d 0x0a) d (BitVec.ofNat 64 (m.car.index + 2 ^ 5 * m.blk.pk.caravans + 2 ^ 10 * m.car.half))
    ∧ Gives s m (.mfk d 0x0b) d (BitVec.ofNat 64 m.blk.ctx) ∧ Gives s m (.mfk d 0x0d) d m.car.wkcnt
    ∧ Gives s m (.mfk d 0x10) d m.car.stklim ∧ Gives s m (.mfk d 0x11) d m.car.stkbase
    ∧ Gives s m (.mfk d 0x19) d m.car.rkey ∧ Gives s m (.mfk d 0x20) d m.car.trapvec
    ∧ Gives s m (.mfk d 0x21) d m.car.trapcause ∧ Gives s m (.mfk d 0x22) d m.car.trapaddr
    ∧ Gives s m (.mfk d 0x23) d m.car.trappc
    ∧ (∀ j < 16, Gives s m (.mfk d (BitVec.ofNat 8 (0x40 + j))) d (Tab.getD (s.core m.core).bndv j 0)
      ∧ Gives s m (.mfk d (BitVec.ofNat 8 (0x50 + j))) d (Tab.getD (s.core m.core).bndc j 0))
    ∧ (∀ i, i = .mfk d 0x0c ∨ i = .cycl d → s.monitor.replay = none → s.Runs m i → ∃ r, exec i s = .next
      { s.after m i (m.written d (BitVec.ofNat 64 (s.die (m.core / 48)).cyc)) m.next with monitor := r })

/-- R9, R46 to R48, R58, R115: `mtk` writes the writable fields of the control register of its selector, and one to a register
that is read only does nothing. Writes of `em`, `fpm`, `drawctr` and `rkey` wait until the path has drained (R87). -/
def Claims.WriteControl : Prop :=
  ∀ (s : State) (m : Me) (a : BitVec 6),
    let v := m.reg a.toNat
    (∀ k ∈ [0x00, 0x02, 0x18, 0x19], m.path.drained = false → Stalls s m (.mtk a k) .data)
    ∧ (m.path.drained = true →
      Completes s m (.mtk a 0x00) (s.modPath m.key m.p (fun x => { x with em := v.truncate 32 &&& ~~~ m.car.xm }))
      ∧ Completes s m (.mtk a 0x02) (s.modCaravan m.key (fun c => { c with fpm := v &&& 0xff }))
      ∧ Completes s m (.mtk a 0x18) (s.modCaravan m.key (fun c => { c with drawctr := v }))
      ∧ Completes s m (.mtk a 0x19) (s.modCaravan m.key (fun c => { c with rkey := v })))
    ∧ Completes s m (.mtk a 0x10) (s.modCaravan m.key (fun c => { c with stklim := v }))
    ∧ Completes s m (.mtk a 0x20) (s.modCaravan m.key (fun c => { c with trapvec := v }))
    ∧ (∀ k ∈ [0x01, 0x03, 0x04, 0x08, 0x09, 0x0a, 0x0b, 0x0c, 0x0d, 0x11, 0x21, 0x22, 0x23], Completes s m (.mtk a k) s)
    ∧ (∀ j < 16, Completes s m (.mtk a (BitVec.ofNat 8 (0x40 + j)))
        (s.modCore m.core (fun c => { c with bndv := Tab.set c.bndv j v }))
      ∧ ∃ w : Word, w.getLsbD 0 = v.getLsbD 0 ∧ w.getLsbD 1 = v.getLsbD 1 ∧ w.getLsbD 2 = v.getLsbD 2
        ∧ w.getLsbD 3 = ((Tab.getD (s.core m.core).bndc j 0).getLsbD 3 && !v.getLsbD 3) ∧ w.toNat < 16
        ∧ Completes s m (.mtk a (BitVec.ofNat 8 (0x50 + j)))
          (s.modCore m.core (fun c => { c with bndc := Tab.set c.bndc j w })))

/-- mfk and mtk of every control register. -/
def Obligations.ControlRegisters : Prop := Claims.ReadControl ∧ Claims.WriteControl

/-- R116 to R118: `nop` has no effect; `ifence` empties its quadrant's code caches and no others; `phint` notes its bitmaps where
no save is asked for, and is its caravan's save point where one is; `brk` has no effect unless the launch has the debug flag and
the context the debug right, and then halts the caravan with its SPC in `trappc` (R422); `trap` raises the software trap. -/
def Claims.System : Prop :=
  ∀ (s : State) (m : Me) (a b k : BitVec 6),
    let right := (Tab.get? s.contexts m.blk.ctx).map Context.debug = some true
    let asked := m.blk.pk.preempt = true ∧ m.blk.pk.phintReq = true ∧ m.blk.halves.any (fun h => (s.core h.core).request.isSome)
    let hinted := s.modCaravan m.key (fun c => { c with hints := some ((m.reg a.toNat).truncate 32, m.reg b.toNat) })
    Completes s m .nop s
    ∧ Completes s m .ifence (s.modCore m.core (fun c =>
      { c with scode := c.scode.filter (fun x => x.1 % 4 ≠ m.slot / 16), lcode := c.lcode.filter (fun x => x.1 % 4 ≠ m.slot / 16) }))
    ∧ (¬ asked → Completes s m (.phint a b) hinted)
    ∧ (asked → Completes s m (.phint a b)
      ((hinted.modCaravan m.key (fun c => { c with savePoint := some .hints })).stopAtBoundary m.key))
    ∧ (¬ (m.blk.pk.debug = true ∧ right) → Completes s m .brk s)
    ∧ (m.blk.pk.debug = true ∧ right → Completes s m .brk ((s.modCaravan m.key (fun c =>
      { c with trapcause := BitVec.ofNat 64 (0x3e + 2 ^ 16 * m.p), trapaddr := 0, trappc := (m.trap 0x3e 0 0).pc })).haltCaravan m.key))
    ∧ Traps s m (.trap k) 0x3f k.toNat 0

/-- R116, R254: `cflush` of no bytes does nothing; of others it performs its path's stores and writes every dirty sector of its
core in the range to its home: there is none left, the bytes that were dirty are at their home, and the others are as before, but
for those of a capsule cell (R176). -/
def Claims.Flush : Prop :=
  ∀ (s : State) (m : Me) (a b : BitVec 6),
    let lo := (m.reg a.toNat).toNat
    let n := (m.reg b.toNat).toNat
    let v := s.drainStores m.key m.p
    (n = 0 → Completes s m (.cflush a b) s)
    ∧ (n ≠ 0 → s.monitor.replay = none → ∃ u, Completes s m (.cflush a b) u ∧ ∀ va q, lo ≤ va.toNat → va.toNat < lo + n → canonical va = true →
      v.peek m.core m.blk.ctx va = some q → q < hbmBytes → v.cellsIn q 1 = [] →
      (∀ l, Tab.get? (u.core m.core).l1 (q / 64) = some l → l.dirty = 0)
      ∧ u.rawByte q = match Tab.get? (v.core m.core).l1 (q / 64) with
        | some l => if l.dirty.getLsbD (q % 64) then sectorByte l.data (q % 64) else v.rawByte q
        | none => v.rawByte q)

/-- nop, ifence, phint, brk, trap and cflush. -/
def Obligations.SystemInstructions : Prop := Claims.System ∧ Claims.Flush

/-- R379, R380: a trap of a path of an undivided caravan with a handler installed, no record on its stack and room for the frame
in its stack area writes the trap records, pushes the frame of 64 bytes below `s61`, clears `trapvec` and goes on at the handler,
wherever no capsule is held and the fault is not one that never goes to a handler. -/
def Claims.TrapToHandler : Prop :=
  ∀ (s : State) (key p : Nat) (c : Caravan) (x : Path) (b : Block) (t : Trap),
    let at_ := (c.sreg 61).toNat - 64
    s.caravan? key = some c → Tab.get? c.paths p = some x → Tab.get? s.blocks c.block = some b → c.capsule = none →
    (∀ h, b.half? c.half = some h → ∀ q ∈ h.claims, q.1 = key → q.2.1 = p) →
    inStack c b.stackBytes at_ 64 = true → at_ % 65536 ≤ 65472 →
    (∀ bs : List Byte, bs.length = 64 → (c.stackWrite at_ bs).stackLines.length ≤ 4) →
    c.trapvec ≠ 0 → t.code ≠ codePoison → t.code ≠ codeWatchdog → c.depth = 0 → c.split = none →
    c.stklim.toNat + 64 ≤ (c.sreg 61).toNat →
    let u := s.takeTrap key p t
    s.sameMemory u ∧ ∃ d y, u.caravan? key = some d ∧ Tab.get? d.paths p = some y
      ∧ d.trapcause = BitVec.ofNat 64 (t.code + 2 ^ 8 * t.cause + 2 ^ 16 * p) ∧ d.trapaddr = t.addr ∧ d.trappc = t.pc
      ∧ d.trapvec = 0 ∧ d.sreg 61 = c.sreg 61 - 64 ∧ (∀ n, n ≠ 61 → d.sreg n = c.sreg n) ∧ y.spc = c.trapvec ∧ y.em = x.em
      ∧ d.lanes = c.lanes ∧ d.preds = c.preds ∧ d.queues = c.queues ∧ d.wkcnt = c.wkcnt
      ∧ (∀ k < 64, Tab.get? d.stack ((c.sreg 61).toNat - 64 + k) =
        (((leBytes 8 t.resume.toNat) ++ (leBytes 8 x.em.toNat)
          ++ ((t.removed ++ [0, 0, 0, 0]).take 4).flatMap (fun w : Word => leBytes 8 w.toNat)
          ++ (leBytes 8 c.trapvec.toNat) ++ (leBytes 8 t.removed.length))[k]?))
      ∧ (∀ k, (k < (c.sreg 61).toNat - 64 ∨ (c.sreg 61).toNat ≤ k) → Tab.get? d.stack k = Tab.get? c.stack k)

/-- R379, R381, R384: a trap that the handler conditions turn away, POISON and WATCHDOG always, ends its caravan faulted: its
block is a faulted block with the lowest code, and the caravan is gone. -/
def Claims.TrapEndsCaravan : Prop :=
  ∀ (s : State) (key p : Nat) (c : Caravan) (x : Path) (b : Block) (t : Trap),
    s.caravan? key = some c → Tab.get? c.paths p = some x → Tab.get? s.blocks c.block = some b → c.capsule = none →
    (c.trapvec = 0 ∨ t.code = codePoison ∨ t.code = codeWatchdog ∨ c.depth ≠ 0 ∨ c.split.isSome
      ∨ (c.sreg 61).toNat < c.stklim.toNat + 64) →
    let u := s.takeTrap key p t
    u.caravan? key = none ∧ ∃ d, Tab.get? u.blocks c.block = some d ∧ d.live = b.live - 1
      ∧ ∃ k, d.faulted = some k ∧ k ≤ t.code ∧ (b.faulted = none → c.engineFaults = [] → k = t.code)

/-- R377: a fault is delivered at once where its path has drained, and otherwise waits with it. -/
def Claims.TrapWaits : Prop :=
  ∀ (s : State) (key p : Nat) (c : Caravan) (x : Path) (t : Trap), s.caravan? key = some c → Tab.get? c.paths p = some x →
    (x.drained = true → s.raiseTrap key p t = s.takeTrap key p t)
    ∧ (x.drained = false → s.raiseTrap key p t =
      s.modPath key p (fun y => { y with pending := some t, stall := some .faultPending }))

/-- A trap enters the handler with its frame, or ends the caravan, or waits for its path to drain. -/
def Obligations.Traps : Prop := Claims.TrapToHandler ∧ Claims.TrapEndsCaravan ∧ Claims.TrapWaits

/-- R57, R108, R109, R262: a member's `arrive` gives the phase of its group and counts it, at once where no burst of its path
runs: the last member's arrival toggles the phase and clears the arrivals. A caravan that has arrived in the phase waits for its
toggle; of a divided one a path does that has arrived itself, and the other's arrival adds nothing. An abandoned group counts
nothing. A caravan that is no member of the group raises ILLEGAL_OP. -/
def Claims.Arrive : Prop :=
  ∀ (s : State) (m : Me) (d : BitVec 6) (g : BitVec 8),
    (∀ x, m.blk.groups[g.toNat]? = some x → x.has m.car.half m.slot = true →
      let before := x.counted m.car.half m.slot || m.car.arriving g.toNat
      let again := if m.car.split.isSome then m.path.arrived.contains g.toNat else before
      (x.abandoned = true → Gives s m (.arrive d g) d (if x.phase then 1 else 0))
      ∧ (x.abandoned = false → again = true → Stalls s m (.arrive d g) .group)
      ∧ (x.abandoned = false → again = false → before = true → Completes s m (.arrive d g)
        ((s.wrote m d (if x.phase then 1 else 0)).modPath m.key m.p (fun y => { y with arrived := g.toNat :: y.arrived })))
      ∧ (x.abandoned = false → again = false → before = false → m.path.laneq = [] →
        m.slot < 64 → s.Runs m (.arrive d g) → ∃ u b y, exec (.arrive d g) s = .next u ∧ s.wentOn u m (m.path.spc + 4)
        ∧ u.holds m.key d (if x.phase then 1 else 0) ∧ Tab.get? u.blocks m.car.block = some b ∧ b.groups[g.toNat]? = some y
        ∧ y.members = x.members ∧ y.partner = x.partner ∧ y.abandoned = false
        ∧ (let bit : BitVec 64 := BitVec.ofNat 64 (2 ^ m.slot)
          let arr := if m.car.half = 0 then x.arr ||| bit else x.arr
          let partnerArr := if m.car.half = 0 then x.partnerArr else x.partnerArr ||| bit
          if arr = x.members ∧ partnerArr = x.partner then y.phase = !x.phase ∧ y.arr = 0 ∧ y.partnerArr = 0
          else y.phase = x.phase ∧ y.arr = arr ∧ y.partnerArr = partnerArr)))
    ∧ ((∀ x, m.blk.groups[g.toNat]? = some x → x.has m.car.half m.slot = false) →
      ∀ i ∈ [Instr.arrive d g, .await d g, .bar d g], Traps s m i codeIllegal 4 0)

/-- R57, R108: `await` goes on when its group's phase is not the token of its register, or the group is abandoned, which it
reports; else it waits. `bar` waits with the phase that its arrival found. -/
def Claims.Await : Prop :=
  ∀ (s : State) (m : Me) (d : BitVec 6) (g : BitVec 8) (x : Group),
    m.blk.groups[g.toNat]? = some x → x.has m.car.half m.slot = true →
    let token := (m.reg d.toNat).getLsbD 0
    let status : Word := if x.abandoned then 1 else 0
    let ordered := if x.members ≠ 0 ∧ x.partner ≠ 0 ∧ x.abandoned = false then s.modCore m.core Core.dropClean else s
    let before := x.counted m.car.half m.slot || m.car.arriving g.toNat
    let again := if m.car.split.isSome then m.path.arrived.contains g.toNat else before
    let waiting := (s.modPath m.key m.p (fun y => { y with awaiting := some g.toNat })).waits m .group
    (x.phase = token ∧ x.abandoned = false → s.Runs m (.await d g) → exec (.await d g) s = .next waiting)
    ∧ (x.phase ≠ token ∨ x.abandoned = true → Completes s m (.await d g) (ordered.wrote m d status))
    ∧ (∀ t, m.path.token = some t → x.phase = t ∧ x.abandoned = false → s.Runs m (.bar d g) → exec (.bar d g) s = .next waiting)
    ∧ (m.path.token = none → x.abandoned = false → again = true → Stalls s m (.bar d g) .group)
    ∧ (∀ t, m.path.token = some t → x.phase ≠ t ∨ x.abandoned = true → Completes s m (.bar d g) (ordered.wrote m d status))
    ∧ (m.path.token = none → x.abandoned = true → Gives s m (.bar d g) d 1)
    ∧ (m.path.token = none → x.abandoned = false → again = false → before = false →
      m.path.laneq = [] → m.slot < 64 → s.Runs m (.bar d g) →
      let bit : BitVec 64 := BitVec.ofNat 64 (2 ^ m.slot)
      let last := if m.car.half = 0 then (x.arr ||| bit) = x.members ∧ x.partnerArr = x.partner
        else x.arr = x.members ∧ (x.partnerArr ||| bit) = x.partner
      ∃ u b y, exec (.bar d g) s = .next u ∧ Tab.get? u.blocks m.car.block = some b ∧ b.groups[g.toNat]? = some y
        ∧ (last → s.wentOn u m (m.path.spc + 4) ∧ u.holds m.key d 0 ∧ y.phase = !x.phase)
        ∧ (¬ last → u.stood m .group ∧ y.phase = x.phase))

/-- R56, R110, R173: `cbwait` waits while commands are pending on its barrier; then it raises the earliest issued of the pending
faults of the barrier's failed commands, which ends when the trap is delivered, or gives the barrier's image and clears its status
bits; `cbpoll` gives the image at once, and clears the bits only where nothing is pending. -/
def Claims.CompletionBarriers : Prop :=
  ∀ (s : State) (m : Me) (d : BitVec 6) (n : BitVec 4),
    let b := m.blk.barrier n.toNat
    let image : Word := BitVec.ofNat 64 (b.pending + 2 ^ 16 * (b.generation % 16) + 2 ^ 20 * bit b.bias + 2 ^ 21 * bit b.horizon
      + 2 ^ 22 * bit b.poison + 2 ^ 23 * bit b.pairAbort)
    let cleared := s.modBarrier m.car.block n.toNat (fun x =>
      { x with bias := false, horizon := false, poison := false, pairAbort := false })
    let mine (f : EngineFault) : Prop := f ∈ m.car.engineFaults ∧ f.barrier = n.toNat
    (b.pending ≠ 0 → Stalls s m (.cbwait d n) .completion)
    ∧ (b.pending = 0 → (∀ f, ¬ mine f) → Completes s m (.cbwait d n) (cleared.wrote m d image))
    ∧ (∀ f, b.pending = 0 → mine f → (∀ g, mine g → g ≠ f → f.order < g.order) → s.Runs m (.cbwait d n) →
      exec (.cbwait d n) s = .next ((s.keep s m).raiseTrap m.key m.p
        { m.trap f.code f.cause f.addr with faults := m.car.engineFaults.filter (· = f) }))
    ∧ (b.pending = 0 → Completes s m (.cbpoll d n) (cleared.wrote m d image))
    ∧ (b.pending ≠ 0 → Gives s m (.cbpoll d n) d image)

/-- arrive, await and bar of a group; cbwait and cbpoll of a completion barrier. -/
def Obligations.GroupsAndBarriers : Prop := Claims.Arrive ∧ Claims.Await ∧ Claims.CompletionBarriers

/-- R39, R111, R112, R238: `rgive` moves registers to the pool and keeps the lane registers below the new budget; `rclaim` takes
them where the pool holds enough and no claim waits before it, and else waits its turn. A block without a pool raises ILLEGAL_OP.
-/
def Claims.RegisterPool : Prop :=
  ∀ (s : State) (m : Me) (n : BitVec 6) (h : Half), m.blk.half? m.car.half = some h → m.car.lbud % 8 = 0 →
    (m.blk.pk.pool = false → Traps s m (.rgive n) codeIllegal 5 0 ∧ Traps s m (.rclaim n) codeIllegal 5 0)
    ∧ (m.blk.pk.pool = true → m.car.lbud < 8 * n.toNat + 16 → Traps s m (.rgive n) codeIllegal 1 0)
    ∧ (m.blk.pk.pool = true → 8 * n.toNat + 16 ≤ m.car.lbud → m.path.drained = true → h.claims = [] → s.Runs m (.rgive n) →
      ∃ u c b k, exec (.rgive n) s = .next u ∧ s.wentOn u m (m.path.spc + 4) ∧ u.caravan? m.key = some c
        ∧ c.lbud = m.car.lbud - 8 * n.toNat ∧ (∀ r < c.lbud, ∀ l < 32, c.lane r l = m.car.lane r l) ∧ c.sregs = m.car.sregs
        ∧ Tab.get? u.blocks m.car.block = some b ∧ b.half? m.car.half = some k ∧ k.pool = h.pool + 8 * n.toNat)
    ∧ (m.blk.pk.pool = true → m.path.token = none → m.car.lbud + 8 * n.toNat ≤ 256 → m.path.drained = true → h.claims = [] →
      s.Runs m (.rclaim n) →
      (8 * n.toNat ≤ h.pool → ∃ u c b k, exec (.rclaim n) s = .next u ∧ s.wentOn u m (m.path.spc + 4)
        ∧ u.caravan? m.key = some c ∧ c.lbud = m.car.lbud + 8 * n.toNat ∧ (∀ r < m.car.lbud, ∀ l < 32, c.lane r l = m.car.lane r l)
        ∧ Tab.get? u.blocks m.car.block = some b ∧ b.half? m.car.half = some k ∧ k.pool = h.pool - 8 * n.toNat ∧ k.claims = [])
      ∧ (h.pool < 8 * n.toNat → ∃ u b k, exec (.rclaim n) s = .next u ∧ u.stood m .claim
        ∧ Tab.get? u.blocks m.car.block = some b ∧ b.half? m.car.half = some k ∧ k.pool = h.pool
        ∧ k.claims = [(m.key, m.p, 8 * n.toNat)]))
    ∧ (m.path.token = some true → m.blk.pk.pool = true → Completes s m (.rclaim n) s)

/-- R51, R114: `enter` saves `s63` at the top of its frame and lowers `s61` by the frame's size; `leave` restores both. A frame
outside the stack raises STACK_LIMIT. -/
def Claims.Frames : Prop :=
  ∀ (s : State) (m : Me) (k : BitVec 14) (t : Nat → Translation),
    let sp := m.reg 61
    let size := 16 * k.toNat
    let low := sp - BitVec.ofNat 64 size
    let high := sp + BitVec.ofNat 64 size
    (m.car.stklim.toNat + size ≤ sp.toNat → inStack m.car m.blk.stackBytes (sp - 8).toNat 8 = true →
      (sp - 8).toNat % 65536 ≤ 65528 → s.Maps m (sp - 8) 1 .write (t 0) → Completes s m (.enter k)
        ((s.stackStore m.key (sp - 8).toNat (leBytes 8 (m.reg 63).toNat)).modCaravan m.key (fun c => c.setSreg 61 low)))
    ∧ (sp.toNat < m.car.stklim.toNat + size → Traps s m (.enter k) codeStackLimit 0 low)
    ∧ (sp.toNat + size ≤ m.car.stkbase.toNat → (∀ i < 8, s.Reach m (high - 8 + BitVec.ofNat 64 i) 1 (t i)) →
      (s.core m.core).l1Lines.length + 2 ≤ 256 → s.Runs m (.leave k) → ∃ u, exec (.leave k) s = .next u ∧ s.wentOn u m (m.path.spc + 4) ∧ s.sameMemory u
        ∧ u.holds m.key 63 (BitVec.ofNat 64 (leNat ((List.range 8).map (fun i =>
          s.seenByte m (t i) (high - 8 + BitVec.ofNat 64 i) 0)))) ∧ u.holds m.key 61 high)
    ∧ (m.car.stkbase.toNat < sp.toNat + size → Traps s m (.leave k) codeStackLimit 2 high)

/-- rgive and rclaim move registers of the pool; enter and leave move a frame. -/
def Obligations.PoolAndFrames : Prop := Claims.RegisterPool ∧ Claims.Frames

/-- R161 to R163, R257: a fence performs its path's stores: at caravan scope that is all, once the path has drained; a release
fence gives later stores the effect of a release at its scope, an acquire fence beyond the core pulls what the releases cover that
stood at the locations which its path has read, and drops the copies that the core fetched, a full fence does both and beyond the
core leaves no dirty sector; behind bursts it waits with them. `relflush` leaves no dirty sector and returns the pair unit's
lines. -/
def Obligations.Fences : Prop :=
  ∀ (s : State) (m : Me) (k : BitVec 2) (sc : BitVec 3),
    let v := s.drainStores m.key m.p
    let wide := 2 ≤ sc.toNat ∨ 1 < m.blk.halves.length
    let path (u : State) (x : Path) : Prop := ∃ c, u.caravan? m.key = some c ∧ Tab.get? c.paths m.p = some x
      ∧ x.storeq = waitingStores m.path.storeq
    m.slot < 64 → s.monitor.replay = none →
    (m.path.drained = true → Completes s m (.fence k 0) v) ∧ (m.path.drained = false → Stalls s m (.fence k 0) .data)
    ∧ (sc ≠ 0 → m.path.laneq ≠ [] → Completes s m (.fence k sc) (s.modPath m.key m.p (fun x =>
      { x with fences := x.fences ++ [(m.path.laneq.length, k.toNat, sc.toNat)] })))
    ∧ (m.path.laneq ≠ [] → Completes s m .relflush (s.modPath m.key m.p (fun x =>
      { x with fences := x.fences ++ [(m.path.laneq.length, 3, 4)] })))
    ∧ (sc ≠ 0 → m.path.laneq = [] → Completes s m (.fence 2 sc)
      (v.modPath m.key m.p (fun x => { x with relScope := max x.relScope sc.toNat })))
    ∧ (sc ≠ 0 → m.path.laneq = [] → ∃ u x, Completes s m (.fence 1 sc) u ∧ path u x ∧ x.loaded = []
      ∧ x.relScope = m.path.relScope ∧ (wide → u.dropped m.core))
    ∧ (∀ kind ∈ [(0 : BitVec 2), 1], ∀ q n r, sc ≠ 0 → m.path.laneq = [] → wide → m.path.loaded = [(q, (n, [(q, r)]))] →
      r.core ≠ m.core → inScope r.scope r.core r.block m.core m.car.block = true →
      inScope sc.toNat r.core r.block m.core m.car.block = true → ∃ u, Completes s m (.fence kind sc) u
      ∧ ∀ k ∈ r.sectors, ∀ l, Tab.get? (u.core r.core).l1 k = some l → l.dirty = 0)
    ∧ (sc ≠ 0 → m.path.laneq = [] → ∃ u x, Completes s m (.fence 0 sc) u ∧ path u x ∧ x.loaded = []
      ∧ x.relScope = max m.path.relScope sc.toNat
      ∧ (wide → u.dropped m.core ∧ ((∀ l ∈ m.path.loaded, l.2.2 = []) → v.flushed u m.core)))
    ∧ (m.path.laneq = [] → ∃ u x, Completes s m .relflush u ∧ path u x ∧ v.flushed u m.core
      ∧ ∀ l ∈ u.pairLines, l.2 ≠ m.core / 2)

/-- R159, R260, R265: an acquire load beyond the core reads its location at its home after the core's own stores to it, and no
copy that the core fetched before stays valid; one within the core is a load. -/
def Claims.AcquireLoad : Prop :=
  ∀ (s : State) (m : Me) (d a : BitVec 6) (sc : BitVec 3) (w : BitVec 1) (off : BitVec 10) (t : Translation),
    let i : Instr := .ldacq d a sc w off
    let n := if w = 1 then 8 else 4
    let va := m.reg a.toNat + off.signExtend 64 * BitVec.ofNat 64 n
    let q := physical t va
    let v := s.drainStores m.key m.p
    let wide : Bool := 2 ≤ sc.toNat || 1 < m.blk.halves.length
    (va.toNat % n ≠ 0 → Traps s m i codeMisaligned 0 va)
    ∧ (s.Reach m va n t → s.owes q n = false → s.Runs m i →
      ((wide = false ∨ inStack m.car m.blk.stackBytes va.toNat n = true) → ∃ u, exec i s = .next u
        ∧ s.wentOn u m (m.path.spc + 4) ∧ u.holds m.key d (BitVec.ofNat 64 (s.seen m t va n)))
      ∧ (wide = true → inStack m.car m.blk.stackBytes va.toNat n = false → m.slot < 64 →
        m.car.capsule = none → waitingStores m.path.storeq = [] → q + n ≤ hbmBytes → s.cellsIn (q / 64 * 64) 64 = [] →
        (∀ r ∈ s.releases, ¬ (r.1 < q + n ∧ q < r.1 + r.2.size)) → ∃ u, exec i s = .next u
        ∧ s.wentOn u m (m.path.spc + 4) ∧ u.dropped m.core
        ∧ u.holds m.key d (BitVec.ofNat 64 (leNat ((List.range n).map (fun k => v.upToDate m.core (q + k)))))))

/-- R87, R159, R160, R260: a release store to memory performs its path's stores, puts its value at the home, and leaves a release
record of its location with the core, block and scope, and the sectors still dirty in the core; no byte of another sector changes
at its home. Behind bursts it does not wait: it stands in the store queue until they have committed. -/
def Claims.ReleaseStore : Prop :=
  ∀ (s : State) (m : Me) (d a : BitVec 6) (sc : BitVec 3) (w : BitVec 1) (off : BitVec 10) (t : Translation),
    let i : Instr := .strel d a sc w off
    let n := if w = 1 then 8 else 4
    let va := m.reg a.toNat + off.signExtend 64 * BitVec.ofNat 64 n
    let q := physical t va
    let v := s.drainStores m.key m.p
    (va.toNat % n ≠ 0 → Traps s m i codeMisaligned 0 va)
    ∧ (s.Maps m va n .write t → s.monitor.replay = none → (a = 61 → m.car.stklim.toNat ≤ va.toNat) →
      inStack m.car m.blk.stackBytes va.toNat n = false → m.slot < 64 →
      (m.path.laneq ≠ [] → Completes s m i (s.modPath m.key m.p (fun x => { x with storeq := x.storeq ++
        [{ place := .mem, addr := q, bytes := leBytes n (m.reg d.toNat).toNat, release := some sc.toNat,
           after := m.path.laneq.length }] })))
      ∧ (m.path.laneq = [] → q + n ≤ hbmBytes → s.cellsIn (q / 64 * 64) 64 = [] →
        s.Runs m i → ∃ u c x r, exec i s = .next u ∧ s.wentOn u m (m.path.spc + 4)
        ∧ u.caravan? m.key = some c ∧ Tab.get? c.paths m.p = some x ∧ x.storeq = waitingStores m.path.storeq
        ∧ c.sregs = m.car.sregs ∧ r.owed = none
        ∧ (∀ k < n, u.rawByte (q + k) = BitVec.ofNat 8 ((m.reg d.toNat).toNat / 2 ^ (8 * k)))
        ∧ (∀ b, b / 64 ≠ q / 64 → u.rawByte b = v.rawByte b)
        ∧ Tab.get? u.releases q = some r ∧ r.size = n ∧ r.core = m.core ∧ r.block = m.car.block ∧ r.scope = sc.toNat
        ∧ ∀ k l, Tab.get? (u.core m.core).l1 k = some l → l.dirty ≠ 0 → k ∈ r.sectors))

/-- R260: an acquire in the scope of a release pulls: every sector that the release found dirty in its core goes to its home. -/
def Claims.AcquirePulls : Prop :=
  ∀ (s : State) (core block scope a n q : Nat) (r : ReleaseRecord),
    s.releases = [(q, r)] → s.cells = [] → q < a + n → a < q + r.size → r.core ≠ core →
    inScope r.scope r.core r.block core block = true → inScope scope r.core r.block core block = true →
    let u := s.pullFor core block scope a n
    ∀ k ∈ r.sectors, (∀ l, Tab.get? (u.core r.core).l1 k = some l → l.dirty = 0)
      ∧ ∀ b, b / 64 = k → b < hbmBytes → u.rawByte b = s.upToDate r.core b

/-- ldacq, strel, and the pull of an acquire in the scope of a release. -/
def Obligations.AcquireRelease : Prop := Claims.AcquireLoad ∧ Claims.ReleaseStore ∧ Claims.AcquirePulls

/-- R164 to R168: `xcopy` reads its record, checks its counts and places, and puts a copy into the core's copy engine and into the
caravan's open set; while the engine holds 64, it waits. The path's earlier stores are performed. -/
def Claims.Copy : Prop :=
  ∀ (s : State) (m : Me) (d a b : BitVec 6) (r f : BitVec 2) (t : Translation) (w : CopyRecord) (sp dp : Place) (so dst : Nat),
    let i : Instr := .xcopy d a b r f
    let s1 (k : Nat) : Int := if 2 ≤ f.toNat then w.stride k else 0
    let s2 (k : Nat) : Int := if 3 ≤ f.toNat then w.stride k else 0
    s.readsRecord m (m.reg b.toNat) t w → w.len0 = w.words 0 → w.n1 = (if 2 ≤ f.toNat then w.words 1 else 1) →
    w.n2 = (if 3 ≤ f.toNat then w.words 2 else 1) → w.inLimits → w.words 3 = 0 →
    m.placed (m.reg a.toNat) (r.getLsbD 1) w (s1 4) (s2 5) sp so → m.placed (m.reg d.toNat) (r.getLsbD 0) w (s1 6) (s2 7) dp dst →
    s.Runs m i →
    (((s.core m.core).copies.filter (fun o => !o.done)).length < 64 → ∃ u o c x, exec i s = .next u
      ∧ s.wentOn u m (m.path.spc + 4) ∧ m.issues s.nextUid o ∧ o.kind = .copy ∧ o.bar = none
      ∧ o.moves w sp dp so dst (s1 4) (s2 5) (s1 6) (s2 7) ∧ (u.core m.core).copies = (s.core m.core).copies ++ [o]
      ∧ u.caravan? m.key = some c ∧ c.openSet = m.car.openSet ++ [s.nextUid] ∧ Tab.get? c.paths m.p = some x
      ∧ x.storeq = waitingStores m.path.storeq
      ∧ c.sregs = m.car.sregs ∧ u.mem = s.mem ∧ (m.path.storeq = [] → u.writes = s.writes))
    ∧ (64 ≤ ((s.core m.core).copies.filter (fun o => !o.done)).length → ∃ u, exec i s = .next u ∧ u.stood m .busy
      ∧ (u.core m.core).copies = (s.core m.core).copies)

/-- R168, R169: `xseal` numbers the caravan's batches modulo 16 and empties the open set, waiting while the batch of that number
has not completed; `xpoll` tells whether a batch has completed; `xwait` waits for it and raises the fault of its earliest failed
copy. -/
def Claims.Batches : Prop :=
  ∀ (s : State) (m : Me) (d : BitVec 6) (n : BitVec 4),
    let of (k : Nat) : List CopyOp := (s.core m.core).copies.filter (fun o => (Tab.getD m.car.batches k []).contains o.order)
    let next := m.car.sealCount % 16
    Gives s m (.xpoll d n) d (if (of n.toNat).all (fun o => o.done) then 1 else 0)
    ∧ ((∃ o ∈ of n.toNat, o.done = false) → Stalls s m (.xwait n) .completion)
    ∧ ((∀ o ∈ of n.toNat, o.done = true ∧ o.failed = none) → Completes s m (.xwait n) s)
    ∧ (∀ before o after code cause addr, (∀ x ∈ of n.toNat, x.done = true) → of n.toNat = before ++ o :: after →
      (∀ x ∈ before, x.failed = none) → o.failed = some (code, cause, addr) → Traps s m (.xwait n) code cause addr)
    ∧ ((∃ o ∈ of next, o.done = false) → Stalls s m (.xseal d) .completion)
    ∧ ((∀ o ∈ of next, o.done = true) → s.Runs m (.xseal d) → ∃ u c, exec (.xseal d) s = .next u
      ∧ s.wentOn u m (m.path.spc + 4) ∧ u.holds m.key d (BitVec.ofNat 64 next) ∧ u.caravan? m.key = some c
      ∧ c.openSet = [] ∧ c.batches = Tab.set m.car.batches next m.car.openSet ∧ c.sealCount = m.car.sealCount + 1
      ∧ ∀ o ∈ (s.core m.core).copies, o.done = false → o ∈ (u.core m.core).copies)

/-- xcopy enters the copy engine; xseal, xpoll and xwait of batches. -/
def Obligations.CopiesAndBatches : Prop := Claims.Copy ∧ Claims.Batches

/-- R55, R56, R170 to R173: `tfill` and `tfill.ob` of an EMPTY tile give it its space and put a fill, counted on their barrier,
into the copy engine; the tile is FILLING. -/
def Claims.TileFill : Prop :=
  ∀ (s : State) (m : Me) (n a b : BitVec 6) (bar : BitVec 4) (buffer : Bool) (t : Translation) (w : CopyRecord),
    let i : Instr := if buffer then .tfillOb n a b bar else .tfill n a b bar
    let len := w.words 3 / 2 ^ 19
    let off := w.words 3 % 2 ^ 19
    s.readsRecord m (m.reg b.toNat) t w → w.len0 = w.words 0 → w.n1 = w.words 1 → w.n2 = w.words 2 → w.inLimits →
    w.words 6 = 0 → w.words 7 = 0 → off % 64 = 0 → w.len0 * w.n1 * w.n2 = tileBytes len → s.Runs m i →
    (((s.core m.core).tile n.toNat).state = 0 → off + tileBytes len ≤ 4096 * (if buffer then m.blk.pk.ob else m.blk.pk.scratch) →
      ((s.core m.core).copies.filter (fun o => !o.done)).length < 64 → (m.blk.barrier bar.toNat).pending < 65535 →
      ∃ u o x blk, exec i s = .next u ∧ s.wentOn u m (m.path.spc + 4) ∧ (u.core m.core).tile n.toNat = x
      ∧ x.state = 1 ∧ x.block = m.car.block ∧ x.buffer = buffer ∧ x.length = len ∧ x.offset = off
      ∧ m.issues s.nextUid o ∧ o.kind = .fill n.toNat ∧ o.bar = some bar.toNat
      ∧ o.moves w .mem (if buffer then .buffer m.core else .scratch m.car.block m.car.half) (m.reg a.toNat).toNat off
        (w.stride 4) (w.stride 5) w.len0 (w.len0 * w.n1 : Nat)
      ∧ (u.core m.core).copies = (s.core m.core).copies ++ [o]
      ∧ Tab.get? u.blocks m.car.block = some blk ∧ (blk.barrier bar.toNat).pending = (m.blk.barrier bar.toNat).pending + 1)
    ∧ (((s.core m.core).tile n.toNat).state ≠ 0 → ∃ u : State, exec i s = .next ((s.keep u m).raiseTrap m.key m.p (m.trap codeTile
      (if ((s.core m.core).tile n.toNat).block = m.car.block then 1 else 0) 0)))

/-- R55, R170 to R174: `tdrain` of a READY tile puts a drain into the copy engine and makes the tile DRAINING, and waits out a
fill; `tfree` makes a tile EMPTY, waits out a drain and raises TILE_STATE at a fill; `tstate` gives the image of the entry. A tile
of another block raises TILE_STATE, and a record that does not move a tile's length raises ILLEGAL_OP. -/
def Claims.Tiles : Prop :=
  ∀ (s : State) (m : Me) (d n a b : BitVec 6) (bar : BitVec 4) (t : Translation) (w : CopyRecord),
    let x := (s.core m.core).tile n.toNat
    let i : Instr := .tdrain n a b bar
    Gives s m (.tstate d n) d (BitVec.ofNat 64 (x.offset + 2 ^ 19 * x.length + 2 ^ 32 * x.state + 2 ^ 34 * bit x.buffer + 2 ^ 35 * x.owner))
    ∧ (x.state ≠ 0 → x.block ≠ m.car.block → Traps s m (.tfree n) codeTile 0 0)
    ∧ (x.block = m.car.block → x.state = 1 → Traps s m (.tfree n) codeTile 1 0)
    ∧ (x.block = m.car.block → x.state = 3 → Stalls s m (.tfree n) .tile)
    ∧ (x.block = m.car.block ∨ x.state = 0 → x.state ≠ 1 → x.state ≠ 3 → Completes s m (.tfree n)
      (s.modCore m.core (fun c => { c with tiles := Tab.set c.tiles n.toNat Tile.empty })))
    ∧ (s.readsRecord m (m.reg b.toNat) t w → w.len0 = w.words 0 → w.n1 = w.words 1 → w.n2 = w.words 2 → w.inLimits →
      w.words 3 = 0 → w.words 4 = 0 → w.words 5 = 0 → x.block = m.car.block → s.Runs m i →
      (x.state = 1 → w.len0 * w.n1 * w.n2 = x.bytes → ∃ u, exec i s = .next u ∧ u.stood m .tile)
      ∧ (x.state ≠ 0 → w.len0 * w.n1 * w.n2 ≠ x.bytes → ∃ u : State, exec i s = .next ((s.keep u m).raiseTrap m.key m.p
        (m.trap codeIllegal 3 0)))
      ∧ (x.state = 2 → w.len0 * w.n1 * w.n2 = x.bytes → ((s.core m.core).copies.filter (fun o => !o.done)).length < 64 →
        (m.blk.barrier bar.toNat).pending < 65535 → ∃ u o blk, exec i s = .next u ∧ s.wentOn u m (m.path.spc + 4)
        ∧ (u.core m.core).tile n.toNat = { x with state := 3 } ∧ m.issues s.nextUid o ∧ o.kind = .drain n.toNat
        ∧ o.bar = some bar.toNat
        ∧ o.moves w (if x.buffer then .buffer m.core else .scratch m.car.block m.car.half) .mem x.offset (m.reg a.toNat).toNat
          w.len0 (w.len0 * w.n1 : Nat) (w.stride 6) (w.stride 7)
        ∧ (u.core m.core).copies = (s.core m.core).copies ++ [o]
        ∧ Tab.get? u.blocks m.car.block = some blk ∧ (blk.barrier bar.toNat).pending = (m.blk.barrier bar.toNat).pending + 1))

/-- tfill, tfill.ob, tdrain, tfree and tstate. -/
def Obligations.TileInstructions : Prop := Claims.TileFill ∧ Claims.Tiles

/-- R177 to R181, R185, R187: `capinit` makes a cell FREE with the next generation and its context, and clears its checkpoint and
result; `capin` of a FREE cell that no path waits for takes it: HELD by the caravan, a new generation, the checkpoint as the
registers and the next SPC stand; of a cell that is held, it waits. `capres` reads word 0 of a cell. The header of a line on which
no `capinit` has been performed is undefined (R177). -/
def Claims.CapsuleEntry : Prop :=
  ∀ (s : State) (m : Me) (a b d : BitVec 6) (cell : Nat), s.Cell m (m.reg a.toNat) cell → s.waitersOf cell = [] →
    s.tagOf m.key < 2 ^ 32 → m.p < 2 →
    let old := s.cellHeader cell
    let generation := (old.generation + 1) % 2 ^ 32
    (m.reg b.toNat = 0 → s.Runs m (.capinit a b) → ∃ u h, exec (.capinit a b) s = .next u
      ∧ s.wentOn u m (m.path.spc + 4) ∧ (∀ k, 64 ≤ k → k < 256 → u.rawByte (cell + k) = 0) ∧ u.cellHeader cell = h
      ∧ h.state = cellFree ∧ h.step = 0 ∧ h.glineEn = false ∧ h.holder = 0 ∧ h.behalf = 0 ∧ h.generation = generation
      ∧ h.ctx = m.blk.ctx % 2 ^ 16)
    ∧ (cell ∈ s.cells → old.state = cellFree → s.Runs m (.capin a) → ∃ u c r h, exec (.capin a) s = .next u
      ∧ s.wentOn u m (m.path.spc + 4) ∧ u.caravan? m.key = some c ∧ c.sregs = m.car.sregs ∧ c.capsule = some r ∧ r.cell = cell
      ∧ r.step = 0 ∧ r.buffer = [] ∧ r.adopter = none ∧ r.path = m.p ∧ r.generation = generation
      ∧ u.cellHeader cell = h ∧ h.state = cellHeld ∧ h.holder = s.tagOf m.key ∧ h.behalf = s.tagOf m.key ∧ h.step = 0
      ∧ h.generation = generation ∧ u.checkpoint cell
        = ((List.range 15).map (fun k => m.car.sreg (k + 1)), (BitVec.ofNat 48 (m.path.spc + 4).toNat).signExtend 64, 0))
    ∧ (old.state = cellHeld → s.Runs m (.capin a) → ∃ u, exec (.capin a) s = .next u
      ∧ u.stood m .capsule ∧ u.waitersOf cell = [m.key * 2 + m.p])
    ∧ (s.Runs m (.capres d a) → ∃ u v, exec (.capres d a) s = .next u ∧ s.wentOn u m (m.path.spc + 4)
      ∧ u.holds m.key d v ∧ (cell ∈ s.cells → v = BitVec.ofNat 64 (s.homeNat cell 8)))

/-- R178, R182 to R184: in the body of the capsule that it holds, a caravan's `capstep` writes its checkpoint and counts the step;
`capout` writes the result and makes the cell FREE. A holder that the header no longer names raises CAPSULE_SCOPE. -/
def Claims.CapsuleSteps : Prop :=
  ∀ (s : State) (m : Me) (r : CapRole), m.car.capsule = some r → s.quiet r.cell 512 → m.path.fences = [] →
    s.monitor.replay = none → m.slot < 64 → r.cell ∈ s.cells → r.cell + 512 ≤ hbmBytes →
    let h := s.cellHeader r.cell
    let named := h.state = cellHeld ∧ h.holder = s.tagOf m.key ∧ h.generation = r.generation ∧ h.step = r.step
    (¬ named → Traps s m .capstep codeCapsuleScope 1 0)
    ∧ (named → r.buffer = [] → s.Runs m .capstep → ∃ u c, exec .capstep s = .next u ∧ s.wentOn u m (m.path.spc + 4)
      ∧ u.caravan? m.key = some c ∧ c.capsule = some { r with step := r.step + 1, count := 0 }
      ∧ (u.cellHeader r.cell).step = r.step + 1 ∧ (u.cellHeader r.cell).state = cellHeld ∧ u.checkpoint r.cell
        = ((List.range 15).map (fun k => m.car.sreg (k + 1)), (BitVec.ofNat 48 (m.path.spc + 4).toNat).signExtend 64, r.step + 1))
    ∧ (named → r.buffer = [] → r.adopter = none → h.behalf = h.holder → s.waitersOf r.cell = [] →
      s.Runs m .capout → ∃ u c, exec .capout s = .next u ∧ s.wentOn u m (m.path.spc + 4) ∧ u.caravan? m.key = some c
      ∧ c.capsule = none ∧ c.sregs = m.car.sregs ∧ (u.cellHeader r.cell).state = cellFree
      ∧ (∀ k < 4, u.homeNat (r.cell + 192 + 8 * k) 8 = (m.car.sreg (k + 1)).toNat))

/-- capinit, capin, capstep, capout and capres. -/
def Obligations.CapsuleInstructions : Prop := Claims.CapsuleEntry ∧ Claims.CapsuleSteps

/-- R191, R192: `obres` writes a reservation record, `obfmt` the format of a valid one, and `obrel` makes one invalid; a record
outside the formats, the claim or the alignments raises OB_FORMAT, and so does `obfmt` of an invalid one. -/
def Claims.Reservations : Prop :=
  ∀ (s : State) (m : Me) (k : BitVec 4) (a b : BitVec 6),
    let range := (m.reg a.toNat).toNat
    let f := (m.reg b.toNat).toNat
    let new := recordFrom (range % 2 ^ 18) (range / 2 ^ 18 % 2 ^ 18) f
    let set (r : ObRecord) := s.modMatrix m.core (fun x => { x with records := Tab.set x.records k.toNat r })
    (new.admitted m.blk.pk.ob → Completes s m (.obres k a b) (set new))
    ∧ (¬ new.admitted m.blk.pk.ob → ∃ cause, 1 ≤ cause ∧ cause ≤ 3 ∧ Traps s m (.obres k a b) codeObFormat cause 0)
    ∧ (∀ r, Tab.get? (s.core m.core).mat.records k.toNat = some r →
      ((recordFrom r.base r.length f).admitted m.blk.pk.ob → Completes s m (.obfmt k b) (set (recordFrom r.base r.length f))))
    ∧ (Tab.get? (s.core m.core).mat.records k.toNat = none → Traps s m (.obfmt k b) codeObFormat 0 0)
    ∧ Completes s m (.obrel k) (s.modMatrix m.core (fun x => { x with records := Tab.erase x.records k.toNat }))

/-- R197, R198, R200: each form of `mma` copies its record and operation word into the core's queue: tile, group, sequence number,
chunk and B format. Its group has one member in each quadrant of every core that the form spans. -/
def Claims.MatrixMultiply : Prop :=
  ∀ (s : State) (m : Me) (d a k : BitVec 6) (bar : BitVec 4) (bitmap pair : Bool) (r : ObRecord) (g : Group),
    let i : Instr := if pair then (if bitmap then .mmaPairBm d a k bar else .mmaPair d a k bar)
      else if bitmap then .mmaBm d a k bar else .mma d a k bar
    let w := (m.reg a.toNat).toNat
    let chunk := w % 2 ^ 16
    let bfmt := w / 2 ^ 32 % 2 ^ 4
    let bblk := w / 2 ^ 36 % 2 ^ 3
    let half := m.car.half
    let four (x : BitVec 64) : Prop := ∀ q < 4, ((List.range 16).countP (fun n => x.getLsbD (16 * q + n))) = 1
    m.blk.groups[w / 2 ^ 24 % 2 ^ 8]? = some g →
    (if pair then four g.members ∧ four g.partner ∧ 1 < m.blk.halves.length ∧ half = 0
      else four (if half = 0 then g.members else g.partner) ∧ (if 1 - half = 0 then g.members else g.partner) = 0) →
    Tab.get? (s.core m.core).mat.records k.toNat = some r → aFormatOk r.fmt r.blkLen = true → bFormatOk bfmt bblk = true →
    384 / formatBits r.fmt = 384 / formatBits bfmt → (bitmap = true → r.bmpEn = true) →
    (chunkEnds r chunk bitmap).all (· ≤ r.bytes) = true → d.toNat < m.blk.pk.acc →
    s.queuesMatrix m i bar (fun o => o.form = .mma bitmap pair ∧ o.tile = d.toNat ∧ o.group = w / 2 ^ 24 % 2 ^ 8
      ∧ o.seq = w / 2 ^ 16 % 2 ^ 8 ∧ o.chunk = chunk ∧ o.bfmt = bfmt ∧ o.bblk = bblk ∧ o.record = r
      ∧ o.abort = s.lostPosts o m.core)

/-- R198, R200, R204 to R207: `mzero`, `macc.ld` and `macc.st` enter the matrix queue, a tile outside the block's claim raises
ACC_RANGE and an unaligned access MISALIGNED; `mwait` waits for the caravan's operations, raises their earliest fault or tells
whether one consumed poison; `mstat` reads a status counter. -/
def Claims.MatrixQueue : Prop :=
  ∀ (s : State) (m : Me) (d a b k : BitVec 6) (bar : BitVec 4),
    let mat := (s.core m.core).mat
    let addr := m.reg a.toNat
    let stride := m.reg b.toNat
    let on := addr.toNat % 4 = 0 ∧ stride.toNat % 4 = 0
    let busy := ∃ o ∈ mat.queue ++ mat.running.toList, o.caravan = m.car.uid
    let outs := m.car.matrixOutcomes
    (d.toNat < m.blk.pk.acc →
      s.queuesMatrix m (.mzero d bar) bar (fun o => o.form = .zero ∧ o.tile = d.toNat ∧ o.abort = false)
      ∧ (on → s.queuesMatrix m (.maccLd d a b bar) bar (fun o =>
          o.form = .load ∧ o.tile = d.toNat ∧ o.addr = addr ∧ o.stride = stride ∧ o.bursts = m.path.laneq.length
          ∧ o.abort = false)
        ∧ s.queuesMatrix m (.maccSt d a b bar) bar (fun o =>
          o.form = .store ∧ o.tile = d.toNat ∧ o.addr = addr ∧ o.stride = stride ∧ o.abort = false))
      ∧ (¬ on → Traps s m (.maccLd d a b bar) codeMisaligned 2 addr ∧ Traps s m (.maccSt d a b bar) codeMisaligned 2 addr))
    ∧ (m.blk.pk.acc ≤ d.toNat → ∀ i ∈ [Instr.mzero d bar, .maccLd d a b bar, .maccSt d a b bar], Traps s m i codeAccRange 0 0)
    ∧ (busy → Stalls s m (.mwait d) .completion)
    ∧ (¬ busy → (∀ o ∈ outs, o.fault = none) → s.Runs m (.mwait d) → ∃ u c, exec (.mwait d) s = .next u
      ∧ s.wentOn u m (m.path.spc + 4) ∧ u.holds m.key d (if outs.any (fun o => o.poison) then 1 else 0)
      ∧ u.caravan? m.key = some c ∧ c.matrixOutcomes = [])
    ∧ (∀ o code cause at_, ¬ busy → o ∈ outs → o.fault = some (code, cause, at_) →
      (∀ x ∈ outs, x.fault.isSome → x ≠ o → o.order < x.order) → s.Runs m (.mwait d) → exec (.mwait d) s =
        .next ((s.keep s m).raiseTrap m.key m.p { m.trap code cause at_ with outcomes := outs }))
    ∧ Gives s m (.mstat d k) d (BitVec.ofNat 64 (Tab.getD mat.counters k.toNat 0))

/-- Operand-buffer records, every form of mma, mzero, macc.ld, macc.st, mwait and mstat. -/
def Obligations.MatrixInstructions : Prop := Claims.Reservations ∧ Claims.MatrixMultiply ∧ Claims.MatrixQueue

/-- R210, R211, R215 to R229: a caravan of the dune block puts each dune command into the array's queue with the operands that its
registers name; a memory operand is aligned to 64 bytes, a range lies in 1,024 bits, resident commands need resident mode in the
issue view, `dstream` streamed mode, `dlink` a core of the package other than its own, and `dsweep` work to do, an array that is
not SUSPECT, unless it replays, and no lost horizon. -/
def Claims.DuneCommands : Prop :=
  ∀ (s : State) (m : Me) (a b k : BitVec 6) (bar : BitVec 4), m.blk.pk.dune = true →
    let d := (s.core m.core).dune
    let va := m.reg a.toNat
    let w := va.toNat
    let v := (m.reg b.toNat).toNat
    let first := v % 2 ^ 10
    let count := v / 2 ^ 10 % 2 ^ 11
    (va.toNat % 64 = 0 →
      s.queuesDune m (.dloadPairs a bar) bar (.pairs va) ∧ s.queuesDune m (.dinit a bar) bar (.init va)
      ∧ s.queuesDune m (.dread a k bar) bar (.read va k.toNat)
      ∧ (d.issueStreamed = false → s.queuesDune m (.dclamp a bar) bar (.clamp va)
        ∧ (1 ≤ count → first + count ≤ 1024 → s.queuesDune m (.dload a b bar) bar (.load va first count)
          ∧ s.queuesDune m (.dbias a b bar) bar (.bias va first count)))
      ∧ (d.issueStreamed = true → 1 ≤ v % 2 ^ 9 → v % 2 ^ 9 ≤ 256 →
        s.queuesDune m (.dstream a b bar) bar (.stream va (v % 2 ^ 9))))
    ∧ (va.toNat % 64 ≠ 0 → ∀ i ∈ [Instr.dloadPairs a bar, .dinit a bar, .dread a k bar, .dclamp a bar, .dload a b bar, .dbias a b bar,
      .dstream a b bar], Traps s m i codeMisaligned 2 va)
    ∧ s.queuesDune m (.dclr k bar) bar (.clear k.toNat)
    ∧ (∀ src, placeCore m.core (w / 2 ^ 8 % 2 ^ 12) = some src → w / 2 ^ 8 % 2 ^ 12 ≠ 0 →
      w / 2 ^ 16 % 2 ^ 2 ≠ 2 → w / 2 ^ 18 % 2 ^ 2 ≠ 2 → s.queuesDune m (.dlink a bar) bar
        (.link (w / 2 ^ 34 % 2 = 1) (w / 2 ^ 20 % 2 ^ 14) src (w % 2 ^ 8)))
    ∧ (w / 2 ^ 16 % 2 ^ 2 = 2 ∨ w / 2 ^ 18 % 2 ^ 2 = 2 → Traps s m (.dlink a bar) codeIllegal 1 0)
    ∧ (w % 2 ^ 48 ≠ 0 → (d.issueReplay = true ∨ s.healthOf m.core ≠ 1) → d.lost = false → s.queuesDune m (.dsweep a bar) bar
      (.sweep (w % 2 ^ 32) (w / 2 ^ 32 % 2 ^ 16) (w / 2 ^ 48 % 2 = 1)))
    ∧ (w % 2 ^ 48 = 0 → Traps s m (.dsweep a bar) codeDuneConfig 1 0)
    ∧ (w % 2 ^ 48 ≠ 0 → d.issueReplay = false → s.healthOf m.core = 1 → Traps s m (.dsweep a bar) codeDuneBias 0 0)
    ∧ (w % 2 ^ 48 ≠ 0 → (d.issueReplay = true ∨ s.healthOf m.core ≠ 1) → d.lost = true → Traps s m (.dsweep a bar) codeHorizonLost 0 0)

/-- R60, R212, R216: `dcfg` reads its record of 32 bytes and checks it at issue, and queues the configuration that its fields
give; commands issued after it see its mode. -/
def Claims.DuneConfigure : Prop :=
  ∀ (s : State) (m : Me) (a : BitVec 6) (bar : BitVec 4) (t : Translation), m.blk.pk.dune = true →
    let w := s.seen m t (m.reg a.toNat) 32
    let i : Instr := .dcfg a bar
    s.Reach m (m.reg a.toNat) 32 t →
    (configOk w (4096 * m.blk.pk.scratch) = true → s.Runs m i → m.ready bar → (s.core m.core).dune.queue.length < 8 →
      ∃ u x c, exec i s = .next u ∧ s.wentOn u m (m.path.spc + 4) ∧ x.form = .config c ∧ x.bar = bar.toNat
        ∧ (u.core m.core).dune.queue = (s.core m.core).dune.queue ++ [x] ∧ u.countedOn m bar
        ∧ c.replay = (w % 2 = 1) ∧ c.streamed = (w / 2 % 2 = 1) ∧ c.stale = w / 2 ^ 37 % 2 ^ 3 ∧ c.beta = w / 2 ^ 48 % 2 ^ 16
        ∧ c.key = BitVec.ofNat 64 (w / 2 ^ 64) ∧ c.timeout = w / 2 ^ 128 % 2 ^ 32 ∧ c.nbits = w / 2 ^ 200 % 2 ^ 15
        ∧ c.stateOff = w / 2 ^ 224 % 2 ^ 19
        ∧ c.order = (List.range (w / 2 ^ 32 % 2 ^ 3 + 1)).map (fun p => w / 2 ^ (8 + 3 * p) % 2 ^ 3)
        ∧ (u.core m.core).dune.issueStreamed = c.streamed ∧ (u.core m.core).dune.issueReplay = c.replay
        ∧ (u.core m.core).dune.config = (s.core m.core).dune.config)
    ∧ (configOk w (4096 * m.blk.pk.scratch) = false → s.Runs m i → ∃ u : State,
      exec i s = .next ((s.keep u m).raiseTrap m.key m.p (m.trap codeDuneConfig 1 0)))

/-- R60, R210, R230: `dmon` and `dmon.clr` read the status word or the closed window of a witness bit at once, and `dmon.clr`
clears the lost flag; outside the dune block every dune instruction raises DUNE_CONFIG. -/
def Claims.DuneMonitor : Prop :=
  ∀ (s : State) (m : Me) (d k a b : BitVec 6) (bar : BitVec 4),
    let x := (s.core m.core).dune
    let win := Tab.getD x.witness (k.toNat - 1) Witness.blank
    let word : Word := if k = 0 then BitVec.ofNat 64 (s.healthOf m.core % 4 + 4 * bit x.config.replay + 8 * bit x.config.streamed
        + 2 ^ 7 * bit x.lost + 2 ^ 24 * (x.phase % 8) + 2 ^ 32 * (x.sweeps % 2 ^ 32))
      else BitVec.ofNat 64 (win.closedOnes + 2 ^ 32 * win.closedAgree)
    let place := (m.reg a.toNat).toNat / 2 ^ 8
    (m.blk.pk.dune = false → place / 2 ^ 8 % 2 ^ 2 ≠ 2 → place / 2 ^ 10 % 2 ^ 2 ≠ 2 → Traps s m (.dlink a bar) codeDuneConfig 0 0)
    ∧ (m.blk.pk.dune = true → Gives s m (.dmon d k) d word
      ∧ Completes s m (.dmonClr d k) ((s.modDune m.core (fun y => { y with lost := false })).wrote m d word))
    ∧ (m.blk.pk.dune = false → ∀ i ∈ [Instr.dmon d k, .dmonClr d k, .dcfg a bar, .dload a b bar, .dloadPairs a bar, .dstream a b bar,
      .dbias a b bar, .dclamp a bar, .dinit a bar, .dsweep a bar, .dread a k bar, .dclr k bar], Traps s m i codeDuneConfig 0 0)

/-- Every dune instruction enters the array's queue, or reads its monitor, or raises what the spec names. -/
def Obligations.DuneInstructions : Prop := Claims.DuneCommands ∧ Claims.DuneConfigure ∧ Claims.DuneMonitor

/-- R312, R316 to R320: `remit` to a pool with a FREE slot commits a record: the lowest FREE slot becomes PENDING with the next
commit number, one deeper than its block's, and `sd` is 0; to a full pool it writes 1 and counts it, and `remit.w` waits there. A
target that is no node, and a block that no launcher started, raise ILLEGAL_OP. -/
def Claims.Emit : Prop :=
  ∀ (s : State) (m : Me) (d a b : BitVec 6) (r : RecordBlock) (g : GraphSlot) (x : GraphRun) (n : Node),
    let w := (m.reg b.toNat).toNat
    let t := w % 2 ^ 6
    let nd := graphNode g.desc t
    let payload := leNat ((List.range (nd.size / 8)).flatMap (fun k => leBytes 8 (m.reg (a.toNat + k)).toNat))
    (m.blk.record = none → ∀ i ∈ [Instr.remit d a b, .remitj d a b, .remitW a b, .rdone, .gquery d a, .gcount d a],
      Traps s m i codeIllegal 5 0)
    ∧ (s.inGraph m r g x → graphNodes g.desc ≤ t → Traps s m (.remit d a b) codeIllegal 4 0)
    ∧ (s.inGraph m r g x → t < graphNodes g.desc → nd.join = false → 1 ≤ a.toNat → a.toNat + nd.size / 8 - 1 ≤ 60 →
      Tab.get? x.nodes t = some n → n.served = [] → n.waiters = [] → m.path.fences = [] →
      (graphDepth g.desc < r.depth + 1 → Traps s m (.remit d a b) codeRecDepth 0 0)
      ∧ (r.depth + 1 ≤ graphDepth g.desc → ∀ k z, n.lowestFree nd.slots = some k →
        (s.emitted m).writeSlot m.blk.ctx nd k payload = .ok () z → z.graphs = s.graphs → z.caravans = (s.emitted m).caravans →
        z.focus = s.focus → z.blocks = (s.emitted m).blocks →
        (s.Runs m (.remit d a b) → ∃ u y o, exec (.remit d a b) s = .next u ∧ s.wentOn u m (m.path.spc + 4) ∧ u.holds m.key d 0
          ∧ u.nodeIn r.graph t y o ∧ (o.slot k).state = .pending ∧ (o.slot k).key = n.commits ∧ (o.slot k).depth = r.depth + 1
          ∧ o.commits = n.commits + 1 ∧ y.committed = x.committed + 1 ∧ u.writes = z.writes)
        ∧ (s.Runs m (.remitW a b) → ∃ u y o, exec (.remitW a b) s = .next u ∧ s.wentOn u m (m.path.spc + 4)
          ∧ u.nodeIn r.graph t y o ∧ (o.slot k).state = .pending ∧ (o.slot k).key = n.commits))
      ∧ (r.depth + 1 ≤ graphDepth g.desc → n.lowestFree nd.slots = none →
        (s.Runs m (.remit d a b) → ∃ u y o, exec (.remit d a b) s = .next u ∧ s.wentOn u m (m.path.spc + 4) ∧ u.holds m.key d 1
          ∧ u.nodeIn r.graph t y o ∧ o = n ∧ y.fulls = x.fulls + 1)
        ∧ (s.Runs m (.remitW a b) → ∃ u y o, exec (.remitW a b) s = .next u ∧ u.stood m .busy ∧ u.nodeIn r.graph t y o
          ∧ o.waiters = [⟨m.key * 2 + m.p, w, payload⟩])))

/-- R319: `remitj` of a new key takes the lowest FREE slot and leaves its count minus one, and one of a counting key lowers it;
the last one commits the record, and `sd` is the count left. -/
def Claims.EmitJoin : Prop :=
  ∀ (s : State) (m : Me) (d a b : BitVec 6) (r : RecordBlock) (g : GraphSlot) (x : GraphRun) (n : Node) (k : Nat) (z : State),
    let w := (m.reg b.toNat).toNat
    let t := w % 2 ^ 6
    let key := w / 2 ^ 32 % 2 ^ 32
    let nd := graphNode g.desc t
    let payload := leNat ((List.range (nd.size / 8)).flatMap (fun j => leBytes 8 (m.reg (a.toNat + j)).toNat))
    let i : Instr := .remitj d a b
    s.inGraph m r g x → t < graphNodes g.desc → nd.join = true → 1 ≤ a.toNat → a.toNat + nd.size / 8 - 1 ≤ 60 →
    w / 2 ^ 8 % 2 ^ 8 ≠ 0 → Tab.get? x.nodes t = some n → n.served = [] → n.waiters = [] →
    m.path.fences = [] → r.depth + 1 ≤ graphDepth g.desc →
    (s.emitted m).writeSlot m.blk.ctx nd k payload = .ok () z → z.graphs = s.graphs → z.caravans = (s.emitted m).caravans →
    z.focus = s.focus → z.blocks = (s.emitted m).blocks → s.Runs m i →
    (n.entry key = none → n.lowestFree nd.slots = some k → ∃ u y o, exec i s = .next u
      ∧ s.wentOn u m (m.path.spc + 4) ∧ u.holds m.key d (BitVec.ofNat 64 (w / 2 ^ 8 % 2 ^ 8 - 1)) ∧ u.nodeIn r.graph t y o
      ∧ (o.slot k).count = w / 2 ^ 8 % 2 ^ 8 - 1 ∧ (o.slot k).depth = r.depth + 1
      ∧ (o.slot k).state = (if w / 2 ^ 8 % 2 ^ 8 = 1 then .pending else .counting))
    ∧ (n.entry key = some k → (n.slot k).state = .counting → ∃ u y o, exec i s = .next u
      ∧ s.wentOn u m (m.path.spc + 4) ∧ u.holds m.key d (BitVec.ofNat 64 ((n.slot k).count - 1)) ∧ u.nodeIn r.graph t y o
      ∧ (o.slot k).count = (n.slot k).count - 1 ∧ (o.slot k).depth = max (n.slot k).depth (r.depth + 1)
      ∧ (o.slot k).state = (if (n.slot k).count - 1 = 0 then .pending else .counting))

/-- R321, R322: `rdone` frees the records that its block holds, which its node's pool then has no more; `gquery` gives the counts
of a node's records and blocks, and `gcount` a counter of the run, the block's depth or its node. -/
def Claims.RecordQueries : Prop :=
  ∀ (s : State) (m : Me) (d a : BitVec 6) (r : RecordBlock) (g : GraphSlot) (x : GraphRun), s.inGraph m r g x →
    let nd := Tab.getD x.nodes a.toNat default
    let count (st : SlotState) := (nd.pool.filter (fun p => p.2.state = st)).length
    let taken := (nd.pool.filter (fun p => p.2.state ≠ .free)).length
    (graphNodes g.desc ≤ a.toNat → Gives s m (.gquery d a) d 0)
    ∧ (a.toNat < graphNodes g.desc → Gives s m (.gquery d a) d (BitVec.ofNat 64 (count .pending % 2 ^ 16
      + 2 ^ 16 * (((graphNode g.desc a.toNat).slots - taken) % 2 ^ 16) + 2 ^ 32 * (s.nodeBlocks r.graph (some a.toNat) % 2 ^ 16)
      + 2 ^ 48 * (nd.waiters.length % 2 ^ 16))))
    ∧ Gives s m (.gcount d 0) d (BitVec.ofNat 64 x.committed) ∧ Gives s m (.gcount d 1) d (BitVec.ofNat 64 x.blocks)
    ∧ Gives s m (.gcount d 2) d (BitVec.ofNat 64 x.partials) ∧ Gives s m (.gcount d 3) d (BitVec.ofNat 64 x.fulls)
    ∧ Gives s m (.gcount d 4) d (BitVec.ofNat 64 r.depth) ∧ Gives s m (.gcount d 5) d (BitVec.ofNat 64 r.node)
    ∧ (∀ n, m.path.drained = true → Tab.get? x.nodes r.node = some n → n.waiters = [] → r.held ≠ [] → s.Runs m .rdone →
      ∃ u b q y o, exec .rdone s = .next u ∧ s.wentOn u m (m.path.spc + 4) ∧ Tab.get? u.blocks m.car.block = some b
        ∧ b.record = some q ∧ q.held = [] ∧ u.nodeIn r.graph r.node y o ∧ ∀ k ∈ r.held, (o.slot k).state = .free)

/-- remit, remit.w, remitj, rdone, gquery and gcount. -/
def Obligations.RecordInstructions : Prop := Claims.Emit ∧ Claims.EmitJoin ∧ Claims.RecordQueries

/-- R39 to R44, R71, R74, R120, R121: what a lane word leaves. The burst's view of a register changes in the destination, of 64
bits in the one after it too, in the lanes that receive the result and where write-back is not suppressed; a predicate result, and
a status predicate, change their predicate in the lanes of the result. The latch of the position holds the result, each queue
named is popped once, flags and draws add up, and the burst moves on. The caravan's own registers, predicates, queues and control
registers, every other path and caravan, and all of memory are as before until the burst commits. -/
def Claims.LaneEffects : Prop :=
  ∀ (s : State) (m : Me) (b : Burst) (x : Lane) (o : LaneOut), s.Issues m b → x.m = m → x.b = b →
    let t := s.laneDone x o
    t = { s with caravans := t.caravans, netin := t.netin, free := t.free } ∧ (∀ k, k ≠ m.key → t.caravan? k = s.caravan? k)
    ∧ ∃ d ps, t.caravan? m.key = some { m.car with paths := ps }
      ∧ Tab.get? ps m.p = some { m.path with burst := some d, laneStall := none } ∧ (∀ q, q ≠ m.p → Tab.get? ps q = Tab.get? m.car.paths q)
      ∧ (∀ r, ∀ l < 32, ({ x with b := d } : Lane).reg r l = match resultWords o.res with
        | some (mask, lo, hi) =>
          if x.f.nw = 0 ∧ hasLane mask l ∧ hi.isSome ∧ r = x.f.d.toNat + 1 then (hi.getD []).getD l 0
          else if x.f.nw = 0 ∧ hasLane mask l ∧ r = x.f.d.toNat then lo.getD l 0
          else x.reg r l
        | none => x.reg r l)
      ∧ (∀ p, p ≠ 0 → ∀ l < 32, (({ x with b := d } : Lane).pred p).getLsbD l =
        if o.status.isSome ∧ p = (o.status.getD (0, 0)).1 ∧ x.active.getLsbD l then (o.status.getD (0, 0)).2.getLsbD l
        else match o.res with
          | .pred mask v => if p = x.f.d.toNat ∧ mask.getLsbD l then v.getLsbD l else (x.pred p).getLsbD l
          | _ => (x.pred p).getLsbD l)
      ∧ (∀ k, Tab.get? d.latches k = if k = b.pos % 8 then (match resultWords o.res with
          | some (mask, lo, _) => some ((List.range 32).map (fun l => if hasLane mask l then lo.getD l 0
            else if x.f.nw = 0 then x.reg x.f.d.toNat l else BitVec.ofNat 32 (Config.freeNat s.free l)))
          | none => none)
        else Tab.get? b.latches k)
      ∧ (∀ q, Tab.getD d.pops q 0 = Tab.getD b.pops q 0 + if q ∈ queuesOf x.i x.f then 1 else 0)
      ∧ d.flags = b.flags ||| o.flags ∧ d.draws = b.draws + o.draws ∧ d.stores = b.stores ∧ d.hits = b.hits ∧ d.deferred = b.deferred
      ∧ d.entry = b.entry
      ∧ (b.pos < b.entry.len → d.pos = b.pos + 1 ∧ d.rep = b.rep ∧ d.issued = false)
      ∧ (b.entry.len ≤ b.pos → b.rep < b.entry.rep → d.pos = 0 ∧ d.rep = b.rep + 1 ∧ d.issued = false)
      ∧ (b.entry.len ≤ b.pos → b.entry.rep ≤ b.rep → d.issued = true)

/-- R39, R43, R44, R73, R120, R152, R378: a lane word raises ILLEGAL_OP for its fields, with their cause, for a register outside
the budget, with cause 2, and where a word of the commit does not stand last in a burst without repetition, with cause 5; then,
unless its own entry adds an ILLEGAL_OP (R157, R194), LATCH_INVALID for a latch that holds nothing; and it waits for an empty
operand queue. -/
def Claims.LaneStops : Prop :=
  ∀ (s : State) (m : Me) (b : Burst) (i : Instr) (op : Nat) (f : LaneFields), laneParts i = some (op, f) → s.Issues m b →
    let budget := ∀ r ∈ highestRegs i f, r < m.car.lbud
    let last := atCommit i = true → b.entry.len ≤ b.pos ∧ b.entry.rep = 0
    let latches := ∀ k ∈ latchesOf i f, (Tab.get? b.latches k).isSome
    let entry := m.entryAdmits s b i
    (∀ e, i.check = some e → LaneTraps s m b i codeIllegal e.code 0)
    ∧ (i.check = none → ¬ budget → LaneTraps s m b i codeIllegal 2 0)
    ∧ (i.check = none → budget → ¬ last → LaneTraps s m b i codeIllegal 5 0)
    ∧ (i.check = none → budget → last → entry → ¬ latches → LaneTraps s m b i codeLatch 0 0)
    ∧ (i.check = none → budget → last → entry → latches →
      (∃ q ∈ queuesOf i f, queueHead m.car b q = none ∨ siblingPops m q = true) → exec i s = .next (s.laneWaits m .queueEmpty))

/-- What a lane word leaves in its burst and what it does not change; what it raises. -/
def Obligations.LaneWords : Prop := Claims.LaneEffects ∧ Claims.LaneStops

/-- R91, R126: the integer words, on 32 bits or on 64: sums, differences and products narrowed once, wrapped or saturated; the
high half; minima, maxima and magnitudes; bitwise operations, shifts by the low bits of a 32-bit source, counts, moves and
selections; and the compares. -/
def Obligations.LaneIntegers : Prop :=
  ∀ (s : State) (m : Me) (b : Burst) (f : LaneFields),
    let uns := f.imm.getLsbD 0
    let int {n : Nat} (v : BitVec n) : Int := if uns then v.toNat else v.toInt
    let fit (n : Nat) (v : Int) : BitVec n :=
      if f.sat then BitVec.ofInt n (if uns then max 0 (min v (2 ^ n - 1)) else max (-2 ^ (n - 1)) (min v (2 ^ (n - 1) - 1)))
      else BitVec.ofInt n v
    let gives (i : Instr) (v : (n : Nat) → Nat → LaneInts n → BitVec n) : Prop := LaneInteger s m b i f v
    gives (.vadd f) (fun n _ x => fit n (int x.a + int x.b)) ∧ gives (.vsub f) (fun n _ x => fit n (int x.a - int x.b))
    ∧ gives (.vmul f) (fun n _ x => fit n (int x.a * int x.b)) ∧ gives (.vmad f) (fun n _ x => fit n (int x.a * int x.b + int x.c))
    ∧ gives (.vmulh f) (fun n _ x => BitVec.ofInt n (int x.a * int x.b / 2 ^ n))
    ∧ gives (.vmin f) (fun _ _ x => if int x.b < int x.a then x.b else x.a)
    ∧ gives (.vmax f) (fun _ _ x => if int x.a < int x.b then x.b else x.a)
    ∧ gives (.vabs f) (fun _ _ x => if x.a.msb then -x.a else x.a)
    ∧ gives (.vand f) (fun _ _ x => x.a &&& x.b) ∧ gives (.vor f) (fun _ _ x => x.a ||| x.b)
    ∧ gives (.vxor f) (fun _ _ x => x.a ^^^ x.b) ∧ gives (.vnot f) (fun _ _ x => ~~~ x.a)
    ∧ gives (.vshl f) (fun _ _ x => x.a <<< x.k) ∧ gives (.vshr f) (fun _ _ x => x.a >>> x.k)
    ∧ gives (.vsra f) (fun _ _ x => x.a.sshiftRight x.k)
    ∧ gives (.vclz f) (fun n _ x => if x.a = 0 then BitVec.ofNat n n else BitVec.ofNat n (n - 1 - Nat.log2 x.a.toNat))
    ∧ gives (.vpopc f) (fun n _ x => BitVec.ofNat n ((List.range n).countP (fun i => x.a.getLsbD i)))
    ∧ (let pos := f.imm.toNat % 32
      let len := f.imm.toNat / 32 % 32 + 1
      (∃ v : (n : Nat) → Nat → LaneInts n → BitVec n, gives (.vbfx f) v ∧ ∀ n l x, ∀ i < n, (v n l x).getLsbD i =
        if i < len then x.a.getLsbD (pos + i) else f.imm.getLsbD 10 && x.a.getLsbD (pos + len - 1))
      ∧ (∃ v : (n : Nat) → Nat → LaneInts n → BitVec n, gives (.vbfi f) v ∧ ∀ n l x, ∀ i < n, (v n l x).getLsbD i =
        if pos ≤ i ∧ i < pos + len then x.a.getLsbD (i - pos) else x.b.getLsbD i))
    ∧ gives (.vsel f) (fun _ l x =>
      if ((m.laneOf b (.vsel f) f).pred (f.imm.toNat % 8)).getLsbD l = f.imm.getLsbD 3 then x.b else x.a)
    ∧ gives (.vmov f) (fun _ _ x => x.a) ∧ gives (.vli f) (fun n _ _ => f.imm.signExtend n)
    ∧ (let x := m.laneOf b (.vcmp f) f
      let n := if f.fmt = 10 then 64 else 32
      ∀ v, (∀ l < 32, holdsCode (f.imm.toNat % 16) ((x.ints n l).a.signExtend 64) ((x.ints n l).b.signExtend 64) = some (hasLane v l)) →
        LaneGives s m b (.vcmp f) f { res := .pred x.active v })

/-- R22 to R26, R47, R69, R127 to R131: the floating-point words give, in each active lane, the code and the flags of their
operation on the codes of their sources: sums, products and the fused product of one rounding, minima and maxima, the compares,
the class masks, and the functions. -/
def Claims.LaneFloats : Prop :=
  ∀ (s : State) (m : Me) (b : Burst) (f : LaneFields),
    let fpm := m.car.fpm
    let ftz := fpm.getLsbD 2
    let rm := Rounding.ofCode (if 4 ≤ f.mod.toNat / 2 % 8 then f.mod.toNat / 2 % 4 else fpm.toNat % 4)
    let sat := f.mod.getLsbD 0
    let fmt := f.mod.toNat / 16
    let gives (i : Instr) (v : Nat → Nat → Nat → Coded) : Prop :=
      LaneCoded s m b i f (fun x l => v (x.num (x.a l)) (x.num (x.bsrc l)) (x.num (x.c l)))
    gives (.vfadd f) (fun x y _ => fpAdd fmt ftz rm sat x y) ∧ gives (.vfsub f) (fun x y _ => fpSub fmt ftz rm sat x y)
    ∧ gives (.vfmul f) (fun x y _ => fpMul fmt ftz rm sat x y) ∧ gives (.vfma f) (fun x y z => fpFma fmt ftz rm sat x y z)
    ∧ gives (.vfmin f) (fun x y _ => fpMinMax fmt ftz false x y) ∧ gives (.vfmax f) (fun x y _ => fpMinMax fmt ftz true x y)
    ∧ gives (.vfclass f) (fun x _ _ => (fpClass fmt x, 0))
    ∧ gives (.vrcp f) (fun x _ _ => functionResult .rcp fmt ftz sat x)
    ∧ gives (.vrsqrt f) (fun x _ _ => functionResult .rsqrt fmt ftz sat x)
    ∧ gives (.vexp2 f) (fun x _ _ => functionResult .exp2 fmt ftz sat x)
    ∧ gives (.vlog2 f) (fun x _ _ => functionResult .log2 fmt ftz sat x)
    ∧ gives (.vtanh f) (fun x _ _ => functionResult .tanh fmt ftz sat x)
    ∧ (let x := m.laneOf b (.vfcmp f) f
      let r (l : Nat) := fpCompare fmt ftz (f.imm.toNat % 16) (x.num (x.a l)) (x.num (x.bsrc l))
      LaneGives s m b (.vfcmp f) f { res := .pred x.active (maskOf (fun l => (r l).1)),
                                     flags := joinFlags ((lanesOf x.active).map (fun l => (r l).2)) })

/-- R132 to R137: the conversions. `vcvt` between formats and integers, `vpack` of two elements into a copy of c, `vunpack` of
one, `vmxq` of the active lanes as one block, `vmxdq` and `vspq` by a block scale. -/
def Claims.LaneConversions : Prop :=
  ∀ (s : State) (m : Me) (b : Burst) (f : LaneFields),
    let ftz := m.car.fpm.getLsbD 2
    let rm := Rounding.ofCode (if 4 ≤ f.mod.toNat / 2 % 8 then f.mod.toNat / 2 % 4 else m.car.fpm.toNat % 4)
    let sat := f.mod.getLsbD 0
    let fmt := f.mod.toNat / 16
    let w := formatBits fmt
    let sel := f.imm.toNat % 8
    (let x := m.laneOf b (.vcvt f) f
      let r (l : Nat) := convert (f.imm.toNat % 16) fmt (f.imm.getLsbD 4) ftz rm sat (x.a l)
      let flags := joinFlags ((lanesOf x.active).map (fun l => (r l).2))
      LaneGives s m b (.vcvt f) f (if fmt = 10 then { res := .pairs x.active ((List.range 32).map (fun l => (r l).1)), flags := flags }
        else { res := .lanes x.active ((List.range 32).map (fun l => BitVec.ofNat 32 (r l).1)), flags := flags }))
    ∧ (∃ v : Lane → Nat → Coded, LaneCoded s m b (.vpack f) f v ∧ ∀ x l,
      let p := packElement fmt (f.imm.getLsbD 3) ftz rm sat (x.a l)
      let q := packElement fmt (f.imm.getLsbD 3) ftz rm sat (x.bsrc l)
      (v x l).2 = p.2 ||| q.2 ∧ ∀ i < 32, (v x l).1.testBit i =
        if w * (sel + 1) ≤ i ∧ i < w * (sel + 2) then q.1.testBit (i - w * (sel + 1))
        else if w * sel ≤ i ∧ i < w * (sel + 1) then p.1.testBit (i - w * sel) else (x.c l).testBit i)
    ∧ LaneCoded s m b (.vunpack f) f (fun x l => unpackElement fmt (f.imm.getLsbD 3) (x.a l / 2 ^ (w * sel) % 2 ^ w))
    ∧ (let x := m.laneOf b (.vmxq f) f
      let code (l : Nat) := flushOperand ftz 0 (x.a l)
      let r := mxScale fmt rm ((List.range 32).map (fun l => if hasLane x.active l then decode (formatOf 0) (code l) else .zero false))
      LaneGives s m b (.vmxq f) f
        { res := .lanes x.active ((List.range 32).map (fun l => BitVec.ofNat 32 (r.1 * 256 + (r.2.getD l (0, 0)).1))),
          flags := (if (lanesOf x.active).any (fun l => isSignalling (formatOf 0) (code l)) then flagNV else 0)
            ||| joinFlags ((lanesOf x.active).map (fun l => (r.2.getD l (0, 0)).2)) })
    ∧ LaneCoded s m b (.vmxdq f) f (fun x l => dequantise fmt ftz rm sat (x.a l) (x.bsrc l))
    ∧ LaneCoded s m b (.vspq f) f (fun x l => quantiseSp8 ftz (x.a l) (x.bsrc l))

/-- The floating-point lane words and the conversions give the codes and flags of their operations. -/
def Obligations.LaneFloats : Prop := Claims.LaneFloats ∧ Claims.LaneConversions

/-- R131: `vfclass` writes a mask of one bit in each active lane, by the class of the code in `a`: its sign, its exponent field
and its fraction field say which, and of a NaN with a quiet bit that bit. It raises no flag. -/
def Obligations.LaneClass : Prop :=
  ∀ (s : State) (m : Me) (b : Burst) (f : LaneFields),
    let x := m.laneOf b (.vfclass f) f
    let man := [23, 10, 7].getD f.fmt 0
    let exp := [8, 5, 8].getD f.fmt 0
    let fraction (l : Nat) := x.a l % 2 ^ man
    let exponent (l : Nat) := x.a l / 2 ^ man % 2 ^ exp
    let negative (l : Nat) : Prop := x.a l / 2 ^ (man + exp) % 2 = 1
    ∀ k : Nat → Nat, f.fmt ≤ 2 →
      (∀ l < 32, exponent l = 2 ^ exp - 1 → fraction l = 0 → (negative l → k l = 0) ∧ (¬ negative l → k l = 7)) →
      (∀ l < 32, exponent l = 2 ^ exp - 1 → fraction l ≠ 0 → k l = if fraction l / 2 ^ (man - 1) = 1 then 9 else 8) →
      (∀ l < 32, exponent l = 0 → fraction l = 0 → (negative l → k l = 3) ∧ (¬ negative l → k l = 4)) →
      (∀ l < 32, exponent l = 0 → fraction l ≠ 0 → (negative l → k l = 2) ∧ (¬ negative l → k l = 5)) →
      (∀ l < 32, exponent l ≠ 0 → exponent l ≠ 2 ^ exp - 1 → (negative l → k l = 1) ∧ (¬ negative l → k l = 6)) →
      LaneGives s m b (.vfclass f) f { res := .lanes x.active ((List.range 32).map (fun l => BitVec.ofNat 32 (2 ^ k l))) }

/-- R18 to R23, R127, R130, R131: the operations on codes. A finite code is its own rounding, in every mode and without a flag; a
NaN operand of a sum, a difference or a product gives the first one, quietened, with NV exactly for a signalling one; ∞ − ∞ and 0
× ∞ give the canonical NaN with NV; an unordered compare fails but for `ne` and `uno`; every code is of one class; and SP8
encoding takes a code at the least distance. -/
def Obligations.CodeArithmetic : Prop :=
  ∀ (fmt : Nat) (ftz sat : Bool) (rm : Rounding), fmt ≤ 5 →
    let f := formatOf fmt
    let nan (x : Nat) : Prop := decode f x = .nan
    let signal (x y : Nat) : BitVec 5 := if isSignalling f x || isSignalling f y then flagNV else 0
    (∀ x < 2 ^ formatBits fmt, ¬ nan x → (∀ n, decode f x ≠ .inf n) → roundValue f rm sat (decode f x) = (x, 0))
    ∧ (∀ x y, nan x ∨ nan y → ∀ op ∈ [fpAdd, fpSub, fpMul], op fmt false rm sat x y = (quieten f (if decode f x = .nan then x else y), signal x y))
    ∧ (∀ x y n, decode f x = .inf n → decode f y = .inf (!n) → fpAdd fmt ftz rm sat x y = (canonicalNaN f, flagNV))
    ∧ (∀ x y n k, decode f x = .inf n → decode f y = .zero k → fpMul fmt ftz rm sat x y = (canonicalNaN f, flagNV))
    ∧ (∀ x y c, nan x ∨ nan y → c ≤ 7 → (fpCompare fmt false c x y).1 = (c = 1 || c = 7))
    ∧ (∀ x, ∃ k < 10, fpClass fmt x = 2 ^ k)
    ∧ (∀ (neg : Bool) (k : Nat) (e : Int), k ≠ 0 → Machine.Dyadic.lt ⟨2, 0⟩ ⟨k, e⟩ = false → ∀ c < 256,
      let v : Machine.Dyadic := ⟨if neg then -(k : Int) else k, e⟩
      let far (x : Nat) : Machine.Dyadic := let d := (sp8Decode x).dyadic.add v.neg; ⟨d.m.natAbs, d.e⟩
      Machine.Dyadic.lt (far c) (far (sp8Encode (.fin neg k e)).1) = false)

/-- R138 to R143: the words across lanes, on predicates, and the keyed draws. A moved value comes from its source lane, zero with
the EXITED status where that lane has exited; a reduction folds its members' values, integers in any order and numbers over the
tree of R30, and a scan the members up to each lane; `vballot` and `vcompact` go by a predicate in the members; a draw is that of
R33 at the draw counter as the burst has moved it on. -/
def Obligations.LaneCross : Prop :=
  ∀ (s : State) (m : Me) (b : Burst) (f : LaneFields),
    let ftz := m.car.fpm.getLsbD 2
    let rm := Rounding.ofCode (m.car.fpm.toNat % 4)
    let fmt := f.mod.toNat / 16
    let op := f.mod.toNat / 2 % 8
    let imm := f.imm.toNat
    let moves (i : Instr) (st : Nat) (source : Lane → Nat → Option Nat) : Prop :=
      let x := m.laneOf b i f
      let gone (l : Nat) : Bool := ((source x l).map (hasLane m.car.xm)).getD false
      LaneGives s m b i f
        { res := .lanes x.active ((List.range 32).map (fun l =>
            if gone l then 0 else BitVec.ofNat 32 (x.a ((source x l).getD l)))),
          status := if st = 0 then none else some (st, maskOf gone) }
    let members (x : Lane) : List Nat := lanesOf (x.active &&& f.imm)
    let test (x : Lane) (p : Nat) : Mask := if f.mod.getLsbD 0 then ~~~ x.pred p else x.pred p
    let folds (i : Instr) (r : Lane → Nat → Coded) : Prop :=
      let x := m.laneOf b i f
      let flags := joinFlags ((members x).map (fun l => (r x l).2))
      LaneGives s m b i f (if fmt = 10 then { res := .pairs (x.active &&& f.imm) ((List.range 32).map (fun l => (r x l).1)), flags := flags }
        else { res := .lanes (x.active &&& f.imm) ((List.range 32).map (fun l => BitVec.ofNat 32 (r x l).1)), flags := flags })
    let value (x : Lane) (l : Nat) : Coded := (flushOperand ftz fmt (x.num (x.a l)), 0)
    let draws (i : Instr) (v : Word → Nat → BitVec 32) : Prop :=
      LaneGives s m b i f { res := .lanes (m.laneOf b i f).active ((List.range 32).map (v (m.car.drawctr + BitVec.ofNat 64 b.draws))),
                            draws := 1 }
    moves (.vperm f) (imm % 8) (fun x l => some (x.bsrc l % 32)) ∧ moves (.vbcast f) (imm / 32 % 8) (fun _ _ => some (imm % 32))
    ∧ moves (.vshfl f) (imm % 8) (fun _ l =>
      let n := imm / 32 % 32
      match imm / 8 % 4 with
      | 0 => if l < n then none else some (l - n)
      | 1 => if l + n > 31 then none else some (l + n)
      | 2 => some (l ^^^ n)
      | _ => some ((l + n) % 32))
    ∧ (9 ≤ fmt → folds (.vred f) (fun x _ => ((rankFold (foldInteger (formatBits fmt) op) ((members x).map x.a)).getD 0, 0)))
    ∧ (fmt ≤ 2 → folds (.vred f) (fun x _ => (treeFold (foldNode fmt op ftz rm)
        ((List.range 32).map (fun l => if l ∈ members x then some (value x l) else none))).getD (0, 0)))
    ∧ (9 ≤ fmt → folds (.vscan f) (fun x l => ((rankFold (foldInteger (formatBits fmt) op)
        (((members x).filter (fun k => if f.mod.getLsbD 0 then k < l else k ≤ l)).map x.a)).getD (foldIdentity fmt op), 0)))
    ∧ (fmt ≤ 2 → folds (.vscan f) (fun x l => (rankFold (foldNode fmt op ftz rm)
        (((members x).filter (fun k => if f.mod.getLsbD 0 then k < l else k ≤ l)).map (value x))).getD (foldIdentity fmt op, 0)))
    ∧ (let x := m.laneOf b (.vballot f) f
      let on := x.active &&& f.imm
      LaneGives s m b (.vballot f) f { res := .lanes on ((List.range 32).map (fun _ => on &&& test x f.a.toNat)) })
    ∧ (let x := m.laneOf b (.vcompact f) f
      let chosen := (members x).filter (hasLane (test x f.b.toNat))
      let packed (l : Nat) : LaneWord := ((chosen[((members x).filter (· < l)).length]?).map (fun k => BitVec.ofNat 32 (x.a k))).getD 0
      LaneGives s m b (.vcompact f) f { res := .lanes (x.active &&& f.imm) ((List.range 32).map packed) })
    ∧ (∀ i p, (i, p) ∈ ([(.pand f, fun x => x.pred f.a.toNat &&& x.pred f.b.toNat), (.por f, fun x => x.pred f.a.toNat ||| x.pred f.b.toNat),
        (.pnot f, fun x => ~~~ x.pred f.a.toNat), (.pmov f, fun x => x.pred f.a.toNat), (.pmovI f, fun _ => f.imm),
        (.pmovV f, fun x => maskOf (fun l => x.a l ≠ 0))] : List (Instr × (Lane → Mask))) →
      let x := m.laneOf b i f
      LaneGives s m b i f { res := .pred x.active (p x) })
    ∧ draws (.vrand f) (draw m.car.rkey) ∧ draws (.vrandf f) (drawF m.car.rkey)

/-- R144 to R147, R171: the lane loads read, for each active lane, the bytes of the word's width at the lane's address, offset or
place in a READY tile, with the burst's own stores in them, and extend them; the lane stores are held in the burst in ascending
order of their lanes, and nothing in memory changes until it commits. A misaligned access, one outside the scratchpad's claim or
the tile, and a partner's scratchpad in an unpaired block are faults; a tile that is not READY makes the word wait. -/
def Obligations.LaneMemory : Prop :=
  ∀ (s : State) (m : Me) (b : Burst) (f : LaneFields) (t : Nat → Translation) (h : Half) (tile : Tile),
    let size := [1, 2, 4, 8, 1, 2].getD (f.mod.toNat % 32) 4
    let extend (n : Nat) : Nat := match f.mod.toNat % 32 with
      | 4 => ((BitVec.ofNat 8 n).signExtend 32).toNat
      | 5 => ((BitVec.ofNat 16 n).signExtend 32).toNat
      | _ => n
    let result (i : Instr) (v : Nat → Nat) : LaneOut :=
      let x := m.laneOf b i f
      if size = 8 then { res := .pairs x.active ((List.range 32).map (fun l => extend (if l ∈ lanesOf x.active then v l else 0))) }
      else { res := .lanes x.active ((List.range 32).map (fun l => BitVec.ofNat 32 (extend (if l ∈ lanesOf x.active then v l else 0)))) }
    let far (x : Lane) (l : Nat) : Word := BitVec.ofNat 64 (x.pair f.a.toNat l) + f.imm.signExtend 64
    let near (x : Lane) (l : Nat) : Word := BitVec.ofNat 64 ((x.code f.a.toNat l).toNat + f.imm.toNat % 2 ^ 19)
    let half := if f.imm.getLsbD 19 then 1 - m.car.half else m.car.half
    let clean (l : Nat) (x : Lane) (base : Word) : Prop := chunkPoisoned h.scratchPoison (base + near x l).toNat size = false
    let claimed (x : Lane) (l : Nat) : Prop := (near x l).toNat + size ≤ m.blk.scratchBytes
    let reached := f.imm.getLsbD 19 = true → 1 < m.blk.halves.length
    let first (x : Lane) (l : Nat) : Prop := l ∈ lanesOf x.active ∧ ∀ k ∈ lanesOf x.active, l ≤ k
    let lines := (s.core m.core).l1Lines
    let missing (x : Lane) : List Nat := (lanesOf x.active).filter (fun l => !lines.contains (physical (t l) (far x l) / 64 / 8))
    let within (x : Lane) (l : Nat) : Word := BitVec.ofNat 64 tile.offset + near x l
    -- loads and stores of memory
    (∀ x, x = m.laneOf b (.vld f) f → s.LaneRuns m b (.vld f) f → (∀ l ∈ lanesOf x.active, s.Reach m (far x l) size (t l)) →
      lines.length + (missing x).length ≤ 256 →
      ∃ u : State, exec (.vld f) s = .next u ∧ s.sameMemory u ∧ ∃ p,
        u = { (s.modPath m.key m.p (fun y => { y with loaded := p })).laneDone x (result (.vld f)
          (fun l => leNat ((List.range size).map (s.laneByte m b (t l) (far x l))))) with cores := u.cores, monitor := u.monitor })
    ∧ (∀ x, x = m.laneOf b (.vst f) f → s.LaneRuns m b (.vst f) f → (∀ l ∈ lanesOf x.active, s.Maps m (far x l) size .write (t l)) →
      f.bound = none → exec (.vst f) s = .next ((s.holding m ((lanesOf x.active).map (fun l =>
        if inStack m.car m.blk.stackBytes (far x l).toNat size then
          { place := .stack m.key, addr := (far x l).toNat, bytes := leBytes size (x.bsrc l) }
        else { place := .mem, addr := physical (t l) (far x l), bytes := leBytes size (x.bsrc l) }))).laneDone x {}))
    ∧ (∀ i ∈ [Instr.vld f, .vst f], ∀ x l, x = m.laneOf b i f → s.LaneRuns m b i f → first x l → (far x l).toNat % size ≠ 0 →
      LaneTraps s m b i codeMisaligned 0 (far x l))
    -- the scratchpad
    ∧ (∀ x, x = m.laneOf b (.vlds f) f → s.LaneRuns m b (.vlds f) f → reached → m.blk.half? half = some h →
      (∀ l ∈ lanesOf x.active, claimed x l ∧ (near x l).toNat % size = 0 ∧ clean l x 0) →
      exec (.vlds f) s = .next (s.laneDone x (result (.vlds f)
        (fun l => leNat ((List.range size).map (fun k => m.scratchByte b half h ((near x l).toNat + k)))))))
    ∧ (∀ x, x = m.laneOf b (.vsts f) f → s.LaneRuns m b (.vsts f) f → reached → f.bound = none →
      (∀ l ∈ lanesOf x.active, claimed x l ∧ (near x l).toNat % size = 0) →
      exec (.vsts f) s = .next ((s.holding m ((lanesOf x.active).map (fun l =>
        { place := .scratch m.car.block half, addr := (near x l).toNat, bytes := leBytes size (x.bsrc l) }))).laneDone x {}))
    ∧ (∀ i ∈ [Instr.vlds f, .vsts f], ∀ x l, x = m.laneOf b i f → s.LaneRuns m b i f → first x l →
      (¬ reached → LaneTraps s m b i codeScratch 1 (near x l))
      ∧ (reached → ¬ claimed x l → LaneTraps s m b i codeScratch 0 (near x l))
      ∧ (reached → (∀ k ∈ lanesOf x.active, claimed x k) → (near x l).toNat % size ≠ 0 → LaneTraps s m b i codeMisaligned 0 (near x l)))
    -- tiles
    ∧ (∀ x, x = m.laneOf b (.vldt f) f → s.LaneRuns m b (.vldt f) f → (s.core m.core).tile ((f.tile).getD 0) = tile →
      (tile.state ≠ 0 → tile.block ≠ m.car.block → LaneTraps s m b (.vldt f) codeTile 0 0)
      ∧ (tile.state ≠ 2 → (tile.state = 0 ∨ tile.block = m.car.block) → exec (.vldt f) s = .next (s.laneWaits m .tile))
      ∧ (tile.state = 2 → tile.block = m.car.block →
        (∀ l, first x l → tile.offset + tileBytes tile.length < (within x l).toNat + size →
          LaneTraps s m b (.vldt f) codeScratch 3 (within x l))
        ∧ (∀ l, first x l → (∀ k ∈ lanesOf x.active, (within x k).toNat + size ≤ tile.offset + tileBytes tile.length) →
          (within x l).toNat % size ≠ 0 → LaneTraps s m b (.vldt f) codeMisaligned 0 (within x l))
        ∧ ((∀ l ∈ lanesOf x.active, (within x l).toNat + size ≤ tile.offset + tileBytes tile.length
            ∧ (within x l).toNat % size = 0) →
          (tile.buffer = false → m.blk.half? m.car.half = some h → (∀ l ∈ lanesOf x.active, clean l x (BitVec.ofNat 64 tile.offset)) →
            exec (.vldt f) s = .next (s.laneDone x (result (.vldt f) (fun l => leNat ((List.range size).map (fun k =>
              m.scratchByte b m.car.half h ((within x l).toNat + k)))))))
          ∧ (tile.buffer = true → (s.core m.core).mat.obPoison = 0 → exec (.vldt f) s = .next (s.laneDone x (result (.vldt f)
            (fun l => leNat ((List.range size).map (fun k => (forward m.path.storeq (.buffer m.core)
              ((within x l).toNat + k)).getD ((s.core m.core).mat.ob.read ((within x l).toNat + k)))))))))))

/-- R59, R145: a store through a bound register. The value of the lowest active lane that lies outside the register's integer
bounds is stored as it is where the action is to report, is set to the nearer bound where the action is to clamp, and raises BOUND
where the action is to trap; the burst holds the hit each time, which its commit sets and a trap leaves set (log entry 50: the
model's reading), and a value within the bounds is stored as it is. -/
def Claims.LaneBounds : Prop :=
  ∀ (s : State) (m : Me) (b : Burst) (f : LaneFields) (t : Translation) (j l : Nat) (x : Lane),
    let va : Word := BitVec.ofNat 64 (x.pair f.a.toNat l) + f.imm.signExtend 64
    let bounds := Tab.getD (s.core m.core).bndv j 0
    let control := Tab.getD (s.core m.core).bndc j 0
    let v : LaneWord := BitVec.ofNat 32 (x.bsrc l)
    let lo : LaneWord := bounds.truncate 32
    let hi : LaneWord := (bounds >>> 32).truncate 32
    let out := v.slt lo ∨ hi.slt v
    let action := control.toNat % 4
    let stores (w : LaneWord) (u : State) : Prop := exec (.vst f) s = .next ((u.holding m
      [if inStack m.car m.blk.stackBytes va.toNat 4 then { place := .stack m.key, addr := va.toNat, bytes := leBytes 4 w.toNat }
        else { place := .mem, addr := physical t va, bytes := leBytes 4 w.toNat }]).laneDone x {})
    let hit := s.hitHeld m j
    x = m.laneOf b (.vst f) f → s.LaneRuns m b (.vst f) f → lanesOf x.active = [l] → f.bound = some j → f.mod.toNat % 32 = 2 →
    s.Maps m va 4 .write t → control.getLsbD 2 = true →
    (action = 0 ∨ ¬ out → stores v s) ∧ (action = 1 → out → stores v hit)
    ∧ (action = 2 → out → stores (if v.slt lo then lo else hi) hit)
    ∧ (action = 3 → out → exec (.vst f) s = .next ((s.keep s m).raiseLane m b codeBound j va))

/-- R152 to R157, R160, R195: `vatom`, `vred.m`, `vldacq` and `vstrel` are left to the commit of their burst with the addresses
and values that their active lanes read; `mpost` leaves a post of 512 bytes with the tag of its group and sequence number, and
waits while its quadrant's eight entries are taken or a post of its tag stands; it raises ILLEGAL_OP where its caravan is not one
of four members. -/
def Claims.LaneDeferred : Prop :=
  ∀ (s : State) (m : Me) (b : Burst) (f : LaneFields),
    let far (x : Lane) (l : Nat) : Nat := (BitVec.ofNat 64 (x.pair f.a.toNat l) + f.imm.signExtend 64 : Word).toNat
    let atom (x : Lane) (l : Nat) : Nat :=
      if f.imm.getLsbD 20 then ((x.code f.a.toNat l).toNat + f.imm.toNat % 2 ^ 19) % 2 ^ 64
      else (BitVec.ofNat 64 (x.pair f.a.toNat l) + (f.imm.truncate 19).signExtend 64 : Word).toNat
    let leaves (i : Instr) (addr : Lane → Nat → Nat) : Prop :=
      let x := m.laneOf b i f
      s.LaneRuns m b i f → exec i s = .next ((s.deferred x (addr x)).laneDone x {})
    let shared := f.imm.getLsbD 20 = false ∧ (f.mod.toNat / 32 = 3 ∨ f.mod.toNat / 32 = 4)
    let fp := f.imm.toNat / 2 ^ 24 % 2 ^ 4 < 9
    let det := f.imm.getLsbD 28 = true
    leaves (.vatom f) atom ∧ leaves (.vldacq f) far ∧ leaves (.vstrel f) far
    ∧ (m.blk.pk.det = false ∨ ¬ fp ∨ ¬ shared → det = false → leaves (.vredM f) atom)
    ∧ (det = true → f.imm.getLsbD 21 = false → m.blk.record = none → leaves (.vredM f) atom)
    ∧ (m.blk.pk.det = true → det = false → shared → f.imm.toNat / 2 ^ 24 % 2 ^ 4 = 0 → f.mod.toNat % 32 = 0 →
      f.imm.getLsbD 21 = false → leaves (.vredM f) atom)
    ∧ (det = true → (f.imm.getLsbD 21 = true ∨ m.blk.record.isSome) → s.LaneLegal m b (.vredM f) f →
      LaneTraps s m b (.vredM f) codeIllegal 5 0)
    ∧ (let x := m.laneOf b (.mpost f) f
      let group := f.imm.toNat % 2 ^ 8
      let seq := f.imm.toNat / 2 ^ 8 % 2 ^ 8
      let q := m.slot / 16
      let mine := (s.core m.core).mat.posts.filter (fun p => p.quad = q)
      let same := (∃ p ∈ mine, p.block = m.car.block ∧ p.group = group ∧ p.seq = seq) ∨ ∃ p ∈ b.posts, p.2.1 = group ∧ p.2.2.1 = seq
      let four (w : BitVec 64) : Prop := ∀ k < 4, (List.range 16).countP (fun n => w.getLsbD (16 * k + n)) = 1
      (s.LaneRuns m b (.mpost f) f → ∀ g, m.blk.groups[group]? = some g → g.has m.car.half m.slot = true → four (if m.car.half = 0 then g.members else g.partner) →
        (same ∨ 8 ≤ mine.length + b.posts.length → exec (.mpost f) s = .next (s.laneWaits m .busy))
        ∧ (¬ same → mine.length + b.posts.length < 8 → ∃ bytes : BitVec 4096,
          (∀ k < 128, BitVec.extractLsb' (32 * k) 32 bytes =
            x.reg (if k < 96 then f.a.toNat + k / 32 else f.b.toNat) (k % 32))
          ∧ exec (.mpost f) s = .next ((s.modPath m.key m.p (fun y => { y with burst := y.burst.map (fun c =>
              { c with posts := c.posts ++ [(q, group, seq, bytes)] }) })).laneDone x {})))
      ∧ (s.LaneLegal m b (.mpost f) f → (¬ ∃ g, m.blk.groups[group]? = some g ∧ g.has m.car.half m.slot = true
          ∧ four (if m.car.half = 0 then g.members else g.partner)) → LaneTraps s m b (.mpost f) codeIllegal 4 0))

/-- Bound checks of lane stores, and the words that their burst's commit performs. -/
def Obligations.LaneCommit : Prop := Claims.LaneBounds ∧ Claims.LaneDeferred

/-- R43, R45, R74, R120, R121, R152, R243, R377, R378: BURST_START makes the head entry of a path's lane-issue queue its burst,
where its quadrant's lane slot is free and its pick is that path, every latch invalid; the pick is the oldest candidate whose pass
count has reached 64, else the oldest, and every other candidate's count rises; a word that R152 does not allow where it stands
raises ILLEGAL_OP. BURST_COMMIT writes what the burst held to the caravan, counts its words, sets the hits of bound registers,
appends its stores to the path's queue, behind those that wait for no burst, and its posts to the core's, and takes the entry off
the queue. TRAP_DELIVERY takes the pending trap of a drained path. -/
def Obligations.BurstEvents : Prop :=
  ∀ (s : State) (core slot p : Nat) (m : Me), s.Acts core slot p m →
    let t := s.at core slot p
    let cands := t.laneCandidates core (slot / 16)
    let passes (x : Nat × Nat) : Nat := ((t.pathAt core x.1 x.2).map Path.lanePasses).getD 0
    let picked := t.laneSlotFree core (slot / 16) = true ∧ (slot, p) ∈ cands
      ∧ (cands.head? = some (slot, p) ∧ (∀ x ∈ cands, passes x < 64)
        ∨ 64 ≤ passes (slot, p) ∧ ∃ l r, cands = l ++ (slot, p) :: r ∧ ∀ x ∈ l, passes x < 64)
    (∀ e rest, m.path.laneq = e :: rest → m.path.burst = none → picked →
      (t.misplaced m e = none → ∃ u c x, exec (.burstStart core slot p) s = .next u ∧ u.caravan? m.key = some c
        ∧ Tab.get? c.paths p = some x ∧ x = { m.path with burst := some (burstOf e), laneStall := none, lanePasses := 0 }
        ∧ u = { t with caravans := u.caravans } ∧ ∀ y ∈ cands, y ≠ (slot, p) → (t.quadPaths core (slot / 16)).Nodup →
          (u.pathAt core y.1 y.2).map Path.lanePasses = some (passes y + 1))
      ∧ (∀ k, t.misplaced m e = some k → exec (.burstStart core slot p) s =
        .next (t.raiseLane m { burstOf e with pos := k } codeIllegal 5 0)))
    ∧ (∀ b, s.Commits core slot p m b → b.deferred = none → m.path.relScope = 0 →
      (∀ e ∈ b.stores, e.after = 0 ∧ (∀ k, e.place ≠ .stack k) ∧ ∀ n k, e.place ≠ .savedStack n k) →
      ∃ u c x, exec (.burstCommit core slot p) s = .next u ∧ u.caravan? m.key = some c ∧ Tab.get? c.paths p = some x
        ∧ m.committed b c ∧ x.burst = none ∧ x.laneq = m.path.laneq.drop 1 ∧ x.storeq = (readyStores m.path.storeq ++ b.stores ++ waitingStores m.path.storeq).map
          (fun e => { e with after := e.after - 1 })
        ∧ x.spc = m.path.spc ∧ x.em = m.path.em ∧ u.mem = s.mem ∧ u.writes = s.writes
        ∧ (u.core core).mat.posts = (s.core core).mat.posts ++ b.posts.map (fun q =>
          { quad := slot / 16, block := m.car.block, caravan := m.car.uid, group := q.2.1, seq := q.2.2.1, data := q.2.2.2 })
        ∧ ∀ j, Tab.getD (u.core core).bndc j 0 = Tab.getD (s.core core).bndc j 0 ||| if j ∈ b.hits then 8 else 0)
    ∧ (∀ r, m.path.pending = some r → m.path.drained = true →
      exec (.trapDelivery core slot p) s = .next (t.takeTrap m.key p r))

/-- R149 to R158: a `vatom` of one lane at the commit of its burst reads the up-to-date value at the home of its address, gives it
to the lane's destination, and leaves the new value there: the sum, the smaller or larger value as signed or unsigned, a bitwise
function, the operand, or the operand where the old value is the one compared with. A `vred.m` outside the ordered unit does the
same with an operation of its format, and gives nothing. Every byte elsewhere keeps its up-to-date value. -/
def Claims.Atomics : Prop :=
  ∀ (s : State) (core slot p : Nat) (m : Me) (b : Burst) (f : LaneFields) (l va x y : Nat) (t : Translation) (atom : Bool),
    let size := if atom then (if f.mod.getLsbD 1 then 8 else 4) else formatBits (f.imm.toNat / 2 ^ 24 % 2 ^ 4) / 8
    let n := 8 * size
    let a := physical t (BitVec.ofNat 64 va)
    let old := leNat ((List.range size).map (fun i => s.upToDate core (a + i)))
    let o := BitVec.ofNat n old
    let v := BitVec.ofNat n x
    let op := f.mod.toNat % 32 / 4
    let new := if atom then
        (match op with
          | 0 => (o + v).toNat
          | 1 => if (if f.mod.getLsbD 0 then v.ult o else v.slt o) then v.toNat else o.toNat
          | 2 => if (if f.mod.getLsbD 0 then o.ult v else o.slt v) then v.toNat else o.toNat
          | 3 => (o &&& v).toNat
          | 4 => (o ||| v).toNat
          | 5 => (o ^^^ v).toNat
          | 6 => v.toNat
          | _ => if o = BitVec.ofNat n y then v.toNat else o.toNat)
      else updateNew (f.imm.toNat / 2 ^ 24 % 2 ^ 4) op (f.imm.getLsbD 21) (f.imm.getLsbD 22) (f.imm.getLsbD 23) old x
    s.Commits core slot p m b → b.deferred = some (if atom then .vatom f else .vredM f) → f.imm.getLsbD 20 = false → l < 32 →
    b.deferOps = [(l, va, x, y)] → b.stores = [] → m.path.storeq = [] → (atom = false → isOrdered f m.blk.pk.det = false) → va < 2 ^ 64 →
    size ∈ [4, 8] ∨ atom = false ∧ size ∈ [2, 4, 8] →
    s.Maps m (BitVec.ofNat 64 va) size .atomic t → inStack m.car m.blk.stackBytes va size = false → s.quiet a size →
    m.blk.hasFreed va size = false → s.cellsIn (a / 512 * 512) 512 = [] → a + size ≤ hbmBytes → s.monitor.replay = none →
    ∃ u c, exec (.burstCommit core slot p) s = .next u ∧ u.caravan? m.key = some c
      ∧ (∀ i, u.upToDate core i = if a ≤ i ∧ i < a + size then (leBytes size new).getD (i - a) 0 else s.upToDate core i)
      ∧ (∀ i, a ≤ i → i < a + size → u.rawByte i = (leBytes size new).getD (i - a) 0)
      ∧ (∀ r, ∀ k < 32, c.lane r k =
        if atom = true ∧ f.nw = 0 ∧ k = l ∧ r = f.d.toNat then BitVec.ofNat 32 old
        else if atom = true ∧ f.nw = 0 ∧ k = l ∧ size = 8 ∧ r = f.d.toNat + 1 then BitVec.ofNat 32 (old / 2 ^ 32)
        else (Tab.get? b.regs (r * 32 + k)).getD (m.car.lane r k))

/-- R152, R160, R260, R265: a `vldacq` of one lane at the commit of its burst gives the lane's destination the bytes at its
address, beyond the core the up-to-date bytes at their home, after which no copy that the core fetched before stays valid. A
`vstrel` of one lane puts its value at the home and leaves a release record of its location; no byte of another sector changes at
its home. The burst commits the rest of what it held. -/
def Claims.LaneOrdering : Prop :=
  ∀ (s : State) (core slot p : Nat) (m : Me) (b : Burst) (f : LaneFields) (l va x y : Nat) (t : Translation),
    let size := if f.mod.toNat % 32 = 3 then 8 else 4
    let at_ : Word := BitVec.ofNat 64 va
    let a := physical t at_
    let wide : Bool := 2 ≤ f.mod.toNat / 32 || 1 < m.blk.halves.length
    let gives (c : Caravan) (w : Nat) : Prop := ∀ r, ∀ k < 32, c.lane r k =
      if f.nw = 0 ∧ k = l ∧ r = f.d.toNat then BitVec.ofNat 32 w
      else if f.nw = 0 ∧ k = l ∧ size = 8 ∧ r = f.d.toNat + 1 then BitVec.ofNat 32 (w / 2 ^ 32)
      else (Tab.get? b.regs (r * 32 + k)).getD (m.car.lane r k)
    s.Commits core slot p m b → f.mod.toNat % 32 ∈ [2, 3] → l < 32 → va < 2 ^ 64 → b.deferOps = [(l, va, x, y)] → b.stores = [] →
    m.path.storeq = [] → slot < 64 →
    (b.deferred = some (.vldacq f) → s.Reach m at_ size t →
      (wide = false → ∃ u c, exec (.burstCommit core slot p) s = .next u ∧ u.caravan? m.key = some c
        ∧ gives c (leNat ((List.range size).map (s.laneByte m b t at_))))
      ∧ (wide = true → inStack m.car m.blk.stackBytes va size = false → s.owes a size = false → a + size ≤ hbmBytes →
        s.cellsIn (a / 64 * 64) 64 = [] → (∀ r ∈ s.releases, ¬ (r.1 < a + size ∧ a < r.1 + r.2.size)) →
        ∃ u c, exec (.burstCommit core slot p) s = .next u ∧ u.caravan? m.key = some c ∧ u.dropped core
        ∧ gives c (leNat ((List.range size).map (fun k => s.upToDate core (a + k))))))
    ∧ (b.deferred = some (.vstrel f) → s.Maps m at_ size .write t → inStack m.car m.blk.stackBytes va size = false →
      s.monitor.replay = none → a + size ≤ hbmBytes → s.cellsIn (a / 64 * 64) 64 = [] →
      ∃ u c r, exec (.burstCommit core slot p) s = .next u ∧ u.caravan? m.key = some c ∧ m.committed b c
        ∧ (∀ k < size, u.rawByte (a + k) = BitVec.ofNat 8 (x / 2 ^ (8 * k))) ∧ (∀ i, i / 64 ≠ a / 64 → u.rawByte i = s.rawByte i)
        ∧ Tab.get? u.releases a = some r ∧ r.size = size ∧ r.core = core ∧ r.block = m.car.block ∧ r.scope = f.mod.toNat / 32
        ∧ r.owed = none)

/-- R152, R157, R268, R269: a `vred.m` of one lane that is an update of the ordered unit enters, at the commit of its burst, the
port of its caravan's slot, with its launch, its index and its home slice; while the port has no room its burst waits, and nothing
of it is done. The location's bytes are as before. -/
def Claims.OrderedEntry : Prop :=
  ∀ (s : State) (core slot p : Nat) (m : Me) (b : Burst) (f : LaneFields) (l va x y : Nat) (t : Translation),
    let at_ : Word := BitVec.ofNat 64 va
    let a := physical t at_
    let port := Tab.getD (s.core core).ports slot []
    let entry : OrderedUpdate :=
      { launch := m.blk.launch, bid := m.blk.bid, car := 32 * m.car.half + m.car.index, lane := l, seq := m.car.orderedSeq, addr := a,
        value := BitVec.ofNat 32 x, fsat := f.imm.getLsbD 23, slice := homeSlice a t.localDie, held := false, refused := false }
    s.Commits core slot p m b → b.deferred = some (.vredM f) → isOrdered f m.blk.pk.det = true → f.imm.toNat / 2 ^ 24 % 2 ^ 4 = 0 →
    f.imm.getLsbD 20 = false → l < 32 → va < 2 ^ 64 → b.deferOps = [(l, va, x, y)] → b.stores = [] → s.Maps m at_ 4 .atomic t →
    (port.length < 256 → ∃ u c, exec (.burstCommit core slot p) s = .next u ∧ u.caravan? m.key = some c ∧ m.committed b c
      ∧ c.orderedSeq = m.car.orderedSeq + 1 ∧ Tab.getD (u.core core).ports slot [] = port ++ [entry] ∧ u.mem = s.mem ∧ u.writes = s.writes)
    ∧ (256 ≤ port.length → exec (.burstCommit core slot p) s = .next ((s.at core slot p).laneWaits m .busy))

/-- The words that a burst's commit performs. -/
def Obligations.Atomics : Prop := Claims.Atomics ∧ Claims.LaneOrdering ∧ Claims.OrderedEntry

/-- R51, R113, R254, R377: a sector that leaves the L1 has its dirty bytes at their home, and every other one stays; a stack cache
of one line spills it to the caravan's stack memory, or raises STACK_LIMIT below `stklim`; and in a claim deadlock the claim is
withdrawn unserved and its claimer raises CLAIM_DEADLOCK at its `rclaim`. -/
def Claims.CacheEvents : Prop :=
  (∀ (s : State) (core sector : Nat) (l : L1Sector), Tab.get? (s.core core).l1 sector = some l → s.monitor.replay = none →
    ∃ u, exec (.l1Eviction core sector) s = .next u ∧ u.caravans = s.caravans
      ∧ (∀ k, Tab.get? (u.core core).l1 k = if k = sector then none else Tab.get? (s.core core).l1 k)
      ∧ ∀ a, a < hbmBytes → s.cellsIn a 1 = [] → u.rawByte a = if a / 64 = sector then s.upToDate core a else s.rawByte a)
  ∧ (∀ (s : State) (core slot p line : Nat) (c : Caravan) (b : Block) (x : Path) (ps : Tab Path),
    let key := 64 * core + slot
    s.caravan? key = some c → Tab.get? s.blocks c.block = some b → c.paths = (p, x) :: ps → c.stack ≠ [] →
    (∀ e ∈ c.stack, e.1 / 512 = line) → sortedKeys c.stack →
    ((∃ e ∈ c.stack, e.1 < c.stklim.toNat) → ∃ u : State, exec (.stackCacheSpill core slot) s = .next (u.raiseTrap key p
      { code := codeStackLimit, cause := 0, addr := BitVec.ofNat 64 (line * 512), pc := scalarPc x.spc, resume := x.spc, removed := [] })
      ∧ u.caravans = s.caravans)
    ∧ ((∀ e ∈ c.stack, c.stklim.toNat ≤ e.1) → ∀ t v, s.choose.2.walkServe b.ctx (BitVec.ofNat 64 (line * 512)) .write = .leaf t v →
      v.caravans = s.caravans → t.package = none → t.base % 512 = 0 → v.roomFor core (physical t (BitVec.ofNat 64 (line * 512))) →
      (∀ e ∈ c.stack, v.unsettled (physical t (BitVec.ofNat 64 e.1)) = false) →
      (∀ e ∈ c.stack, ∀ g ∈ c.stack, physical t (BitVec.ofNat 64 e.1) = physical t (BitVec.ofNat 64 g.1) → e.1 = g.1) →
      ∃ u d, exec (.stackCacheSpill core slot) s = .next u ∧ u.caravan? key = some d ∧ d.stack = []
        ∧ d.sregs = c.sregs ∧ ∀ e ∈ c.stack, u.l1Byte core (physical t (BitVec.ofNat 64 e.1)) = e.2))
  ∧ (∀ (s : State) (block key p n : Nat) (b : Block) (c : Caravan) (x : Path), Tab.get? s.blocks block = some b →
    s.claimDeadlock block b = true → b.halves.flatMap (fun h => h.claims) = [(key, p, n)] → s.caravan? key = some c →
    Tab.get? c.paths p = some x → exec (.claimDeadlock block) s = .next ((s.modBlock block (fun b =>
      { b with halves := b.halves.map (fun h => { h with claims := [] }) })).raiseTrap key p
      { code := codeClaimDeadlock, cause := 0, addr := 0, pc := scalarPc x.spc, resume := x.spc, removed := [] }))

/-- R186, R393, R394: the holder of a capsule that has a trap awaiting delivery is reported before it: its cell becomes ORPHANED,
and its buffered stores are discarded. A release notice ends when its cell is DONE for its caravan and generation, and then
becomes FREE, and when the generation has changed. -/
def Claims.CapsuleEvents : Prop :=
  ∀ (s : State) (core slot : Nat),
    (∀ c r, s.caravan? (64 * core + slot) = some c → c.capsule = some r → r.descheduled = false →
      (∃ x ∈ c.paths, x.2.pending.isSome) → s.quiet r.cell 512 → r.cell ∈ s.cells → r.cell + 512 ≤ hbmBytes →
      s.waitersOf r.cell = [] →
      let h := s.cellHeader r.cell
      let held := h.state = cellHeld ∧ h.holder = s.tagOf (64 * core + slot) ∧ h.generation = r.generation
      ∃ u d, exec (.orphanReport core slot) s = .next u ∧ u.caravan? (64 * core + slot) = some d
        ∧ d.capsule = some { r with buffer := [], descheduled := true } ∧ d.sregs = c.sregs ∧ d.paths = c.paths
        ∧ u.cellHeader r.cell = if held then { h with state := cellOrphaned } else h)
    ∧ (∀ tag generation cell, Tab.get? (s.core core).notices slot = some (tag, generation, cell) → s.quiet cell 512 →
      cell ∈ s.cells → cell + 512 ≤ hbmBytes → s.waitersOf cell = [] →
      let h := s.cellHeader cell
      (h.generation ≠ generation → exec (.releaseNotice core slot) s =
        .next (s.modCore core (fun c => { c with notices := Tab.erase c.notices slot })))
      ∧ (h.generation = generation → h.state = cellDone → h.behalf = tag → ∃ u, exec (.releaseNotice core slot) s = .next u
        ∧ Tab.get? (u.core core).notices slot = none ∧ u.cellHeader cell = { h with state := cellFree })
      ∧ (h.generation = generation → ¬ (h.state = cellDone ∧ h.behalf = tag) → exec (.releaseNotice core slot) s = .next s))

/-- L1 eviction, stack spill, claim deadlock, orphan report and release notice. -/
def Obligations.CacheAndCapsuleEvents : Prop := Claims.CacheEvents ∧ Claims.CapsuleEvents

/-- R157, R268 to R272: an update that a port offers is accepted where its location holds fewer than 16, or is new to a slice that
tracks fewer than 256 locations; a full location turns a larger update away. A fold adds the smallest update at a location, once
every earlier caravan of its launch is through, to the FP32 value in memory, and takes it away. -/
def Obligations.OrderedUpdates : Prop :=
  (∀ (s : State) (core slot : Nat) (u : OrderedUpdate) (resend : Bool),
    let port := Tab.getD (s.core core).ports slot []
    let i : Instr := if resend then .portResend core slot else .orderedUpdateArrival core slot
    let taken : OrderedUpdate := { u with held := true, refused := false }
    port = [u] → u.refused = resend → u.held = false → s.mayOffer port u = true →
    (∀ us, Tab.get? s.tracked u.addr = some us → us.length < 16 → ∃ v, exec i s = .next v
      ∧ Tab.get? v.tracked u.addr = some (us ++ [taken]) ∧ Tab.getD (v.core core).ports slot [] = [taken]
      ∧ ∀ a ≠ u.addr, Tab.get? v.tracked a = Tab.get? s.tracked a)
    ∧ (Tab.get? s.tracked u.addr = none → (s.tracked.filter (fun a => a.2.any (fun v => v.slice = u.slice))).length < 256 →
      ∃ v, exec i s = .next v ∧ Tab.get? v.tracked u.addr = some [taken] ∧ Tab.getD (v.core core).ports slot [] = [taken])
    ∧ (∀ us, resend = false → Tab.get? s.tracked u.addr = some us → 16 ≤ us.length → (∀ v ∈ us, v.before u = true ∧ u.before v = false) →
      ∃ v, exec i s = .next v ∧ v.tracked = s.tracked ∧ Tab.getD (v.core core).ports slot [] = [{ u with refused := true }]))
  ∧ (∀ (s : State) (a : Nat) (us : List OrderedUpdate) (u : OrderedUpdate), Tab.get? s.tracked a = some us → u ∈ us →
    (∀ v ∈ us, v ≠ u → u.before v = true ∧ v.before u = false) → u.before u = false → s.foldable u = true → a + 4 ≤ hbmBytes →
    s.monitor.replay = none →
    let old := leNat ((List.range 4).map (fun i => s.rawByte (a + i)))
    let sum := (fpAdd 0 false .rne u.fsat old u.value.toNat).1
    let new := if decode (formatOf 0) sum = .nan then canonicalNaN (formatOf 0) else sum
    ∃ v, exec (.orderedUpdateFold a) s = .next v ∧ (∀ i, v.rawByte i = if a ≤ i ∧ i < a + 4 then (leBytes 4 new).getD (i - a) 0
        else s.rawByte i)
      ∧ Tab.get? v.tracked a = (let rest := us.filter (fun w => !w.same u); if rest = [] then none else some rest))

/-- R339 to R347: the front-end extension. In machine mode `qfetch` fetches the next command of a mapped queue into the local
memory and says whether it did, `sigwait` reads a count and waits until it is reached, and `dispatch` begins a dispatch operation
and gives its handle; in user mode `pcancel` ends the prologue CANCELLED and `prepeat` marks its iteration. In the other mode they
raise FE_MODE; an operand out of range, misaligned, or that cannot be translated raises its exception, which saves the pc, the
cause and the value and goes to `mtvec` in machine mode. -/
def Obligations.FrontEnd : Prop :=
  ∀ (s : State) (die h : Nat) (x : Hart) (sb sa sd : BitVec 5) (p e : BitVec 1),
    let a := x.reg sa
    let b := x.reg sb
    let gives (i : Instr) (t : State) (v : Word) : Prop := exec i s = .next (t.retireHart die h (fun y => y.setReg sd v))
    let queue := Tab.get? (s.die die).queueSlots a.toNat
    (s.FrontRuns die h x true →
      (63 < a.toNat → exec (.qfetch sb sa sd) s = .next (s.frontTrap die h 24 a))
      ∧ (a.toNat ≤ 63 → b.toNat % 64 ≠ 0 → exec (.qfetch sb sa sd) s = .next (s.frontTrap die h 25 b))
      ∧ (a.toNat ≤ 63 → b.toNat % 64 = 0 → queue = none → gives (.qfetch sb sa sd) s 2)
      ∧ (∀ q, a.toNat ≤ 63 → b.toNat % 64 = 0 → queue = some q → ((s.queue q).held.isSome ∨ (s.queue q).head = (s.queue q).tail) →
        gives (.qfetch sb sa sd) s 1)
      ∧ (∀ q w t v, a.toNat ≤ 63 → b.toNat % 64 = 0 → queue = some q → (s.queue q).held = none → (s.queue q).head ≠ (s.queue q).tail →
        s.ringCommand q = .ok w t → (w.testBit 8 = true → (s.queue q).open_ = []) → t.advanceHead q = .ok () v →
        ∃ u, exec (.qfetch sb sa sd) s = .next u ∧ (sd ≠ 0 → ((u.die die).hart h).reg sd = 0)
          ∧ ((u.die die).hart h).fctx = (s.queueDesc q).ctx ∧ ((u.die die).hart h).pc = ((v.die die).hart h).pc + 4
          ∧ ∀ k < 64, Tab.getD (u.die die).localMem ((b.toNat + k) % 2 ^ 18) (0 : Byte) = BitVec.ofNat 8 (w / 2 ^ (8 * k)))
      ∧ (a.toNat % 16 ≠ 0 → exec (.sigwait p e sb sa sd) s = .next (s.frontTrap die h 25 a))
      ∧ (∀ v t, a.toNat % 16 = 0 → s.frontNat x.fctx a 8 = .ok v t →
        (p = 1 ∨ b.toNat ≤ v → gives (.sigwait p e sb sa sd) t (BitVec.ofNat 64 v))
        ∧ (p = 0 → v < b.toNat → exec (.sigwait p e sb sa sd) s =
          .next (t.modHart die h (fun y => { y with waiting := true, waitExt := e = 1 }))))
      ∧ (∀ code cause at_ t, a.toNat % 16 = 0 → s.frontNat x.fctx a 8 = .fail code cause at_ t →
        exec (.sigwait p e sb sa sd) s = .next (t.frontTrap die h 27 at_))
      ∧ (a.toNat % 64 ≠ 0 → exec (.dispatch sb sa sd) s = .next (s.frontTrap die h 25 a))
      ∧ (∀ w t handle, let line := b.toNat / 2 ^ 8 % 2 ^ 44
        let signal : Completion := if line = 0 then .nothing else .signal x.fctx ((BitVec.ofNat 48 (16 * line)).signExtend 64)
        a.toNat % 64 = 0 → (s.die die).dispatches.length < 32 → s.frontNat x.fctx a 64 = .ok w t → s.tellWait signal = none →
        ∀ g, t.dispatchPacket die x.fctx (BitVec.ofNat 512 w) (BitVec.ofNat 4 b.toNat) signal = (handle, g) →
        (∀ u, g = .going u → gives (.dispatch sb sa sd) u (BitVec.ofNat 64 handle))
        ∧ (∀ y u, g = .ended y u → exec (.dispatch sb sa sd) s =
          .next ((u.retireHart die h (fun z => z.setReg sd (BitVec.ofNat 64 handle))).tell signal y)))
      ∧ (∀ i ∈ [Instr.pcancel, .prepeat], exec i s = .next (s.frontTrapFree die h 26)))
    ∧ (s.FrontRuns die h x false →
      exec .pcancel s = .next (s.endPrologue die h 1 0)
      ∧ (∀ k d, s.prologueOf die h = some (k, d) → d.iteration < 63 → exec .prepeat s =
        .next ((s.modDispatch die k (fun y => { y with marked := true })).retireHart die h id))
      ∧ (∀ i ∈ [Instr.qfetch sb sa sd, .sigwait p e sb sa sd, .dispatch sb sa sd], exec i s = .next (s.frontTrapFree die h 26)))
    ∧ (∀ cause v, s.prologueOf die h = none → (s.die die).hart h = x → ∃ y, ((s.frontTrap die h cause v).die die).hart h = y
      ∧ y.mepc = x.pc ∧ y.mcause = BitVec.ofNat 64 cause ∧ y.mtval = v ∧ y.pc = x.mtvec - BitVec.ofNat 64 (x.mtvec.toNat % 4)
      ∧ y.machineMode = true ∧ y.xregs = x.xregs)

/-- R342: `fbfx` sets its destination to the bit field of its source that the control word in its other source names,
sign-extended or zero-extended as that word says, in either mode, and goes on in sequence. -/
def Obligations.FrontBitField : Prop :=
  ∀ (s : State) (die h : Nat) (x : Hart) (sb sa sd : BitVec 5) (machine : Bool), s.FrontRuns die h x machine →
    let a := x.reg sa
    let b := x.reg sb
    let pos := b.toNat % 64
    let len := b.toNat / 64 % 64 + 1
    ∃ v : Word, exec (.fbfx sb sa sd) s = .next (s.retireHart die h (fun y => y.setReg sd v))
      ∧ ∀ i < 64, v.getLsbD i = if i < len then a.getLsbD (pos + i) else b.getLsbD 12 && a.getLsbD (pos + len - 1)

/-- R335 to R338, R344, R348, R349, R351, R354: the commands of a queue. A command waits behind one that holds its queue; one that
a check of R348 turns away ends REJECTED with its detail. `NOP` completes at issue; `LAUNCH` begins a dispatch operation that
completes it; `UPLOAD` stores a graph, or is BUSY; `TRIGGER` gives a run its trigger; `SIGNAL` adds to a count and `WAIT` waits
for one; `TIMER_ARM` and `TIMER_OFF` arm and disarm a timer. -/
def Obligations.QueueCommands : Prop :=
  ∀ (s : State) (q : Nat) (c : Command), s.Issuable q c →
    let d := s.queueDesc q
    let t := s.opened q c
    let ok := status 0 0
    let held (u : State) : Prop := (u.queue q).held = some c
    (∀ k n, (k, n) ∈ [(Instr.nopCommand q c, 0), (.launchCommand q c, 1), (.uploadCommand q c, 2), (.triggerCommand q c, 3),
      (.signalCommand q c, 4), (.waitCommand q c, 5), (.timerArm q c, 6), (.timerOff q c, 7), (.collectiveCommand q c, 8), (.msgSend q c, 9),
      (.msgRecv q c, 10)] → ∀ r, t.commandCheck (some n) c = some r → completes s q k (status 2 r) t)
    ∧ (c.w0.toNat / 2 ^ 24 = 0 → c.w0.toNat / 2 ^ 10 % 2 ^ 6 = 0 → c.w7.toNat % 16 = 0 →
      completes s q (.unknownQueueOpcode q c) (status 2 9) t)
    ∧ (t.commandCheck (some 0) c = none → completes s q (.nopCommand q c) ok t)
    ∧ (t.commandCheck (some 1) c = none → ∀ handle g, (t.die d.die).dispatches.length < 32 →
      t.startDispatch d.die d.ctx c.w1 (BitVec.ofNat 4 c.w2.toNat) (.command s.nextUid) = (handle, g) →
      (∀ u, g = .going u → exec (.launchCommand q c) s = .next (u.refreshQueue q))
      ∧ (∀ x u, g = .ended x u → completes s q (.launchCommand q c) x u))
    ∧ (t.commandCheck (some 1) c = none → 32 ≤ (t.die d.die).dispatches.length → ∃ u, exec (.launchCommand q c) s = .next u ∧ held u)
    ∧ (let g := c.w2.toNat % 16
      let stage := !c.w2.getLsbD 8
      t.commandCheck (some 2) c = none →
      (∀ x, Tab.get? t.graphs g = some x → x.busy = true ∨ x.pending.isSome → completes s q (.uploadCommand q c) (status 8 0) t)
      ∧ (∀ bs u v kept, (∀ x, Tab.get? t.graphs g = some x → x.busy = false ∧ x.pending = none) →
        t.readDesc d.ctx c.w1 stage = .ok bs u → u.checkGraphDesc d.ctx stage bs = .ok kept v →
        let stored (k : List Byte) : GraphSlot :=
          { stage := stage, ctx := d.ctx, desc := k, signal := c.w7, due := none, run := none, pending := none }
        (kept = none → completes s q (.uploadCommand q c) (status 2 10) v)
        ∧ (∀ k, kept = some k → completes s q (.uploadCommand q c) ok { v with graphs := Tab.set v.graphs g (stored k) })))
    ∧ (let g := c.w2.toNat % 16
      t.commandCheck (some 3) c = none →
      ((∀ x, Tab.get? t.graphs g = some x → x.ctx ≠ d.ctx) → completes s q (.triggerCommand q c) (status 2 15) t)
      ∧ (∀ x u taken, Tab.get? t.graphs g = some x → x.ctx = d.ctx →
        t.triggerSlot g x { value := c.w1, completions := [.command s.nextUid], home := d.die } = (u, taken) →
        (taken = true → exec (.triggerCommand q c) s = .next (u.refreshQueue q))
        ∧ (taken = false → completes s q (.triggerCommand q c) (status 8 0) u)))
    ∧ (t.commandCheck (some 4) c = none → ∀ u, t.addSignal d.ctx c.w1 c.w2.toNat = .ok () u → completes s q (.signalCommand q c) ok u)
    ∧ (t.commandCheck (some 5) c = none → ∀ v u, t.frontNat d.ctx c.w1 8 = .ok v u →
      (c.w2.toNat ≤ v → completes s q (.waitCommand q c) ok u)
      ∧ (v < c.w2.toNat → ∃ w, exec (.waitCommand q c) s = .next w ∧ held w))
    ∧ (let n := c.w3.toNat % 2 ^ 8
      let at_ := c.w3.toNat / 2 ^ 8 % 4
      (t.commandCheck (some 6) c = none → c.w3.getLsbD 16 = true → c.w5.toNat < 4096 → completes s q (.timerArm q c) (status 2 13) t)
      ∧ (t.commandCheck (some 6) c = none → (c.w3.getLsbD 16 = false ∨ 4096 ≤ c.w5.toNat) → ∃ u x, completes s q (.timerArm q c) ok u
        ∧ u = t.modDie at_ (fun y => { y with timers := Tab.set y.timers n x }) ∧ x.armed = true ∧ x.fires = 0 ∧ x.misses = 0
        ∧ x.ctx = d.ctx ∧ x.packet = c.w1 ∧ x.deadline = c.w4.toNat ∧ x.status = c.w6 ∧ x.signal = c.w7
        ∧ x.period = (if c.w3.getLsbD 16 then some c.w5.toNat else none) ∧ x.busy = ((t.die at_).timer n).busy)
      ∧ (t.commandCheck (some 7) c = none → completes s q (.timerOff q c) ok
        (t.modDie at_ (fun y => { y with timers := Tab.modify y.timers n (fun x => { x with armed := false }) }))))

/-- R333, R338, R354, R355, R369: the timers and the slots. The first due timer fires, once its last launch has completed and if
none has in the local cycle: a one-shot timer is disarmed, and a periodic one counts its fire and the periods that it missed and
moves its deadline past now. A waiting queue takes a free slot, and at the end of a mapping interval the slot that has been held
longest; in host-assisted mode the change waits for the driver's acknowledgement. -/
def Obligations.TimersAndSlots : Prop :=
  (∀ (s : State) (die n : Nat) (x : Timer) (handle : Nat) (t : State), (s.die die).firstDue = some (n, x) → x.busy = false →
    (s.die die).dispatches.length < 32 → (s.die die).acted 1 = false → s.signalWait x.ctx x.signal = none → s.signalWait x.ctx x.status = none →
    s.startDispatch die x.ctx x.packet x.dies (.timer die n x.ctx x.signal) = (handle, .going t) →
    let missed := ((s.die die).cyc - x.deadline) / x.period.getD 1
    ∃ y, (y.busy = true ∧ y.signal = x.signal ∧ y.packet = x.packet)
      ∧ (x.period = none → y.armed = false ∧ y.fires = x.fires ∧ y.misses = x.misses ∧ y.deadline = x.deadline)
      ∧ (∀ k, x.period = some k → y.armed = x.armed ∧ y.fires = x.fires + 1 ∧ y.misses = x.misses + missed
        ∧ y.deadline = x.deadline + (missed + 1) * k)
      ∧ let v := t.modDie die (fun e => { e with timers := Tab.set e.timers n y, acts := Tab.set e.acts 1 (e.cyc + 1) })
        ∀ u, v.frontWrite x.ctx x.status (leBytes 8 y.fires ++ leBytes 8 y.misses) = .ok () u → exec (.timerFire die) s = .next u)
  ∧ (∀ (s : State) (die : Nat), (s.die die).firstDue = none ∨ (s.die die).acted 1 = true → exec (.timerFire die) s = .next s)
  ∧ (∀ (s : State) (die k q : Nat) (rest : List Nat), die ≤ 3 → k < 64 → (s.die die).queueSlots.all (fun x => x.1 < k) = true →
    (∀ j < k, (Tab.get? (s.die die).queueSlots j).isSome) → (s.die die).waitingQueues = q :: rest → (s.die die).mapChange = none →
    s.hostMode (s.queueDesc q).ctx 3 = false → ∃ u, exec (.queueMap die) s = .next u
      ∧ Tab.get? (u.die die).queueSlots k = some q ∧ (u.queue q).mapped = some k ∧ q ∉ (u.die die).waitingQueues)
  ∧ (∀ (s : State) (die : Nat), (s.die die).interval < 16384 → exec (.mappingInterval die) s = .next s)
  ∧ (∀ (s : State) (die k q : Nat) (rest : List Nat), (s.die die).oldestSlot = some k → (s.die die).waitingQueues = q :: rest →
    (s.die die).mapChange = none → 16384 ≤ (s.die die).interval → s.hostMode (s.queueDesc q).ctx 3 = false →
    exec (.mappingInterval die) s = .next ((s.mapQueue die q k).modDie die (fun d => { d with interval := 0 })))
  ∧ (∀ (s : State) (ctx record die q k : Nat) (c : Context), Tab.get? s.contexts ctx = some c → die ≤ 3 →
    (s.die die).mapChange = some (q, k, record) → (s.queueDesc q).ctx = ctx → (∀ e < die, (s.die e).mapChange = none) →
    s.homeNat (c.flog + 64 + 64 * (record % 2 ^ c.logN) + 32) 8 ≠ 0 →
    exec (.queueMappingAck ctx record) s = .next ((s.mapQueue die q k).modDie die (fun d => { d with interval := 0 })))

/-- R344, R346, R347: a prologue that has retired more than 256 instructions, has run for more than 4,096 local cycles, or has
taken an exception, which leaves its core in machine mode with the cause in `mcause`, ends with PROLOGUE_FAULT, detail 0xfe, 0xff
or the exception's cause; one within its limits goes on. When it returns, its packet copy is checked and handed to the
distributors. A launch all of whose blocks have ended, and whose ordered updates are folded, ends its dispatch operation COMPLETE,
or FAULTED with its lowest fault code; a marked iteration repeats. -/
def Obligations.DispatchEvents : Prop :=
  (∀ (s : State) (die h k cause : Nat) (d : Dispatch), s.prologueOf die h = some (k, d) →
    let t := s.leavePrologue die h
    (256 < d.instructions → exec (.prologueInstructionLimit die h) s = .next (s.endPrologue die h 3 0xfe))
    ∧ (d.instructions ≤ 256 → exec (.prologueInstructionLimit die h) s = .next s)
    ∧ (d.started + 4096 < (s.die die).cyc → exec (.prologueCycleLimit die h) s = .next (s.endPrologue die h 3 0xff))
    ∧ ((s.die die).cyc ≤ d.started + 4096 → exec (.prologueCycleLimit die h) s = .next s)
    ∧ (let x := (s.die die).hart h
      (x.machineMode = true → x.mcause.toNat = cause → exec (.prologueException die h cause) s = .next (s.endPrologue die h 3 cause))
      ∧ (x.machineMode = false ∨ x.mcause.toNat ≠ cause → exec (.prologueException die h cause) s = .next s))
    ∧ (((s.die die).hart h).pc ≠ d.returnTo → exec (.prologueReturn die h) s = .next s)
    ∧ (∀ u, ((s.die die).hart h).pc = d.returnTo → s.launchPacket die k d = .going u → exec (.prologueReturn die h) s =
      .next ((u.leavePrologue die h).nextPrologue die))
    ∧ (∀ x u, ((s.die die).hart h).pc = d.returnTo → s.launchPacket die k d = .ended x u → s.tellWait d.completion = none →
      exec (.prologueReturn die h) s = .next ((u.leavePrologue die h).endDispatch die k x))
    ∧ (∀ code detail, s.tellWait d.completion = none → s.endPrologue die h code detail =
      t.endDispatch die k { code := code, detail := detail, launches := d.launches }))
  ∧ (∀ (s : State) (n : Nat) (l : Launch) (d : Dispatch), Tab.get? s.launches n = some l → l.total ≤ l.next → l.total ≤ l.ended →
    (∀ c ∈ s.cores, ∀ p ∈ c.2.ports, ∀ u ∈ p.2, u.launch ≠ n) → Tab.get? (s.die l.home).dispatches l.handle = some d →
    let done : State := { s with launches := Tab.erase s.launches n }
    (d.marked = false → s.tellWait d.completion = none → l.faulted = none → exec (.launchComplete n) s =
      .next ((done.settle l).endDispatch l.home l.handle { code := 0, detail := 0, launches := d.launches }))
    ∧ (∀ k, d.marked = false → s.tellWait d.completion = none → l.faulted = some k → exec (.launchComplete n) s =
      .next (((done.settle l).trail l.home l.ctx 0x3f 0x02 4 k (some l.handle)).endDispatch l.home l.handle
        { code := 4, detail := k, launches := d.launches }))
    ∧ (d.marked = true → l.faulted = none → ∃ u : State, exec (.launchComplete n) s = .next (u.nextPrologue l.home)
      ∧ ∃ e, Tab.get? (u.die l.home).dispatches l.handle = some e ∧ e.copy = d.original ∧ e.iteration = d.iteration + 1
        ∧ e.marked = false ∧ e.launch = none ∧ e.launches = d.launches))

/-- R49, R236 to R241, R263: on a distributor's turn, one in a local cycle, a launch that finds no core is passed; one that finds
a core places its next block there: each caravan takes a slot of the quadrant that its index names and starts at the packet's
entry with all its lanes, `s61` at its stack base, `s62` at the parameters, and every other scalar register zero. A block whose
caravans and operations have all ended leaves its cores, and its launch counts it and keeps the lowest fault code. -/
def Obligations.BlockEvents : Prop :=
  (∀ (s : State) (die n core : Nat) (starved : Bool) (l : Launch), (s.die die).turnOf = some (n, starved) →
    (s.die die).acted 0 = false → Tab.get? s.launches n = some l → s.findCores die l.ctx l.pk = some [core] → l.pk.caravans < 32 →
    ∃ u k b, exec (.distributorTurn die) s = .next u ∧ Tab.get? u.blocks k = some b ∧ k = s.nextUid
      ∧ b.launch = n ∧ b.ctx = l.ctx ∧ b.bid = l.next ∧ b.pk = l.pk ∧ b.live = l.pk.caravans + 1 ∧ b.faulted = none
      ∧ (∃ m, Tab.get? u.launches n = some m ∧ m.next = l.next + 1 ∧ m.ended = l.ended)
      ∧ ∀ c ≤ l.pk.caravans, ∃ slot x y, slot / 16 = c % 4 ∧ u.caravan? (64 * core + slot) = some x ∧ x.block = k ∧ x.index = c
        ∧ (let base := l.pk.stackBase + BitVec.ofNat 64 ((64 * core + slot + 1) * 256 * l.pk.stack)
          x.sreg 61 = base ∧ x.sreg 62 = l.pk.params ∧ (∀ r, r ≠ 61 → r ≠ 62 → x.sreg r = 0) ∧ x.stkbase = base
            ∧ x.stklim = base - BitVec.ofNat 64 (256 * l.pk.stack))
        ∧ x.lbud = 8 * l.pk.regs8 ∧ x.xm = 0 ∧ x.wkcnt = 0 ∧ x.trapvec = 0 ∧ x.fpm = 0
        ∧ x.drawctr = BitVec.ofNat 64 ((32 * l.next + c) * 2 ^ 32)
        ∧ x.paths = [(0, y)] ∧ y.spc = l.pk.entry ∧ y.em = BitVec.allOnes 32)
  ∧ (∀ (s : State) (die n : Nat) (starved : Bool) (l : Launch), (s.die die).turnOf = some (n, starved) →
    (s.die die).acted 0 = false → Tab.get? s.launches n = some l → s.findCores die l.ctx l.pk = none →
    ∃ u, exec (.distributorTurn die) s = .next u
      ∧ u = s.modDie die (fun d => { d with turn := (u.die die).turn, passes := (u.die die).passes, acts := Tab.set d.acts 0 (d.cyc + 1) })
      ∧ Tab.getD (u.die die).passes n 0 = Tab.getD (s.die die).passes n 0 + 1)
  ∧ (∀ (s : State) (die : Nat), (s.die die).acted 0 = true → exec (.distributorTurn die) s = .next s)
  ∧ (∀ (s : State) (k : Nat) (b : Block) (l : Launch), Tab.get? s.blocks k = some b → b.live = 0 → s.blockQuiet k b = true →
    b.record = none → Tab.get? s.launches b.launch = some l → ∃ u m, exec (.blockEnd k) s = .next u
      ∧ Tab.get? u.blocks k = none ∧ Tab.get? u.launches b.launch = some m ∧ m.ended = l.ended + 1 ∧ m.next = l.next
      ∧ m.faulted = (match l.faulted, b.faulted with
        | some x, some y => some (min x y)
        | some x, none => some x
        | none, y => y))
  ∧ (∀ (s : State) (k : Nat) (b : Block), Tab.get? s.blocks k = some b → 0 < b.live → exec (.blockEnd k) s = .next s)

/-- R371 to R376: of the walks that wait on a die, the 16 asked for first are with its walkers. A walk that finds a leaf caches
its translation in its core, which still runs the context, and one that finds a fault keeps it for the accesses that wait; the
driver's reply 2 to a page service declines it with the fault of R374, and no reply changes nothing. -/
def Claims.PageWalks : Prop :=
  (∀ (s : State) (core page : Nat) (w : Walk), (s.core core).walks = [w] → w.page = page → w.service = none → w.result = none →
    (s.walkerHas (coreDie core) w = false → exec (.pageWalkComplete core page) s = .next s)
    ∧ (∀ t, s.walkerHas (coreDie core) w = true → s.walk w.ctx page .read = .leaf t → (s.blocksOn core).any (fun b => b.2.ctx = w.ctx) = true →
      ∃ u, exec (.pageWalkComplete core page) s = .next u ∧ (u.core core).walks = []
        ∧ Tab.get? (u.core core).tlb page = some t ∧ (∀ k ≠ page, Tab.get? (u.core core).tlb k = Tab.get? (s.core core).tlb k)
        ∧ u.mem = s.mem ∧ u.writes = s.writes ∧ u.caravans = s.caravans)
    ∧ (∀ a b, s.walkerHas (coreDie core) w = true → s.walk w.ctx page .read = .fault a b →
      ∃ u, exec (.pageWalkComplete core page) s = .next u
      ∧ (u.core core).walks = [{ w with result := some (a, b) }] ∧ (u.core core).tlb = (s.core core).tlb))
  ∧ (∀ (s : State) (ctx record : Nat) (c : Context), Tab.get? s.contexts ctx = some c →
    let reply := s.homeNat (c.flog + 64 + 64 * (record % 2 ^ c.logN) + 32) 8
    (reply = 0 → exec (.pageServiceReply ctx record) s = .next s)
    ∧ (∀ core k w, reply = 2 → s.cores = [(core, k)] → k.walks = [w] → w.ctx = ctx → w.service = some record → w.result = none →
      ∃ u, exec (.pageServiceReply ctx record) s = .next u ∧ (u.core core).walks = [{ w with result := some (codePageFault, 3) }])
    ∧ (∀ core k w t, reply = 1 → s.cores = [(core, k)] → k.walks = [w] → w.ctx = ctx → w.service = some record → w.result = none →
      (s.modCore core (fun x => { x with walks := [{ w with service := none }] })).walk ctx w.page .read = .leaf t →
      (s.blocksOn core).any (fun b => b.2.ctx = ctx) = true →
      ∃ u, exec (.pageServiceReply ctx record) s = .next u ∧ (u.core core).walks = [] ∧ Tab.get? (u.core core).tlb w.page = some t))

/-- R395 to R397: a die whose count of a context is below 2^24 reports nothing; when every die that holds caravans of the context
has reported, WATCHDOG is raised in all of them in hardware mode, and in host-assisted mode the driver is told, once. -/
def Claims.WatchdogEvents : Prop :=
  ∀ (s : State) (die ctx : Nat),
    let count := Tab.getD (s.die die).watch ctx 0
    let t := s.modDie die (fun d => { d with reports := if d.reports.contains ctx then d.reports else d.reports ++ [ctx] })
    let all := ∀ d ≤ 3, t.placed d ctx = [] ∨ ctx ∈ (t.die d).reports
    (count < 2 ^ 24 → exec (.watchdogReport die ctx) s = .next s)
    ∧ (2 ^ 24 ≤ count → ¬ all → exec (.watchdogReport die ctx) s = .next t)
    ∧ (2 ^ 24 ≤ count → all → s.hostMode ctx 4 = false →
      exec (.watchdogReport die ctx) s = .next ((t.raiseWatchdog ctx).trail 0 ctx 0x3f 0x0a codeWatchdog 0 none))
    ∧ (∀ c, 2 ^ 24 ≤ count → all → s.hostMode ctx 4 = true → Tab.get? s.contexts ctx = some c →
      (c.fired = true → exec (.watchdogReport die ctx) s = .next t)
      ∧ (c.fired = false → ∃ u d, exec (.watchdogReport die ctx) s = .next u ∧ Tab.get? u.contexts ctx = some d ∧ d.fired = true
        ∧ u.caravans = s.caravans))

/-- Page walks, their faults and completions, and the deadlock watchdog. -/
def Obligations.TranslationAndWatchdog : Prop := Claims.PageWalks ∧ Claims.WatchdogEvents

/-- R385 to R393: a request names the cores of every block on its core; the caravans of a block without `phint_req` stop at their
boundary with their full state, and those of one with it at the bound. A block whose caravans all stand at save points and whose
engines rest is saved as a unit and leaves its cores; and resumed where its reservation can be made again, it has every caravan
where it was, with its state unless something was stored over it in the save area (R370); it takes units of storage that are free
now. -/
def Obligations.PreemptionEvents : Prop :=
  (∀ (s : State) (core k : Nat) (b : Block) (h : Half) (c : Caravan), s.blocks = [(k, b)] → b.halves = [h] → h.core = core →
    b.pk.preempt = true → b.pk.phintReq = false → s.caravans = [(64 * core, c)] → c.block = k → c.halted = false →
    h.slots = [0] → c.savePoint = none → c.capsule = none → (∀ p ∈ c.paths, p.2.pending = none) → (s.core core).request = none →
    ∃ u d, exec (.preemptionRequest core) s = .next u ∧ (u.core core).request = some (s.die (core / 48)).cyc
      ∧ u.caravan? (64 * core) = some d ∧ d.savePoint = some .full ∧ d.sregs = c.sregs ∧ d.lanes = c.lanes)
  ∧ (∀ (s : State) (core slot : Nat) (c : Caravan) (b : Block) (h : Half) (t : Nat), s.caravan? (64 * core + slot) = some c →
    Tab.get? s.blocks c.block = some b → b.pk.preempt = true → b.halves = [h] → (s.core h.core).request = some t →
    (b.pk.phintReq = false ∨ t + 200000 ≤ (s.die (core / 48)).cyc →
      exec (.forcedSaveBound core slot) s = .next (s.stopForSave (64 * core + slot)))
    ∧ (b.pk.phintReq = true → (s.die (core / 48)).cyc < t + 200000 → exec (.forcedSaveBound core slot) s = .next s))
  ∧ (∀ (s : State) (k : Nat) (b : Block), Tab.get? s.blocks k = some b → b.pk.preempt = true → s.requested b = true →
    s.members k ≠ [] → (∀ c ∈ s.members k, c.2.savePoint = some .full ∧ c.2.paths.all (fun p => p.2.storeq.isEmpty) = true) →
    s.enginesRest k b = true → sortedKeys s.caravans →
    ∃ u x, exec (.blockSaveComplete k) s = .next u ∧ Tab.get? u.blocks k = none ∧ Tab.get? u.saved k = some x
      ∧ (∀ c ∈ u.caravans, c.2.block ≠ k) ∧ x.block.pk = b.pk ∧ x.block.groups = b.groups ∧ x.block.barriers = b.barriers
      ∧ ∀ key c, (key, c) ∈ s.members k → ∃ d, (key, d) ∈ x.caravans ∧ d.sregs = c.sregs ∧ d.lanes = c.lanes ∧ d.preds = c.preds
        ∧ d.queues = c.queues ∧ d.xm = c.xm ∧ d.wkcnt = c.wkcnt ∧ d.savePoint = none
        ∧ d.paths.map (fun p => (p.1, p.2.spc, p.2.em)) = c.paths.map (fun p => (p.1, p.2.spc, p.2.em)))
  ∧ (∀ (s : State) (k : Nat) (x : SavedBlock), Tab.get? s.saved k = some x → s.mayResume x = true → x.spoiled = false →
    sortedKeys x.caravans → ∃ u, exec (.blockResume k) s = .next u ∧ Tab.get? u.saved k = none
      ∧ Tab.get? u.blocks k = some { x.block with halves := x.block.halves.map (s.resumeHalf x.block.pk) }
      ∧ (∀ key c, (key, c) ∈ x.caravans → u.caravan? key = some c)
      ∧ (∀ key, (∀ c, (key, c) ∉ x.caravans) → u.caravan? key = s.caravan? key) ∧ u.mem = s.mem ∧ u.writes = s.writes)
  ∧ (∀ (s : State) (k : Nat) (x : SavedBlock), Tab.get? s.saved k = some x → s.mayResume x = true → x.spoiled = true →
    sortedKeys x.caravans → ∃ u b, exec (.blockResume k) s = .next u ∧ Tab.get? u.saved k = none ∧ Tab.get? u.blocks k = some b
      ∧ b.pk = x.block.pk ∧ b.groups = x.block.groups ∧ (∀ key c, (key, c) ∈ x.caravans → ∃ d, u.caravan? key = some d
        ∧ d.index = c.index ∧ d.lbud = c.lbud ∧ d.wkcnt = c.wkcnt) ∧ u.mem = s.mem ∧ u.writes = s.writes)
  ∧ (∀ (s : State) (k : Nat) (x : SavedBlock), Tab.get? s.saved k = some x → s.mayResume x = false →
    exec (.blockResume k) s = .next s)

/-- R166 to R173: COPY_COMPLETE, FILL_COMPLETE and DRAIN_COMPLETE (`o.completion` is `.copyComplete`, `.fillComplete` or
`.drainComplete`): every byte of an operation that can be carried out is copied, and no other changes; a copy is done, a fill
leaves its tile READY and a drain EMPTY, off their barriers. An operation that fails leaves its fault: a copy for its `xwait`, a
fill or a drain on its barrier for its issuer, the tile EMPTY. -/
def Obligations.CopyEvents : Prop :=
  ∀ (s : State) (core : Nat) (o : CopyOp), (s.core core).copyOp o.order = some o →
    let i := o.completion core
    (∀ src dst val, o.Clean s core src dst val → ∃ u, exec i s = .next u
      ∧ (∀ x ∈ o.bytes, u.placeByte core (dst x) = some (val x))
      ∧ (∀ l, (∀ x ∈ o.bytes, l ≠ dst x) → s.definedPlace l → u.placeByte core l = s.placeByte core l)
      ∧ (o.kind = .copy → s.alive o.issuer o.caravan = true →
        (u.core core).copies = (s.core core).copies.map (fun x => if x.order = o.order then { x with done := true, failed := none } else x))
      ∧ (∀ t, o.kind = .fill t → s.leftEngine u core o t { (s.core core).tile t with state := tileReady })
      ∧ (∀ t, o.kind = .drain t → s.leftEngine u core o t Tile.empty))
    ∧ (∀ code cause at_ t, o.run core o.issuer s = .fail code cause at_ t → ∃ u, exec i s = .next u
      ∧ (o.kind = .copy → o.bar = none → t.alive o.issuer o.caravan = true → (u.core core).copies =
        (t.core core).copies.map (fun x => if x.order = o.order then { x with done := true, failed := some (code, cause, at_) } else x))
      ∧ (∀ k n, (o.kind = .fill k ∨ o.kind = .drain k) → o.bar = some n → t.leftEngine u core o k Tile.empty
        ∧ (t.alive o.issuer o.caravan = true →
          t.toldFault u o.issuer { barrier := n, order := o.order, code := code, cause := cause, addr := at_, pc := o.pc })))
    ∧ (∀ t, o.run core o.issuer s = .wait t → exec i s = .next t)
    ∧ i ∈ [Instr.copyComplete core o.order, .fillComplete core o.order, .drainComplete core o.order]

/-- R199 to R209: MATRIX_OP_START starts the operation at the head of an idle engine's queue: `mzero` clears its tile, `macc.ld`
gives it the words of memory, poisons it where one of them is poisoned and ends in error on a fault of any page, and `macc.st`
stores its words, `mma` adds to every element of the tile of each core that it spans the product of A's row and the column of that
core's quarters, charges the allowance and consumes the posts; an `mma` that waited for posts of a group that was abandoned is
aborted. MATRIX_OP_COMPLETE frees the engine, counts, lowers the barrier and gives the issuer the outcome. -/
def Obligations.MatrixEvents : Prop :=
  ∀ (s : State) (core : Nat) (o : MatrixOp),
    let m := (s.core core).mat
    let start : Instr := .matrixOpStart core
    let complete : Instr := .matrixOpComplete core
    let done : MatrixOp := { o with poison := false, fault := none }
    let places := o.addresses.flatMap (fun a => [a, a + 1, a + 2, a + 3])
    let cell (u : State) (k n : Nat) : BitVec 32 := (u.core k).mat.acc.read (o.tile * 2048 + n)
    let runs (v u : State) (x : MatrixOp) : Prop :=
      (u.core core).mat.running = some x ∧ (u.core core).mat.queue = (v.core core).mat.queue.drop 1
    let counter (u : State) (n : Nat) : Nat := Tab.getD (u.core core).mat.counters n 0
    (m.queue.head? = some o → s.ready core = some o →
      (o.form = .zero → ∃ u, exec start s = .next u ∧ runs s u done ∧ (∀ n < 2048, cell u core n = 0)
        ∧ (u.core core).mat.tilePoisoned o.tile = false)
      ∧ (o.form = .load →
        let from_ := (if s.alive o.issuer o.caravan then s.drainStores o.issuer o.path else s).locateAll o.ctx .read places
        (∀ ls v bs bad w, from_ = .ok ls v → (∀ l ∈ ls, l.isRemote = false) → (∀ a ∈ places, v.freedIn o.block a = false) →
          v.readLocated core ls = (bs, bad, w) → ∃ u, exec start s = .next u
            ∧ (bad = false → runs w u done ∧ (u.core core).mat.tilePoisoned o.tile = false
              ∧ ∀ n < 2048, cell u core n = BitVec.ofNat 32 (leNat ((bs.drop (4 * n)).take 4)))
            ∧ (bad = true → runs w u { done with poison := true } ∧ (o.tile < 64 → (u.core core).mat.tilePoisoned o.tile = true)))
        ∧ (∀ code cause at_ v, from_ = .fail code cause at_ v → ∃ u, exec start s = .next u
          ∧ runs v u { done with fault := some (code, cause, at_) }))
      ∧ (∀ ls t, o.form = .store → o.stride.getLsbD 36 = false → o.issuer / 64 = core → m.tilePoisoned o.tile = false →
        (s.setCore core (s.core core)).locateAll o.ctx .write places = .ok ls t →
        ls.Nodup → (∀ l ∈ ls, t.plainPlace l) → t.roomForAll core ls →
        ∃ u, exec start s = .next u ∧ runs t u done ∧ (∀ l, l ∉ ls → u.placeByte core l = t.placeByte core l)
          ∧ ∀ n < 2048, ∀ j < 4, ∀ l, ls[4 * n + j]? = some l →
            u.placeByte core l = some (BitVec.ofNat 8 ((cell s core n).toNat / 2 ^ (8 * j))))
      ∧ (∀ bitmap pair, o.form = .mma bitmap pair → s.admitted core = true → ∃ u, exec start s = .next u
        ∧ (∀ k ∈ s.spans o core, ∀ q, s.quarters o k = some q →
          (∀ r < 64, ∀ c < 32, cell u k (32 * r + c) = BitVec.ofNat 32 (chunk (cell s k (32 * r + c)).toNat
            ((aValues m o.record o.chunk r bitmap).zip (bValues (q.getD (c / 8) 0) o.bfmt o.bblk o.chunk (c % 8) bitmap))))
          ∧ (∀ p ∈ (u.core k).mat.posts, ¬ (p.block = o.block ∧ p.group = o.group ∧ p.seq = o.seq)))
        ∧ (∃ x, runs s u x ∧ x.order = o.order ∧ x.fault = o.fault)
        ∧ counter u 1 = (counter s 1 + estimate m.lastRow (o.rows m)) % 2 ^ 64
        ∧ (u.die (core / 48)).allowance = (s.die (core / 48)).allowance - s.charge o core)
      ∧ (o.isMma = true → s.admitted core = false → exec start s = .next s))
    ∧ (m.queue.head? = some o → m.idle = true → s.ready core = none → o.isMma = true →
      (o.abort = true ∨ ((∃ k ∈ s.spans o core, s.quarters o k = none) ∧ s.groupAbandoned o = true)) → ∃ u, exec start s = .next u
        ∧ (u.core core).mat.running = some { o with abort := true, poison := false, fault := some (codePairAbort, 0, 0) }
        ∧ counter u 4 = (counter s 4 + 1) % 2 ^ 64)
    ∧ (∀ b c, m.running = some o → Tab.get? s.blocks o.block = some b → s.caravan? o.issuer = some c → c.uid = o.caravan →
      ∃ u d, exec complete s = .next u ∧ (u.core core).mat.running = none ∧ counter u 0 = (counter s 0 + 1) % 2 ^ 64
        ∧ s.lowers u o.block o.bar ∧ u.caravan? o.issuer = some d
        ∧ d.matrixOutcomes = c.matrixOutcomes ++ [{ order := o.order, poison := o.poison, fault := o.fault }])
    ∧ (m.running = none → exec complete s = .next s)

/-- R211, R214, R216 to R229, R285: the effects of `dcfg`, `dload`, `dload.pairs`, `dstream`, `dbias`, `dclamp`, `dinit`, `dlink`,
`dsweep`, `dread` and `dclr`. DUNE_COMMAND_COMPLETE carries out the head command of the array's queue and takes it off the queue
and off its barrier: `dcfg` has set the configuration; `dload`, `dload.pairs` and `dbias` have written the coupling rows, the
pairs with their counters at 0, the biases and colours, or, where an entry is malformed, have raised DUNE_CONFIG at the first such
entry; `dstream` has set the row base and fan-in; `dclamp` has set the clamps, and the clamped bits at once; `dinit` has set the
states and put the progress and the versions back, and reset its subscribers; `dlink` has linked or unlinked an entry, or found
its source in another context or full; `dread` has stored the states or the counters it names; `dclr` has cleared those and taken
a snapshot; a `dsweep` leaves when its sweeps are done, or with the bias, the horizon or the error ending. -/
def Obligations.DuneEvents : Prop :=
  ∀ (s : State) (core bid : Nat) (c : DuneCommand) (rest : List DuneCommand) (b : Block),
    let d := (s.core core).dune
    let ctx := (s.duneCtx core).getD 0
    let i : Instr := .duneCommandComplete core
    let dune (u : State) : Dune := (u.core core).dune
    let left (u : State) (bias horizon : Bool) : Prop := (dune u).queue = rest ∧ s.lowers u bid c.bar
      ∧ ∀ x, Tab.get? u.blocks bid = some x → (x.barrier c.bar).bias = ((b.barrier c.bar).bias || bias)
        ∧ (x.barrier c.bar).horizon = ((b.barrier c.bar).horizon || horizon)
    let word (bs : List Byte) (k : Nat) : Nat := leNat ((bs.drop (4 * k)).take 4)
    let fails (code cause : Nat) (at_ : Word) : Prop := s.alive c.issuer c.caravan = true → ∃ u, exec i s = .next u ∧ left u false false
      ∧ s.toldFault u c.issuer { barrier := c.bar, order := c.order, code := code, cause := cause, addr := at_, pc := c.pc }
    d.queue = c :: rest → c.bursts = 0 → s.duneBlock core = some (bid, b) → Tab.get? s.blocks bid = some b →
    (∀ k, c.form = .config k → ∃ u, exec i s = .next u ∧ left u false false ∧ (dune u).config = k ∧ (dune u).counts = d.counts
      ∧ (k.streamed = d.config.streamed → k.nbits = d.config.nbits → k.stateOff = d.config.stateOff → (dune u).states = d.states)
      ∧ (k.replay = d.config.replay → (dune u).samples = d.samples ∧ (dune u).witness = d.witness)
      ∧ (k.replay ≠ d.config.replay → (dune u).samples = 0))
    ∧ (∀ va first n bs, c.form = .load va first n → s.duneGets core bid ctx va (128 * n) bs →
      ((∀ r < n, ∀ e < 32, couplingOk 1024 (first + r) (word bs (32 * r + e)) = true) → ∃ u, exec i s = .next u ∧ left u false false
        ∧ ∀ k, Tab.getD (dune u).couplings k 0 = if 32 * first ≤ k ∧ k < 32 * (first + n) then
            BitVec.ofNat 32 (word bs (k - 32 * first)) else Tab.getD d.couplings k 0)
      ∧ (∀ r < n, (∃ e < 32, couplingOk 1024 (first + r) (word bs (32 * r + e)) = false) →
        (∀ q < r, ∀ e < 32, couplingOk 1024 (first + q) (word bs (32 * q + e)) = true) →
        fails codeDuneConfig 2 (va + BitVec.ofNat 64 (128 * r))))
    ∧ (∀ va bs, c.form = .pairs va → s.duneGets core bid ctx va 1024 bs →
      let ok (q : Nat) : Prop := let w := word bs q
        w / 2 ^ 30 % 2 = 0 ∧ w / 2 ^ 14 % 2 ^ 2 = 0 ∧ (w / 2 ^ 31 % 2 = 0 ∨ (w % 2 ^ 14 < 1024 ∧ w / 2 ^ 16 % 2 ^ 14 < 1024))
      ((∀ q < 256, ok q) → ∃ u, exec i s = .next u ∧ left u false false
        ∧ (∀ q < 256, Tab.getD (dune u).pairs q 0 = BitVec.ofNat 32 (word bs q)) ∧ (dune u).pairCounts = [])
      ∧ (∀ q < 256, ¬ ok q → (∀ r < q, ok r) → fails codeDuneConfig 2 (va + BitVec.ofNat 64 (4 * q))))
    ∧ (∀ va fan, c.form = .stream va fan → ∃ u, exec i s = .next u ∧ left u false false ∧ (dune u).rowBase = va ∧ (dune u).fan = fan)
    ∧ (∀ va first n bs, c.form = .bias va first n → s.duneGets core bid ctx va (4 * n) bs →
      ((∀ k < n, word bs k < 2 ^ 19) → ∃ u, exec i s = .next u ∧ left u false false ∧ ∀ k,
        Tab.getD (dune u).bias k 0 = (if first ≤ k ∧ k < first + n then BitVec.ofNat 16 (word bs (k - first)) else Tab.getD d.bias k 0)
        ∧ Tab.getD (dune u).colours k 0 = (if first ≤ k ∧ k < first + n then word bs (k - first) / 2 ^ 16 else Tab.getD d.colours k 0))
      ∧ (∀ k < n, 2 ^ 19 ≤ word bs k → (∀ j < k, word bs j < 2 ^ 19) → fails codeDuneConfig 2 (va + BitVec.ofNat 64 (4 * k))))
    ∧ (∀ va bs, c.form = .clamp va → s.duneGets core bid ctx va 256 bs → ∃ u, exec i s = .next u ∧ left u false false
      ∧ (dune u).clampMask = BitVec.ofNat 1024 (leNat (bs.take 128)) ∧ (dune u).clampVal = BitVec.ofNat 1024 (leNat (bs.drop 128))
      ∧ ∀ k < 1024, (dune u).states.read k = 1 ↔ if (dune u).clampMask.getLsbD k then (dune u).clampVal.getLsbD k = true
          else d.states.read k = 1)
    ∧ (∀ va bs, c.form = .init va → s.duneGets core bid ctx va (d.config.bits / 8) bs → ∃ u, exec i s = .next u ∧ left u false false
      ∧ (dune u).sweeps = 0 ∧ (dune u).phase = 0
      ∧ (∀ h e, Tab.get? d.horizon h = some e → Tab.get? (dune u).horizon h = some { e with versions := [(0, (0, false))] })
      ∧ u.horizonMsgs = s.horizonMsgs ++ (d.publish.filter (fun p => p.ctx = ctx)).map (fun p =>
          { source := core, core := p.core, block := p.block, entry := p.entry, reset := true, version := 0, value := false })
      ∧ (d.config.streamed = false → ∀ k < 1024, (dune u).states.read k = 1 ↔ if d.clampMask.getLsbD k then d.clampVal.getLsbD k = true
          else (leNat bs).testBit k = true))
    ∧ (∀ valid bit src entry, c.form = .link valid bit src entry →
      let t := s.unlink core entry
      let publish := (t.core src).dune.publish
      let open_ : Prop := (∀ k, s.duneCtx src = some k → k = ctx) ∧ publish.length < 256
      (valid = false → ∃ u, exec i s = .next u ∧ left u false false ∧ Tab.get? (dune u).horizon entry = none
        ∧ (∀ h ≠ entry, Tab.get? (dune u).horizon h = Tab.get? d.horizon h))
      ∧ (valid = true → open_ → ∃ u, exec i s = .next u ∧ left u false false
        ∧ Tab.get? (dune u).horizon entry = some { source := src, bit := bit, versions := [(0, (0, false))] }
        ∧ (∀ h ≠ entry, Tab.get? (dune u).horizon h = Tab.get? d.horizon h)
        ∧ (u.core src).dune.publish = publish ++ [{ core := core, block := bid, entry := entry, bit := bit, ctx := ctx }])
      ∧ (valid = true → ¬ open_ → fails codeDuneConfig 2 0))
    ∧ (∀ n burn corr w, c.form = .sweep n burn corr → d.sweep = some w →
      (w.ending = .running → n + burn ≤ w.done → ∃ u, exec i s = .next u ∧ left u false false ∧ (dune u).sweep = none)
      ∧ (w.ending = .running → w.done < n + burn → exec i s = .next s)
      ∧ (w.ending = .bias → ∃ u, exec i s = .next u ∧ left u true false)
      ∧ (w.ending = .horizon → ∃ u, exec i s = .next u ∧ left u false true)
      ∧ (∀ code cause at_, w.ending = .error code cause at_ → fails code cause at_))
    ∧ (∀ va sel ls, c.form = .read va sel → (sel = 0 → d.config.streamed = false) →
      s.locateAll ctx .write (addresses va (if sel = 0 then 128 else if sel = 1 then 4096 else 1024)) = .ok ls s → c.issuer / 64 = core →
      ls.Nodup → (∀ l ∈ ls, s.plainPlace l) → s.roomForAll core ls → ∃ u, exec i s = .next u ∧ left u false false
        ∧ (∀ l, l ∉ ls → u.placeByte core l = s.placeByte core l)
        ∧ ∀ k l, ls[k]? = some l → ∃ v : Byte, u.placeByte core l = some v
          ∧ (sel = 0 → ∀ j < 8, v.getLsbD j = decide (d.states.read (8 * k + j) = 1))
          ∧ (sel = 1 → v = BitVec.ofNat 8 (Tab.getD d.counts (k / 4) 0 / 2 ^ (8 * (k % 4))))
          ∧ (1 < sel → v = BitVec.ofNat 8 (Tab.getD d.pairCounts (k / 4) 0 / 2 ^ (8 * (k % 4)))))
    ∧ (∀ k, c.form = .clear k → ∃ u, exec i s = .next u ∧ left u false false
      ∧ (∀ n, Tab.getD (dune u).counts n 0 = if k % 2 = 1 then 0 else Tab.getD d.counts n 0)
      ∧ (∀ n, Tab.getD (dune u).pairCounts n 0 = if k / 2 % 2 = 1 then 0 else Tab.getD d.pairCounts n 0)
      ∧ (dune u).snapCounts = (dune u).counts ∧ (dune u).snapPairs = (dune u).pairCounts)

/-- R274 to R276, R226, R281, R282: COLOUR_PHASE_BEGIN starts the next phase of a sweep with the horizon values that its bits
read; it waits while one has no acceptable version, and ends the sweep in error where a bit reads an entry that is not linked,
with none but the bits of the colour undefined. COLOUR_PHASE_END gives each bit of the phase's colour that is not clamped its new
state, in replay mode the comparison of `dune_u` with the probability (of a generator that works), and leaves every other; in
physical mode each witness bit has one more sample; then the next phase is due, or the sweep is done and the progress count one
higher. Here for resident mode, with no subscriber. -/
def Obligations.SweepEvents : Prop :=
  ∀ (s : State) (core : Nat) (d : Dune) (c : DuneCommand) (w : Sweep) (n burn : Nat) (corr : Bool),
    s.Sweeps core d c w n burn corr → d.config.streamed = false →
    let rows := (List.range 1024).map d.residentRow
    let colour := d.config.order.getD d.phase 8
    let mine (k : Nat) : Prop := (d.residentRow k).colour = colour ∧ (d.residentRow k).clamped = false
    let read := entriesRead rows (updatedBits rows colour)
    let value (h : Nat) : Option Bool := (Tab.get? d.horizon h).bind (fun e => e.value d.config.replay (d.sweeps - d.config.stale))
    let old (k : Nat) : Bool := d.states.read k = 1
    let states := (List.range 1024).map old
    let last := d.config.order.length ≤ d.phase + 1
    (w.inPhase = false → d.publication = none → d.samples < 4096 → d.testDue = false → w.done < n + burn →
      ((∀ h ∈ read, (value h).isSome) → ∃ u x, exec (.colourPhaseBegin core) s = .next u ∧ (u.core core).dune.sweep = some x
        ∧ x.inPhase = true ∧ x.waiting = false ∧ x.done = w.done ∧ (u.core core).dune.states = d.states
        ∧ ∀ h ∈ read, Tab.get? x.hvals h = value h)
      ∧ ((∀ h ∈ read, (Tab.get? d.horizon h).isSome) → (∃ h ∈ read, value h = none) → ∃ u, exec (.colourPhaseBegin core) s = .next u
        ∧ (u.core core).dune.sweep = some { w with waiting := true } ∧ (u.core core).dune.states = d.states)
      ∧ ((∃ h ∈ read, Tab.get? d.horizon h = none) → ∃ u, exec (.colourPhaseBegin core) s = .next u
        ∧ (u.core core).dune.sweep = some { w with waiting := false, ending := .error codeDuneConfig 2 0 }
        ∧ (u.core core).dune.waitCount = 0 ∧ ∀ k < 1024, ¬ mine k → (u.core core).dune.states.read k = d.states.read k))
    ∧ (w.inPhase = true → d.config.replay = true → d.publish = [] → d.samples < 4096 → d.testDue = false → d.testPhases + 1 < 4096 →
      d.failed = none → d.broken = false → ∃ u x, exec (.colourPhaseEnd core) s = .next u ∧ (u.core core).dune.sweep = some x ∧ x.inPhase = false
        ∧ (∀ k < 1024, (u.core core).dune.states.read k = if mine k then
            (if duneU d.config.key k d.phase d.sweeps < (d.residentRow k).probability d.config.beta states w.hvals then 1 else 0)
          else d.states.read k)
        ∧ (¬ last → (u.core core).dune.phase = d.phase + 1 ∧ (u.core core).dune.sweeps = d.sweeps ∧ x.done = w.done
          ∧ (u.core core).dune.counts = d.counts)
        ∧ (last → (u.core core).dune.phase = 0 ∧ (u.core core).dune.sweeps = (d.sweeps + 1) % 2 ^ 32 ∧ x.done = w.done + 1
          ∧ (w.done < burn → (u.core core).dune.counts = d.counts)
          ∧ (burn ≤ w.done → ∀ k < 1024, Tab.getD (u.core core).dune.counts k 0 = if (u.core core).dune.states.read k = 1 then
              min (Tab.getD d.counts k 0 + 1) (2 ^ 32 - 1) else Tab.getD d.counts k 0)))
    ∧ (w.inPhase = true → d.config.replay = false → d.publish = [] → d.samples + 1 < 4096 → d.testDue = false → d.failed = none →
      ∃ u x, exec (.colourPhaseEnd core) s = .next u ∧ (u.core core).dune.sweep = some x ∧ x.inPhase = false
        ∧ (u.core core).dune.samples = d.samples + 1
        ∧ (∀ k < 1024, ¬ mine k → (u.core core).dune.states.read k = d.states.read k)
        ∧ (u.core core).dune.phase = (if last then 0 else d.phase + 1) ∧ x.done = (if last then w.done + 1 else w.done))

/-- R279, R280, R283, R284 to R287, R412, R413: a publication that arrives is put into its entry, unless the slot holds a higher
version, and a reset leaves only version 0 with value −1; a wait that has lasted the timeout ends the sweep with the horizon
ending and sets the lost flag. A full witness window is closed: one whose counts all lie in 1,948 to 2,148 snapshots the counters,
and another fails the sweep; the self-test that is due runs, and a generator that works passes. A calibration that passed makes a
SUSPECT array OK where an ARRAY_CLEAR asked for it. -/
def Obligations.HorizonAndHealth : Prop :=
  (∀ (s : State) (core entry : Nat) (m : HorizonMessage) (rest : List HorizonMessage) (e : HorizonEntry),
    nextMessage core entry [] s.horizonMsgs = some (m, rest) → (s.duneBlock core).map Prod.fst = some m.block →
    Tab.get? (s.core core).dune.horizon entry = some e → e.source = m.source →
    (m.reset = false → ∃ u, exec (.horizonPublication core entry) s = .next u ∧ u.horizonMsgs = rest
      ∧ Tab.get? (u.core core).dune.horizon entry = some (
        match Tab.get? e.versions (m.version % 8) with
        | some v => if m.version < v.1 then e else { e with versions := Tab.set e.versions (m.version % 8) (m.version, m.value) }
        | none => { e with versions := Tab.set e.versions (m.version % 8) (m.version, m.value) }))
    ∧ (m.reset = true → ∃ u, exec (.horizonReset core entry) s = .next u ∧ u.horizonMsgs = rest
      ∧ Tab.get? (u.core core).dune.horizon entry = some { e with versions := [(0, (0, false))] })
    ∧ (m.reset = true → exec (.horizonPublication core entry) s = .next s)
    ∧ (m.reset = false → exec (.horizonReset core entry) s = .next s))
  ∧ (∀ (s : State) (core : Nat), let d := (s.core core).dune
    (∀ w, d.sweep = some w → w.ending = .running → w.waiting = true → d.config.timeout ≠ 0 →
      (d.config.timeout ≤ d.waitCount → ∃ u, exec (.horizonTimeout core) s = .next u ∧ (u.core core).dune.lost = true
        ∧ (u.core core).dune.sweep = some { w with ending := .horizon, waiting := false })
      ∧ (d.waitCount < d.config.timeout → exec (.horizonTimeout core) s = .next s))
    ∧ (4096 ≤ d.samples → s.duneSaving core = false → sortedKeys d.witness → ∃ u, exec (.witnessWindowClose core) s = .next u
      ∧ (u.core core).dune.samples = 0
      ∧ (∀ b w, Tab.get? d.witness b = some w → ∃ x, Tab.get? (u.core core).dune.witness b = some x ∧ x.closedOnes = w.ones
        ∧ x.closedAgree = w.agree ∧ x.ones = 0 ∧ x.agree = 0)
      ∧ (let bad (b : Nat) : Prop := let w := Tab.getD d.witness b Witness.blank
          ¬ (1948 ≤ w.ones ∧ w.ones ≤ 2148 ∧ 1948 ≤ w.agree ∧ w.agree ≤ 2148)
        ((∀ b < 16, ¬ bad b) → (u.core core).dune.snapCounts = d.counts ∧ (u.core core).dune.snapPairs = d.pairCounts)
        ∧ (∀ b < 16, bad b → (∀ a < b, ¬ bad a) → d.failed = none →
          (u.core core).dune.snapCounts = d.snapCounts ∧ (u.core core).dune.sweep = d.sweep ∧ (u.core core).dune.failed =
            some (b, (Tab.getD d.witness b Witness.blank).ones, (Tab.getD d.witness b Witness.blank).agree))))
    ∧ (d.samples < 4096 → exec (.witnessWindowClose core) s = .next s)
    ∧ (d.testDue = true → s.duneSaving core = false → ∃ u, exec (.generatorSelfTest core) s = .next u
      ∧ (u.core core).dune.testDue = false ∧ (u.core core).dune.sweep = d.sweep
      ∧ (d.broken = false → (u.core core).dune.snapCounts = d.counts ∧ (u.core core).dune.failed = d.failed)
      ∧ (d.broken = true → d.failed = none → ((u.core core).dune.failed = none ∧ (u.core core).dune.snapCounts = d.counts)
        ∨ ((u.core core).dune.failed = some (0, 0, 0) ∧ (u.core core).dune.snapCounts = d.snapCounts)))
    ∧ (d.testDue = false → exec (.generatorSelfTest core) s = .next s)
    ∧ (∀ start passed, d.calibrating = some start →
      ((s.die (core / 48)).cyc < start + Config.calibrationCycles → exec (.calibrationComplete core passed) s = .next s)
      ∧ (start + Config.calibrationCycles ≤ (s.die (core / 48)).cyc → ∃ u, exec (.calibrationComplete core passed) s = .next u
        ∧ (u.core core).dune.calibrating = none
        ∧ (s.healthOf core = 1 → passed = true → u.healthOf core = if d.toClear then 0 else 1)
        ∧ (s.healthOf core = 1 → passed = false → u.healthOf core = 1)
        ∧ (s.healthOf core = 2 → u.healthOf core = 2)))
    ∧ (∀ passed, d.calibrating = none → exec (.calibrationComplete core passed) s = .next s))

/-- R311 to R315, R323 to R327, R350 to R352, R416: a write to `trig`g makes a run due, or pending behind one, or sets the lost
bit. GRAPH_RUN_START begins a due run, once the reserves of every node can be set aside. LAUNCHER_CYCLE, once in a local cycle,
hands over a block for the first DUE node: it holds the node's oldest PENDING records, a group of them at most. An age changes
nothing of itself. POOL_STALL raises its fault at the waiters of a graph in pool stall. GRAPH_RUN_END ends a run with nothing
left, COMPLETE, FAULTED with its lowest fault code or SEED_FAIL with the seed's number, and the pending trigger is due. -/
def Obligations.GraphEvents : Prop :=
  (∀ (s : State) (slot : Nat) (value : BitVec 64), slot < 16 →
    let lost : State := { s with bar := { s.bar with lostTriggers := s.bar.lostTriggers ||| BitVec.ofNat 16 (2 ^ slot) } }
    let t : Trigger := { value := value, completions := [], home := 0 }
    (Tab.get? s.graphs slot = none → exec (.triggerWrite slot value) s = .next lost)
    ∧ (∀ x, Tab.get? s.graphs slot = some x →
      let put (y : GraphSlot) : State := { s with graphs := Tab.set s.graphs slot y }
      (x.run = none → x.due = none → exec (.triggerWrite slot value) s = .next (put { x with due := some t }))
      ∧ ((x.run ≠ none ∨ x.due ≠ none) → x.pending = none → exec (.triggerWrite slot value) s = .next (put { x with pending := some t }))
      ∧ ((x.run ≠ none ∨ x.due ≠ none) → x.pending ≠ none → exec (.triggerWrite slot value) s = .next lost)))
  ∧ (∀ (s : State) (slot : Nat) (x : GraphSlot) (due : Trigger), Tab.get? s.graphs slot = some x → x.stage = true → x.run = none →
    x.due = some due → due.value = 0 → fld (descWord x.desc 0) 112 16 = 0 →
    let run := GraphRun.start (.signal x.ctx x.signal :: due.completions) due.home
    let y : GraphSlot := { x with due := none, run := some run }
    let t : State := { s with graphs := Tab.set s.graphs slot { y with run := some { run with begun := true } } }
    (t.setReserves slot y (List.range (graphNodes x.desc)) = none → exec (.graphRunStart slot) s =
      .next { s with graphs := Tab.set s.graphs slot y })
    ∧ (t.setReserves slot y (List.range (graphNodes x.desc)) ≠ none → ∃ u g r, exec (.graphRunStart slot) s = .next u
      ∧ Tab.get? u.graphs slot = some g ∧ g.run = some r ∧ g.due = none ∧ r.begun = true ∧ r.home = due.home
      ∧ r.completions = run.completions ∧ r.seedFail = none ∧ ∀ k < graphNodes x.desc, ∃ n, Tab.get? r.nodes k = some n
        ∧ n.pool = [] ∧ n.commits = 0 ∧ n.reserve / 48 = (graphNode x.desc k).die))
  ∧ (∀ (s : State) (die core g i : Nat) (rest : List (Nat × Nat)) (x : GraphSlot) (r : GraphRun) (n : Node) (t : State),
    let d := graphNode x.desc i
    let take := n.ready.take d.group
    let v := s.modDie die (fun e => { e with acts := Tab.set e.acts 2 (e.cyc + 1) })
    (s.die die).acted 2 = false → (∀ h ∈ s.graphs, ∀ y, h.2.run = some y → ∀ k ∈ y.nodes, k.2.waiters = []) →
    s.dueNodes die = (g, i) :: rest → Tab.get? s.graphs g = some x → x.run = some r → Tab.get? r.nodes i = some n →
    s.findCores d.die x.ctx d.pk = some [core] → (∀ h ∈ s.graphs, h.2.stage = true) → (∀ k ∈ take, (n.slot k).owed = []) →
    v.frontWrite x.ctx (d.lbase + BitVec.ofNat 64 (8 * d.group * take.getD 0 0))
      (take.flatMap (fun k => leBytes 8 (d.pbase + BitVec.ofNat 64 (d.size * k)).toNat)) = .ok () t → t.graphs = s.graphs →
    ∃ u k b q y z m, exec (.launcherCycle die) s = .next u ∧ Tab.get? u.blocks k = some b ∧ b.pk = d.pk ∧ b.record = some q
      ∧ q.graph = g ∧ q.node = i ∧ q.held = take ∧ q.count = take.length
      ∧ Tab.get? u.graphs g = some y ∧ y.run = some z ∧ z.blocks = r.blocks + 1
      ∧ z.partials = r.partials + (if take.length < d.group then 1 else 0) ∧ Tab.get? z.nodes i = some m
      ∧ m.started = n.started + 1 ∧ ∀ j ∈ take, (m.slot j).state = .held)
  ∧ (∀ (s : State) (die : Nat), (s.die die).acted 2 = false → s.dueNodes die = [] →
    (∀ g ∈ s.graphs, ∀ r, g.2.run = some r → r.home ≠ die ∧ ∀ k ∈ r.nodes, k.2.waiters = []) →
    exec (.launcherCycle die) s = .next (s.modDie die (fun e => { e with acts := Tab.set e.acts 2 (e.cyc + 1) })))
  ∧ (∀ (s : State) (die : Nat), (s.die die).acted 2 = true → exec (.launcherCycle die) s = .next s)
  ∧ (∀ (s : State) (slot node : Nat), exec (.launcherAgeTimeout slot node) s = .next s)
  ∧ (∀ (s : State) (slot : Nat) (x : GraphSlot) (r : GraphRun), Tab.get? s.graphs slot = some x → x.run = some r →
    (s.poolStalled slot r = false → exec (.poolStall slot) s = .next s)
    ∧ (∀ i n w c y, s.poolStalled slot r = true → r.nodes = [(i, n)] → n.waiters = [w] → s.caravan? (w.path / 2) = some c →
      Tab.get? c.paths (w.path % 2) = some y → exec (.poolStall slot) s =
        .next ((s.withdraw (w.path / 2) (w.path % 2)).raiseTrap (w.path / 2) (w.path % 2)
          { code := codePoolStall, cause := 0, addr := 0, pc := scalarPc y.spc, resume := y.spc, removed := [] }))
    ∧ (s.runOver slot x r = false → exec (.graphRunEnd slot) s = .next s)
    ∧ (s.runOver slot x r = true → x.stage = true → r.seedFail = none → (∀ n ∈ r.nodes, n.2.inState .counting = []) →
      s.tellWaits r.completions = none →
      (r.faulted = none → exec (.graphRunEnd slot) s = .next (s.endRun slot r.completions (status 0 0)))
      ∧ (∀ c, r.faulted = some c → exec (.graphRunEnd slot) s =
        .next ((s.trail r.home x.ctx 0x3f 0x02 4 c (some 0)).endRun slot r.completions (status 4 c))))
    ∧ (∀ k, s.runOver slot x r = true → x.stage = true → r.seedFail = some k → (∀ n ∈ r.nodes, n.2.inState .counting = []) →
      s.tellWaits r.completions = none → exec (.graphRunEnd slot) s =
        .next ((s.trail r.home x.ctx 0x3f 0x02 statusSeedFail (k % 256) (some 0)).endRun slot r.completions (status statusSeedFail (k % 256))))
    ∧ (∀ y, ∃ g, Tab.get? (s.endRun slot [] y).graphs slot = some g ∧ g.run = none ∧ g.due = x.pending ∧ g.pending = none))

/-- R360, R363: MSG_SEND sends its message in fragments, numbered for its receiver, and stays open; without a live port it ends
with LINK_ERROR. MSG_RECV posts a receive, and takes a message that waits for it. A data frame that is new is kept and
acknowledged, one that comes again is acknowledged, and one that finds the backlog full is told so. An acknowledgement that
completes a message completes its command; a fragment is sent again when 1/16 of the remote completion timeout has passed since it
was last sent, or answered by a full backlog; what waited for a full backlog is sent again when it is open. A frame of another
kind or for another package is discarded. -/
def Obligations.MessageEvents : Prop :=
  (∀ (s : State) (q : Nat) (c : Command) (data : List Byte), s.Issuable q c →
    let t := s.opened q c
    let ctx := (s.queueDesc q).ctx
    let dst := c.w3.toNat % 2 ^ 19
    let tag := c.w3.toNat / 2 ^ 32
    let seq := Tab.getD s.netin.nextSeq dst 0
    t.commandCheck (some 9) c = none → t.frontRead ctx c.w1 c.w2.toNat = .ok data t →
    (s.netin.portFor tag = none → completes s q (.msgSend q c) (status 7 (tag % 16)) (t.linkError (tag % 16)))
    ∧ (∀ port, s.netin.portFor tag = some port → ∃ (u : State) (m : Message) (k : Nat), exec (.msgSend q c) s = .next (u.refreshQueue q)
      ∧ Tab.get? u.netin.sends k = some m ∧ m.data = data ∧ m.dst = dst ∧ m.tag = tag ∧ m.seq = seq ∧ m.acked = []
      ∧ Tab.getD u.netin.nextSeq dst 0 = seq + 1
      ∧ s.sends u ((fragmentOffsets (s.netin.payload port) data.length).map (fun o => (port,
          { header := frameHeader 0 s.netin.package dst tag seq o data.length,
            payload := (data.drop o).take (s.netin.payload port) })))))
  ∧ (∀ (s : State) (q : Nat) (c : Command), s.Issuable q c →
    let t := s.opened q c
    let r : Receive := { ctx := (s.queueDesc q).ctx, buffer := c.w1, limit := c.w2.toNat, src := c.w3.toNat % 2 ^ 19,
                         tag := c.w3.toNat / 2 ^ 32, command := s.nextUid }
    let posted := t.modNetin (fun n => { n with receives := n.receives ++ [r] })
    t.commandCheck (some 10) c = none → s.netin.fullTold = [] →
    (s.netin.arrivals = [] → exec (.msgRecv q c) s = .next (posted.refreshQueue q))
    ∧ (∀ a bs v, s.netin.arrivals = [a] → s.netin.receives = [] → a.kind = 0 → a.delivered = false → a.seq = 0 → a.src = r.src →
      a.tag = r.tag → a.whole 1 = some bs → posted.signalWait r.ctx c.w7 = none →
      posted.frontWrite r.ctx c.w1 (bs.take r.limit) = .ok () v → v.netin = posted.netin →
      exec (.msgRecv q c) s = .next (((v.modNetin (fun n => { n with receives := [], arrivals := [a.done] })).completeCommand s.nextUid
        (status 0 (if r.limit < bs.length then 1 else 0))).refreshQueue q)))
  ∧ (∀ (s : State) (port : Nat) (f : Frame), let h := f.header.toNat
    (s.frameFor 0 f = false → exec (.netinDataFrame port f) s = .next s)
    ∧ (s.frameFor 0 f = true → s.netin.accepted f = true → exec (.netinDataFrame port f) s = .next (s.sendFrame port (s.answerTo 1 f)))
    ∧ (s.frameFor 0 f = true → s.netin.accepted f = false → s.netin.backlog < 256 → s.netin.receives = [] → s.netin.fullTold = [] →
      ∃ u a, exec (.netinDataFrame port f) s = .next u ∧ s.sends u [(port, s.answerTo 1 f)] ∧ a ∈ u.netin.arrivals
        ∧ a.src = fld h 32 19 ∧ a.seq = fld h 128 64 ∧ Tab.get? a.parts (fld h 192 32) = some f.payload)
    ∧ (s.frameFor 0 f = true → s.netin.accepted f = false → 256 ≤ s.netin.backlog → ∃ u, exec (.netinDataFrame port f) s = .next u
      ∧ s.sends u [(port, s.answerTo 4 f)] ∧ u.netin.arrivals = s.netin.arrivals ∧ (fld h 32 19, port) ∈ u.netin.fullTold)
    ∧ exec (.reservedKindFrame port f) s = .next s)
  ∧ (∀ (s : State) (port k : Nat) (m : Message) (f : Frame), let h := f.header.toNat
    s.netin.sends = [(k, m)] → (m.dst = fld h 32 19 ∧ m.seq = fld h 128 64) →
    let acked := if fld h 192 32 ∈ m.acked then m.acked else m.acked ++ [fld h 192 32]
    let whole := ∀ o ∈ m.offsets s.netin, o / m.unit ∈ acked
    let now := (s.die (m.port / 4)).cyc
    let again (os : List Nat) : Message := { m with held := false, last := os.foldl (fun t o => Tab.set t o now) m.last }
    (s.frameFor 1 f = true → ¬ whole → exec (.netinAckFrame port f) s =
      .next (s.modNetin (fun n => { n with sends := [(k, { m with acked := acked, held := false })] })))
    ∧ (∀ o, s.frameFor 1 f = true → whole → m.kind = 0 → (∀ x ∈ s.netin.collectives, x.command ≠ m.command) →
      Tab.get? s.commands m.command = some o → s.signalWait o.ctx o.command.w7 = none →
      exec (.netinAckFrame port f) s = .next ((s.modNetin (fun n => { n with sends := [] })).completeCommand m.command (status 0 0)))
    ∧ (s.frameFor 1 f = false → exec (.netinAckFrame port f) s = .next s)
    ∧ (s.frameFor 4 f = true → exec (.backlogFullFrame port f) s =
      .next (s.modNetin (fun n => { n with sends := [(k, { again (m.open_ s.netin) with held := true })] })))
    ∧ (s.frameFor 5 f = true → m.held = true → m.acked = [] → m.unit ∈ [1, 2, 4] → ∃ u, exec (.backlogOpenFrame port f) s = .next u
      ∧ Tab.get? u.netin.sends k = some (again ((m.offsets s.netin).map (· / m.unit)))
      ∧ s.sends u ((m.offsets s.netin).map (fun o => (m.port, m.fragment s.netin o))))
    ∧ (∀ o, let due := Tab.getD m.last o m.since + Config.remoteTimeout / 16 ≤ now
      (0 < m.unit → o * m.unit ∈ m.offsets s.netin → o ∉ m.acked → due → ∃ u, exec (.fragmentRetry k o) s = .next u
        ∧ s.sends u [(m.port, m.fragment s.netin (o * m.unit))] ∧ Tab.get? u.netin.sends k = some (again [o]))
      ∧ (o ∈ m.acked ∨ ¬ due → exec (.fragmentRetry k o) s = .next s)))

/-- R360, R364, R365: COLLECTIVE of a format that is none ends REJECTED 14; a rank other than 0 sends its wire values to rank 0
and waits. A frame of a collective that is new is kept and acknowledged; a rank whose results have come writes them to its buffer,
and its command is COMPLETE when every rank has them: at once in a communicator of two, later where more ranks may still wait. -/
def Obligations.CollectiveEvents : Prop :=
  (∀ (s : State) (q : Nat) (c : Command), s.Issuable q c → let t := s.opened q c
    let ctx := (s.queueDesc q).ctx
    let w := c.w2.toNat
    let count := w % 2 ^ 32
    let fmt := w / 2 ^ 32 % 2 ^ 4
    t.commandCheck (some 8) c = none →
    (fmt ∉ [0, 2, 3, 4] → completes s q (.collectiveCommand q c) (status 2 14) t)
    ∧ (∀ h rs xs port, fmt ∈ [0, 2, 3, 4] → w / 2 ^ 36 % 2 ^ 4 ≤ 2 → w / 2 ^ 40 % 2 = 0 → t.frontNat ctx c.w4 16 = .ok h t →
      let n := h % 2 ^ 20
      let own := h / 2 ^ 32 % 2 ^ 20
      0 < own → own < n → n ≤ 524288 → t.frontRead ctx (c.w4 + 16) (4 * n) = .ok rs t → t.frontRead ctx c.w1 (4 * count) = .ok xs t →
      s.netin.collectives = [] → s.netin.arrivals = [] → s.netin.portFor (Tab.getD s.netin.collNumber (ctx * 2 ^ 64 + c.w4.toNat) 0) = some port →
      let number := Tab.getD s.netin.collNumber (ctx * 2 ^ 64 + c.w4.toNat) 0
      let wire := (elements 4 xs).map (wireValue fmt)
      ∃ (u : State) (k : Nat) (m : Message), exec (.collectiveCommand q c) s = .next (u.refreshQueue q) ∧ Tab.get? u.netin.sends k = some m ∧ m.kind = 2
        ∧ m.dst = (elements 4 rs).getD 0 0 ∧ m.tag = number ∧ m.total = count
        ∧ m.data = wire.flatMap (leBytes (if fmt = 0 then 4 else if fmt = 2 then 2 else 1))
        ∧ u.netin.collectives = [{ command := s.nextUid, ctx := ctx, buffer := c.w1, count := count, fmt := fmt,
                                   op := w / 2 ^ 36 % 2 ^ 4, ranks := elements 4 rs, own := own, number := number, wire := wire }]))
  ∧ (∀ (s : State) (port : Nat) (f : Frame) (result : Bool),
    let i : Instr := if result then .collectiveResultFrame port f else .collectiveContributionFrame port f
    let kind := if result then 3 else 2
    let h := f.header.toNat
    (s.frameFor kind f = false → exec i s = .next s)
    ∧ (s.frameFor kind f = true → s.netin.accepted f = true → exec i s = .next (s.sendFrame port (s.answerTo 1 f)))
    ∧ (s.frameFor kind f = true → s.netin.accepted f = false → s.netin.collectives = [] → ∃ u a, exec i s = .next u
      ∧ s.sends u [(port, s.answerTo 1 f)] ∧ a ∈ u.netin.arrivals ∧ a.src = fld h 32 19 ∧ a.seq = fld h 128 64
      ∧ Tab.get? a.parts (fld h 192 32) = some f.payload))
  ∧ (∀ (s : State) (port : Nat) (f : Frame) (c : Collective) (o : OpenCommand) (v : State), let h := f.header.toNat
    let a : Arrival := { kind := 3, src := fld h 32 19, tag := fld h 96 32, seq := fld h 128 64, total := fld h 224 32,
                         parts := [(fld h 192 32, f.payload)], delivered := false, port := port, since := (s.die (port / 4)).cyc }
    let t := (s.modNetin (fun n => { n with arrivals := [a] })).sendFrame port (s.answerTo 1 f)
    s.frameFor 3 f = true → s.netin.arrivals = [] → s.netin.collectives = [c] → c.own ≠ 0 → c.written = false → c.ranks.getD 0 0 = a.src →
    a.tag = c.number →
    a.total = c.count → f.payload.length = 4 * c.count → Tab.get? s.commands c.command = some o → t.signalWait o.ctx o.command.w7 = none →
    t.frontWrite c.ctx c.buffer f.payload = .ok () v → v.netin = t.netin →
    (c.ranks.length ≤ 2 → exec (.collectiveResultFrame port f) s = .next
      ((v.modNetin (fun n => { n with arrivals := [a.done], collectives := [] })).completeCommand c.command (status 0 0)))
    ∧ ∃ u, exec (.collectiveResultFrame port f) s = .next u ∧ u.netin.arrivals = [a.done]
      ∧ u.netin.collectives ∈ [[], [{ c with written := true }]])

/-- R361, R362: a request of another package is performed at its home, here where no capsule cell is (R176): a read is answered
with the bytes there, a store leaves them, an atomic the new value after the old has been answered, and every other byte stays; a
pull pushes what is dirty in the core it names, once that core's stores to other packages are acknowledged. A request that has not
been answered within the remote completion timeout, or whose port fails, is told in the trail, a read answered with poison and a
store dropped; a message that has not been acknowledged by then fails its command; a failed port stays failed until the driver
restores it. -/
def Obligations.NetinFailures : Prop :=
  (∀ (s : State) (a : Nat),
    let bytes (n : Nat) := (List.range n).map (fun i => s.rawByte (a + i))
    let leaves (u : State) (bs : List Byte) : Prop := ∀ i, u.rawByte i = if a ≤ i ∧ i < a + bs.length then bs.getD (i - a) 0 else s.rawByte i
    (∀ n, a + n ≤ 2 ^ 39 → s.quiet a n → ∃ u, exec (.netinRemoteRequest (.load a n)) s = .next u
      ∧ u.netin.reply = some (false, bytes n) ∧ leaves u [])
    ∧ (∀ bs, a + bs.length ≤ 2 ^ 39 → s.cellsIn a bs.length = [] → ∃ u, exec (.netinRemoteRequest (.store a bs)) s = .next u ∧ leaves u bs)
    ∧ (∀ bs, a + bs.length ≤ 2 ^ 39 → s.cellsIn a bs.length = [] → ∃ u r, exec (.netinRemoteRequest (.release a bs)) s = .next u ∧ leaves u bs
      ∧ Tab.get? u.releases a = some r ∧ r.size = bs.length)
    ∧ (∀ wide op uns b c, let n := if wide then 8 else 4
      a + n ≤ 2 ^ 39 → s.quiet a n → s.cellsIn a n = [] → ∃ u, exec (.netinRemoteRequest (.atomic a wide op uns b c)) s = .next u
        ∧ u.netin.reply = some (false, bytes n)
        ∧ leaves u (leBytes n (atomNew (8 * n) op uns (leNat (bytes n)) b.toNat c.toNat)))
    ∧ (∀ fmt op fpc v, let n := formatBits fmt / 8
      a + n ≤ 2 ^ 39 → s.quiet a n → s.cellsIn a n = [] → ∃ u, exec (.netinRemoteRequest (.reduce a fmt op fpc v)) s = .next u
        ∧ leaves u (leBytes n (updateNew fmt op (fpc.testBit 0) (fpc.testBit 1) (fpc.testBit 2) (leNat (bytes n)) v.toNat)))
    ∧ (∀ n, a + n ≤ 2 ^ 39 → s.quiet a n → s.releases = [] → ∃ u, exec (.netinRemoteRequest (.acquire a n)) s = .next u
      ∧ u.netin.reply = some (false, bytes n) ∧ leaves u [])
    ∧ (∀ core, (s.unacknowledged core = [] → ∃ u, exec (.netinRemoteRequest (.pull core)) s = .next u
        ∧ u.netin.reply = some (false, []) ∧ s.flushed u core)
      ∧ (s.unacknowledged core ≠ [] → exec (.netinRemoteRequest (.pull core)) s = .next s))
    ∧ (∀ n, 2 ^ 48 < a + n → exec (.netinRemoteRequest (.load a n)) s = .fault .noStorage))
  ∧ (∀ (s : State) (id : Nat) (o : Outstanding), Tab.get? s.netin.outstanding id = some o →
    let due := o.since + Config.remoteTimeout ≤ (s.die (o.port / 4)).cyc
    (o.failed = false → o.answer = none → due → ∃ u, exec (.remoteCompletionTimeout id) s = .next u ∧ s.trailed u (o.port / 4) 0x06 1
      ∧ Tab.get? u.netin.outstanding id = if o.write then none else some { o with failed := true })
    ∧ ((o.failed = true ∨ o.answer ≠ none ∨ ¬ due) → exec (.remoteCompletionTimeout id) s = .next s))
  ∧ (∀ (s : State) (id : Nat) (m : Message), Tab.get? s.netin.outstanding id = none → Tab.get? s.netin.sends id = some m →
    let due := m.since + Config.remoteTimeout ≤ (s.die (m.port / 4)).cyc
    (due → exec (.remoteCompletionTimeout id) s = .next ((s.linkError m.port).failCommand m.command m.port))
    ∧ (¬ due → exec (.remoteCompletionTimeout id) s = .next s))
  ∧ (∀ (s : State) (port : Nat), port < 16 → s.netin.sends = [] → sortedKeys s.netin.outstanding →
    (∃ u, exec (.netinPortFailure port) s = .next u ∧ u.netin.failedPorts = s.netin.failedPorts ||| BitVec.ofNat 16 (2 ^ port)
      ∧ (∀ id o, Tab.get? s.netin.outstanding id = some o → Tab.get? u.netin.outstanding id =
        if o.port = port ∧ o.failed = false ∧ o.answer = none then (if o.write then none else some { o with failed := true }) else some o))
    ∧ (∃ u, exec (.netinPortRestore port) s = .next u ∧ u.netin.failedPorts.getLsbD port = false
      ∧ ∀ k < 16, k ≠ port → u.netin.failedPorts.getLsbD k = s.netin.failedPorts.getLsbD k))

/-- R9, R330, R332, R334, R351, R356, R366, R415: what the host does. A doorbell gives its queue its tail. A write of one to
enable checks the chosen features and sets ready, which a refused firmware image withholds (R417); the feature words can be
written before; the queue table, the lost triggers (a one clears) and the power setting, from 24 to 48, are written; a reset bit
resets. BAR2 reads and writes memory at its home, here where no capsule cell is (R176) and no caravan's stack area (R51). A reset
leaves memory zero and nothing running; the health of the arrays, and on a warm or a function-level reset the trails, with one
record more, are kept. -/
def Claims.HostEvents : Prop :=
  (∀ (s : State) (value : BitVec 64), let q := value.toNat % 2 ^ 12
    let run := (s.modQueue q (fun x => { x with tail := value.toNat / 2 ^ 16 % 2 ^ 16 % 2 ^ (s.queueDesc q).log2n })).refreshQueue q
    ∀ i ∈ [Instr.doorbell value, .registerWrite 0x58 value],
      (s.queueLive q = true → exec i s = .next run) ∧ (s.queueLive q = false → exec i s = .next s))
  ∧ (∀ (s : State) (value : BitVec 64), let v := value.toNat % 64
    ∀ i ∈ [Instr.pwrSetWrite value, .registerWrite 0x68 value],
      exec i s = .next (if 24 ≤ v ∧ v ≤ 48 then { s with bar := { s.bar with pwrSet := v } } else s))
  ∧ (∀ (s : State) (value : BitVec 64), ∀ i ∈ [Instr.deviceEnable, .registerWrite 0x40 value],
    (i = .deviceEnable ∨ value.getLsbD 1 = false ∧ value.getLsbD 0 = true) →
    (s.bar.enabled = true → exec i s = .next s)
    ∧ (s.bar.enabled = false → (∀ k, 14 ≤ k → s.bar.featEn.getLsbD k = false) → s.bar.featEn.getLsbD 0 = true → exec i s =
      .next { s with bar := { s.bar with enabled := true, ready := !s.bar.refused, featErr := false } })
    ∧ (s.bar.enabled = false → (s.bar.featEn.getLsbD 0 = false ∨ ∃ k, 14 ≤ k ∧ s.bar.featEn.getLsbD k = true) → exec i s =
      .next { s with bar := { s.bar with featErr := true } }))
  ∧ (∀ (s : State) (value : BitVec 64),
    (∀ k < 4, s.bar.enabled = false → ∃ u, exec (.registerWrite (0x20 + 8 * k) value) s = .next u ∧ ∀ n < 256, u.bar.featEn.getLsbD n =
      if n / 64 = k then value.getLsbD (n % 64) else s.bar.featEn.getLsbD n)
    ∧ (∃ u, exec (.registerWrite 0x50 value) s = .next u ∧ ∀ n < 64, u.bar.qtab.getLsbD n =
      (value.getLsbD n && ((6 ≤ n && n < 48) || 52 ≤ n)))
    ∧ (∃ u, exec (.registerWrite 0x60 value) s = .next u ∧ ∀ n < 16, u.bar.lostTriggers.getLsbD n =
      (s.bar.lostTriggers.getLsbD n && !value.getLsbD (32 + n)))
    ∧ (∀ k < 16, exec (.registerWrite (0x100 + 8 * k) value) s = exec (.triggerWrite k value) s))
  ∧ (∀ (s : State) (a : Nat) (bs : List Byte), a + bs.length ≤ 2 ^ 39 → s.cellsIn a bs.length = [] → ∃ u, exec (.hostMemoryWrite a bs) s = .next u
    ∧ ∀ i, u.rawByte i = if a ≤ i ∧ i < a + bs.length then bs.getD (i - a) 0 else s.rawByte i)
  ∧ (∀ (s : State) (a n : Nat), a + n ≤ 2 ^ 39 → s.quiet a n → (∀ i < n, s.isStack (a + i) = false) →
    ∃ u, exec (.hostMemoryRead a n) s = .next u ∧ u.mem = s.mem
    ∧ u.writes = s.writes ∧ u.hostReads = (List.range n).map (fun i => s.rawByte (a + i)))
  ∧ (∀ (s : State) (value : BitVec 64), s.flash.pendingImage = none → s.restripes = [] → s.flash.image = (0, 0) →
    ∀ i ∈ [Instr.warmReset, .functionLevelReset, .coldReset, .registerWrite 0x40 value], (i = .registerWrite 0x40 value → value.getLsbD 1 = true) →
    ∃ u, exec i s = .next u ∧ (∀ a, u.rawByte a = 0) ∧ u.poison = [] ∧ u.blocks = [] ∧ u.caravans = [] ∧ u.cores = [] ∧ u.contexts = []
      ∧ u.graphs = [] ∧ u.saved = [] ∧ u.bar.enabled = false ∧ u.bar.ready = false ∧ u.bar.pwrSet = 48 ∧ u.flash.health = s.flash.health
      ∧ (∀ d < 4, (u.die d).cyc = 0 ∧ (u.die d).timers = [])
      ∧ (i = .coldReset → ∀ d < 4, (u.die d).trailCount = 0)
      ∧ (i ≠ .coldReset → s.trailed u 0 0x0c 0 ∧ ∀ d < 4, d ≠ 0 → (u.die d).trail = (s.die d).trail
        ∧ (u.die d).trailCount = (s.die d).trailCount))

/-- R418: each request of the identity protocol is answered: the version is 1.3, and the objects are the machine's own (log entry
12). A request changes nothing else. -/
def Claims.IdentityEvents : Prop :=
  ∀ (s : State) (slot offset count nonce index : Nat) (signed : Bool),
    let gives (i : Instr) (k : Nat) (data : List Nat) : Prop :=
      exec i s = .next { s with spdm := s.spdm ++ [{ command := k, tag := 0, status := 0, data := data }] }
    let object (kind arg n : Nat) := (List.range n).map (fun i => Config.identityByte kind arg i % 256)
    gives .spdmGetVersion 0x84 [0x13]
    ∧ gives .spdmGetCapabilities 0xe1 (object 0 0 4) ∧ gives .spdmNegotiateAlgorithms 0xe3 (object 1 0 4)
    ∧ gives .spdmGetDigests 0x81 (object 2 0 32)
    ∧ gives (.spdmGetCertificate slot offset count) 0x82
      ((List.range count).map (fun i => Config.identityByte 3 slot (offset + i) % 256))
    ∧ gives (.spdmChallenge slot nonce) 0x83 (object 2 slot 32 ++ object 16 nonce 7856)
    ∧ gives (.spdmGetMeasurements 0 false) 0xe0 [4]
    ∧ (∀ u, exec (.spdmGetMeasurements index signed) s = .next u → u = { s with spdm := u.spdm })
    ∧ (∃ data, gives (.spdmGetMeasurements index signed) 0xe0 data)

/-- Doorbells, registers, host memory accesses, resets and the identity protocol. -/
def Obligations.HostAndIdentity : Prop := Claims.HostEvents ∧ Claims.IdentityEvents

/-- R357, R366, R405, R406, R409 to R411, R416: a failed edge between dies is fatal and recorded; a die at its throttle
temperature takes one step more, recorded when it crosses, and one below has none; the critical temperature is fatal. A scrub
notes a correction and records a second one; a sector that cannot be corrected is poisoned. A failed bank is recorded and
repaired: its stack restripes region by region, until the bank is dropped. -/
def Obligations.ErrorEvents : Prop :=
  (∀ (s : State) (edge : Nat), edge < 16 → ∃ u, exec (.ucieLinkFailure edge) s = .next u ∧ u.bar.fatal = true ∧ s.trailed u (edge / 4) 0x06 0)
  ∧ (∀ (s : State) (die t : Nat),
    (t < 950 → ∃ u, exec (.thermalThrottle die t) s = .next u ∧ (u.die die).steps = 0 ∧ (u.die die).temperature = t)
    ∧ (950 ≤ t → ∃ u, exec (.thermalThrottle die t) s = .next u ∧ (u.die die).steps = (s.die die).steps + 1
      ∧ (u.die die).temperature = t ∧ ((s.die die).temperature < 950 → s.trailed u die 0x09 0)
      ∧ (950 ≤ (s.die die).temperature → (u.die die).trail = (s.die die).trail))
    ∧ (t < 1050 → exec (.thermalCritical die t) s = .next s)
    ∧ (1050 ≤ t → ∃ u, exec (.thermalCritical die t) s = .next u ∧ u.bar.fatal = true ∧ s.trailed u die 0x09 1))
  ∧ (∀ (s : State) (k : Nat) (hbm : Bool),
    let i (corrected : Bool) : Instr := if hbm then .hbmScrub k corrected else .sramScrub k corrected
    let key := 2 * k + (if hbm then 1 else 0)
    let die := if hbm then hbmStack (64 * k) / 2 else homeSlice (64 * k) none / 48
    (key ∉ s.scrubbed → exec (i true) s = .next { s with scrubbed := s.scrubbed ++ [key] })
    ∧ (key ∈ s.scrubbed → ∃ u r, exec (i true) s = .next u ∧ u.scrubbed = s.scrubbed ∧ u.poison = s.poison
      ∧ Tab.get? (u.die die).trail ((s.die die).trailCount % 4096) = some r ∧ r.toNat / 2 ^ 24 % 2 ^ 16 = 0x08)
    ∧ (∃ u r, exec (i false) s = .next u ∧ u.poison = Tab.set s.poison k true
      ∧ Tab.get? (u.die die).trail ((s.die die).trailCount % 4096) = some r ∧ r.toNat / 2 ^ 24 % 2 ^ 16 = 0x0108))
  ∧ (∀ (s : State) (stack bank : Nat) (tag : BitVec 16), stack < 8 → bank < 1024 → bank ∉ s.droppedBanks stack →
    (s.droppedBanks stack).length < 60 →
    let started (u : State) : Prop := Tab.get? u.restripes stack = some { bank := bank, rsb := 0 }
    ((stack, bank) ∉ s.badBanks → Tab.get? s.restripes stack = none → s.contexts = [] → ∃ u, exec (.bankFailure stack bank) s = .next u
      ∧ started u ∧ (u.die (stack / 2)).trailCount = ((s.die (stack / 2)).trailCount + 2) % 2 ^ 32)
    ∧ ((stack, bank) ∈ s.badBanks → exec (.bankFailure stack bank) s = .next s)
    ∧ (Tab.get? s.restripes stack = none → ∃ u, exec (.bankRepair tag stack bank) s = .next u ∧ started u ∧ s.answers u 7 tag 0 [])
    ∧ (∀ r, Tab.get? s.restripes stack = some r → exec (.bankRepair tag stack bank) s = .next (s.onlyAnswers 7 tag mailBusy [])))
  ∧ (∀ (s : State) (stack bank : Nat) (tag : BitVec 16), (8 ≤ stack ∨ 1024 ≤ bank ∨ bank ∈ s.droppedBanks stack) →
    exec (.bankFailure stack bank) s = .next s ∧ exec (.bankRepair tag stack bank) s = .next (s.onlyAnswers 7 tag mailBad []))
  ∧ (∀ (s : State) (stack : Nat) (r : Restripe), Tab.get? s.restripes stack = some r →
    (r.rsb + 1 < 2 ^ 18 → exec (.restripeRegion stack) s =
      .next { s with restripes := Tab.set s.restripes stack { r with rsb := r.rsb + 1 } })
    ∧ (2 ^ 18 ≤ r.rsb + 1 → (∀ b ∈ s.badBanks, b.1 ≠ stack) → ∃ u, exec (.restripeRegion stack) s = .next u
      ∧ Tab.get? u.restripes stack = none ∧ u.droppedBanks stack = r.bank :: s.droppedBanks stack
      ∧ s.trailed u (stack / 2 % 4) 0x07 2))
  ∧ (∀ (s : State) (stack : Nat), Tab.get? s.restripes stack = none → exec (.restripeRegion stack) s = .next s)

/-- R368, R370, R376, R391, R397, R412 to R414, R417, R419, R420, R426: what the requests of the driver do, and how they are
answered: 0 done, 1 refused, 2 a bad argument, 3 busy. -/
def Obligations.MailboxEvents : Prop :=
  ∀ (s : State) (tag : BitVec 16) (ctx die core : Nat) (a b : BitVec 64),
    let tells (i : Instr) (k st : Nat) (data : List Nat) : Prop := exec i s = .next (s.onlyAnswers k tag st data)
    let known := (Tab.get? s.contexts ctx).isSome
    let n := 48 * die + core
    (let w := s.homeNat a.toNat 32
      let id := w / 2 ^ 48 % 2 ^ 16
      let flog := w / 2 ^ 160 % 2 ^ 48
      let sizes := s.homeNat (flog + 16) 8
      let good := id ≠ 0 ∧ w / 2 ^ 208 % 2 ^ 40 = 0 ∧ w / 2 ^ 5 % 2 ^ 7 = 0 ∧ flog % 4096 = 0 ∧ w / 2 ^ 112 % 2 ^ 48 % 64 = 0
        ∧ w / 2 ^ 64 % 2 ^ 48 % 2 ^ 21 = 0 ∧ 4 ≤ sizes ∧ sizes ≤ 16
      (Tab.get? s.contexts id ≠ none → tells (.ctxInstall tag a) 1 1 [])
      ∧ (Tab.get? s.contexts id = none → ¬ good → tells (.ctxInstall tag a) 1 2 [])
      ∧ (Tab.get? s.contexts id = none → good → ∃ u c, exec (.ctxInstall tag a) s = .next u ∧ s.answers u 1 tag 0 []
        ∧ Tab.get? u.contexts id = some c ∧ c.root = w / 2 ^ 12 % 2 ^ 36 * 4096 ∧ c.flog = flog ∧ c.vector = w / 2 ^ 248
        ∧ c.free = w / 2 ^ 112 % 2 ^ 48 ∧ c.save = w / 2 ^ 64 % 2 ^ 48 ∧ c.modes = BitVec.ofNat 5 w ∧ c.logN = sizes
        ∧ c.debug = false ∧ u.mem = s.mem ∧ u.writes = s.writes))
    ∧ (¬ known → tells (.ctxRemove tag ctx) 2 2 [] ∧ tells (.invalidate tag ctx a b) 3 2 [] ∧ tells (.saveMove tag ctx a) 9 2 []
      ∧ ∀ x, tells (.watchdogAct tag ctx x) 10 2 [])
    ∧ (known → s.contextInUse ctx = true → tells (.ctxRemove tag ctx) 2 1 [])
    ∧ (known → s.contextInUse ctx = false → ∃ u, exec (.ctxRemove tag ctx) s = .next u ∧ s.answers u 2 tag 0 []
      ∧ Tab.get? u.contexts ctx = none ∧ ∀ k, k ≠ ctx → Tab.get? u.contexts k = Tab.get? s.contexts k)
    ∧ (known → s.caravans = [] → ∃ u, exec (.invalidate tag ctx a b) s = .next u ∧ s.answers u 3 tag 0 [] ∧ u.mem = s.mem
      ∧ ∀ c x, Tab.get? s.cores c = some x → (u.core c).l1 = x.l1 ∧ ∀ e, e ∈ (u.core c).tlb ↔ e ∈ x.tlb ∧ ¬ (e.2.ctx = ctx
        ∧ e.1 * 65536 < a.toNat % 2 ^ 48 + b.toNat ∧ a.toNat % 2 ^ 48 < (e.1 + 1) * 65536))
    ∧ (known → (∃ x ∈ s.blocks, x.2.ctx = ctx) → tells (.saveMove tag ctx a) 9 1 [])
    ∧ (∀ c, Tab.get? s.contexts ctx = some c → (∀ x ∈ s.blocks, x.2.ctx ≠ ctx) → s.saved = [] → s.writes = [] → memWf s.mem = true →
      ∃ u, exec (.saveMove tag ctx a) s = .next u ∧ s.answers u 9 tag 0 [] ∧ ∀ i, u.rawByte i =
        if c.save ≤ i ∧ i < c.save + 3145728 * 192 then s.rawByte (a.toNat + (i - c.save)) else s.rawByte i)
    ∧ (∀ c, Tab.get? s.contexts ctx = some c → (∀ x, 1 < x → tells (.watchdogAct tag ctx x) 10 2 [])
      ∧ (c.fired = false → ∀ x ≤ 1, tells (.watchdogAct tag ctx x) 10 1 [])
      ∧ (c.fired = true → let t := s.modContext ctx (fun k => { k with fired := false })
        exec (.watchdogAct tag ctx 0) s = .next (t.onlyAnswers 10 tag 0 [])
        ∧ exec (.watchdogAct tag ctx 1) s = .next (((t.raiseWatchdog ctx).trail 0 ctx 0x3f 0x0a codeWatchdog 0 none).respond 10 tag 0)))
    ∧ (3 < die ∨ 47 < core → tells (.arrayClear tag die core) 4 2 [] ∧ tells (.arrayRetire tag die core) 5 2 [])
    ∧ (die ≤ 3 → core ≤ 47 →
      (s.arrayHeld n = true → tells (.arrayClear tag die core) 4 1 [] ∧ tells (.arrayRetire tag die core) 5 1 [])
      ∧ (s.arrayHeld n = false → s.healthOf n = 2 → tells (.arrayClear tag die core) 4 1 [] ∧ tells (.arrayRetire tag die core) 5 0 [])
      ∧ (s.arrayHeld n = false → s.healthOf n ≠ 2 →
        (∃ u, exec (.arrayRetire tag die core) s = .next u ∧ u.healthOf n = 2 ∧ s.answers u 5 tag 0 [] ∧ s.trailGains u die 0x05 2)
        ∧ (Tab.get? s.clearing n = none → ∃ u, exec (.arrayClear tag die core) s = .next u ∧ Tab.get? u.clearing n = some tag
          ∧ (u.core n).dune.calibrating = some (s.die die).cyc ∧ u.mailbox = s.mailbox)
        ∧ (∀ x, Tab.get? s.clearing n = some x → tells (.arrayClear tag die core) 4 3 []))
      ∧ (let h := s.healthRecord n
        tells (.healthRead tag die core) 6 0 [h.state, h.events, h.sweep, h.ones, h.agree]))
    ∧ (3 < die → tells (.healthRead tag die core) 6 2 [])
    ∧ (∀ first count, let d := s.die die
      (die ≤ 3 → 1 ≤ count → count ≤ 64 → tells (.trailRead tag die first count) 8 0 ((List.range count).flatMap (fun i =>
          let r := d.trailRecord (first + i)
          [r % 2 ^ 32, r / 2 ^ 32 % 2 ^ 32, r / 2 ^ 64 % 2 ^ 32, r / 2 ^ 96 % 2 ^ 32]) ++ [d.trailCount]))
      ∧ (3 < die ∨ count = 0 ∨ 64 < count → tells (.trailRead tag die first count) 8 2 []))
    ∧ (∃ u f, exec (.fwUpdate tag a b) s = .next u ∧ s.answers u 11 tag 0 [] ∧ u.flash.pendingImage = some (f, b.toNat)
      ∧ u.flash.image = s.flash.image)
    ∧ (∀ k, (10 ≤ k → k ≤ 24 → die ≤ 3 → core ≤ 47 → known → ∃ u, exec (.sampleStart tag ctx die core a b k) s = .next u
        ∧ s.answers u 13 tag 0 [] ∧ (u.core n).sampling = some { ctx := ctx, buffer := a, bytes := b.toNat, n := k, turns := [] })
      ∧ (k < 10 ∨ 24 < k ∨ 3 < die ∨ 47 < core ∨ ¬ known → tells (.sampleStart tag ctx die core a b k) 13 2 []))
    ∧ (∀ k, tells (.unknownMailboxCommand tag k) k.toNat 2 [])

/-- R421 to R424, R429: GRANT gives the driver the debug right of a context and empties the match entries, and REVOKE takes it
back, with every recording and every halt. With the right, HALT stops a caravan at its boundary and RESUME lets it go on; READ
stores an item of one that stands, WRITE records an edit and COMMIT carries the edits out; MATCH sets an entry. Without the right
they are refused, and a name that names nothing is a bad argument. -/
def Obligations.DebugEvents : Prop :=
  ∀ (s : State) (tag : BitVec 16) (ctx : Nat),
    let tells (i : Instr) (st : Nat) : Prop := exec i s = .next (s.onlyAnswers 12 tag st [])
    let done (u : State) : Prop := s.answers u 12 tag 0 []
    (Tab.get? s.contexts ctx = none → tells (.grant tag ctx) 2 ∧ tells (.revoke tag ctx) 2)
    ∧ (Tab.get? s.contexts ctx ≠ none → (∃ u, exec (.grant tag ctx) s = .next u ∧ done u ∧ u.mayDebug ctx = true
        ∧ (∀ c ∈ u.cores, c.2.matchTab = []) ∧ u.caravans = s.caravans)
      ∧ (s.mayDebug ctx = false → tells (.revoke tag ctx) 1)
      ∧ (s.mayDebug ctx = true → s.monitor.replay = none → ∃ u, exec (.revoke tag ctx) s = .next u ∧ done u ∧ u.mayDebug ctx = false
        ∧ (∀ c ∈ u.cores, c.2.matchTab = []) ∧ s.trailed u 0 0x0c 2
        ∧ (∀ h, s.handleCtx h = some ctx → Tab.get? u.monitor.recordings h = none)
        ∧ ∀ n, s.allNamed = [n] → n.ctx = ctx → n.saved = none → s.caravan? n.key = some n.car →
          ∃ d, u.caravan? n.key = some d ∧ d.halted = false ∧ d.sregs = n.car.sregs))
    ∧ (∀ t, s.named t = [] → tells (.dbgHalt tag t) 2 ∧ tells (.dbgResume tag t) 2)
    ∧ (∀ t n, s.named t = [n] → s.mayDebug n.ctx = false → tells (.dbgHalt tag t) 1 ∧ tells (.dbgResume tag t) 1)
    ∧ (∀ t n, s.named t = [n] → s.mayDebug n.ctx = true → n.saved = none → s.caravan? n.key = some n.car →
      (n.car.halted = false → (∃ u d, exec (.dbgHalt tag t) s = .next u ∧ done u ∧ u.caravan? n.key = some d ∧ d.halted = true
          ∧ d.sregs = n.car.sregs ∧ d.lanes = n.car.lanes ∧ ∀ p ∈ d.paths, p.2.burst = none)
        ∧ tells (.dbgResume tag t) 1)
      ∧ (n.car.halted = true → s.monitor.replay = none → ∃ u d, exec (.dbgResume tag t) s = .next u ∧ done u
        ∧ u.caravan? n.key = some d ∧ d = { n.car with halted := false }))
    ∧ (∀ (x : BitVec 32) n item (a : BitVec 64), s.named (.caravan x) = [n] → s.mayDebug n.ctx = true → n.saved = none →
      s.caravan? n.key = some n.car → n.car.halted = true →
      let at_ := a.toNat % 2 ^ 48
      (∀ v, s.monitor.edits = [] → n.car.item item = some v → at_ + 8 ≤ 2 ^ 39 → s.cellsIn at_ 8 = [] → ∃ u, exec (.dbgRead tag x item a) s = .next u ∧ done u
        ∧ ∀ i, u.rawByte i = if at_ ≤ i ∧ i < at_ + 8 then BitVec.ofNat 8 (v / 2 ^ (8 * (i - at_))) else s.rawByte i)
      ∧ (∃ u, exec (.dbgWrite tag x item a) s = .next u ∧ done u ∧ u.caravans = s.caravans
        ∧ u.monitor.edits = s.monitor.edits ++ [(x.toNat, item, s.homeBytes at_ 8)])
      ∧ (∀ bs, s.monitor.edits = [(x.toNat, item, bs)] → 1 ≤ item → item < 64 → bs.length = 8 → ∃ u d, exec (.dbgCommit tag x) s = .next u
        ∧ done u ∧ u.monitor.edits = [] ∧ u.caravan? n.key = some d ∧ ∀ k, d.sreg k =
          if k = item then BitVec.ofNat 64 (leNat bs) else n.car.sreg k))
    ∧ (∀ core entry w0 w1, (191 < core ∨ 15 < entry → tells (.dbgMatch tag core entry w0 w1) 2)
      ∧ (core ≤ 191 → entry ≤ 15 → s.contexts.any (fun c => c.2.debug) = true → ∃ u, exec (.dbgMatch tag core entry w0 w1) s = .next u
        ∧ done u ∧ Tab.get? (u.core core).matchTab entry = some (w0, w1))
      ∧ (core ≤ 191 → entry ≤ 15 → s.contexts.any (fun c => c.2.debug) = false → tells (.dbgMatch tag core entry w0 w1) 1))

/-- R426 to R428: STOP_AT with count 0 starts a recording; a checkpoint of it is taken when it is due and the engines rest, and
the two newest are kept. STOP_AT and BACK restore a checkpoint, its caravans and memory, and stop the caravan at a count, or are
refused where the recorded interval does not hold it. A sample writes its path's record into the ring, or is counted as lost. -/
def Obligations.ReplayEvents : Prop :=
  (∀ (s : State) (tag : BitVec 16) (handle k ctx : Nat) (x : BitVec 32) (count : Nat),
    let tells (i : Instr) (st : Nat) : Prop := exec i s = .next (s.onlyAnswers 12 tag st [])
    (s.handleCtx handle = none → tells (.dbgStopAtRecording tag handle k) 2 ∧ tells (.dbgStopAt tag handle k x count) 2)
    ∧ (s.handleCtx handle = some ctx → s.mayDebug ctx = false → tells (.dbgStopAtRecording tag handle k) 1
      ∧ tells (.dbgStopAt tag handle k x count) 1)
    ∧ (s.handleCtx handle = some ctx → s.mayDebug ctx = true →
      (20 ≤ k → k ≤ 32 → ∃ u r, exec (.dbgStopAtRecording tag handle k) s = .next u ∧ s.answers u 12 tag 0 []
        ∧ Tab.get? u.monitor.recordings handle = some r ∧ r.k = k ∧ r.checkpoints = [] ∧ r.log = [])
      ∧ (k < 20 ∨ 32 < k → tells (.dbgStopAtRecording tag handle k) 2))
    ∧ (s.allNamed = [] → tells (.dbgBack tag x) 2)
    ∧ (∀ r p last, Tab.get? s.monitor.recordings handle = some r → r.checkpoints = [p] → s.intervalEnd r p x.toNat = some last →
      let stops (i : Instr) (n : Nat) : Prop := ∃ u g, exec i s = .next u ∧ u.monitor.replay = some g ∧ g.handle = handle
        ∧ g.goals = [(x.toNat, n)] ∧ g.log = r.log.drop p.logAt ∧ (∀ key c, Tab.get? p.caravans key = some c → u.caravan? key = some c)
        ∧ ∀ a, u.rawByte a = memRead p.mem a
      sortedKeys p.caravans → memWf p.mem = true →
      (s.handleCtx handle = some ctx → s.mayDebug ctx = true → p.number = k →
        ((p.countOf x.toNat).getD 0 ≤ count → count ≤ last → stops (.dbgStopAt tag handle k x count) count)
        ∧ (last < count → tells (.dbgStopAt tag handle k x count) 1))
      ∧ (∀ n, s.allNamed = [n] → n.tag = x.toNat → n.handle = handle → s.mayDebug n.ctx = true → 1 ≤ n.car.wkcnt.toNat →
        (p.countOf x.toNat).getD 0 ≤ n.car.wkcnt.toNat - 1 → n.car.wkcnt.toNat - 1 ≤ last →
        stops (.dbgBack tag x) (n.car.wkcnt.toNat - 1))))
  ∧ (∀ (s : State) (handle : Nat) (r : Recording), Tab.get? s.monitor.recordings handle = some r →
    ((s.die 0).cyc < r.nextAt → exec (.recordingCheckpoint handle) s = .next s)
    ∧ (r.nextAt ≤ (s.die 0).cyc → s.monitor.replay = none → (∀ b ∈ s.dispatchBlocks handle, s.enginesRest b.1 b.2 = true) →
      ∃ u x p, exec (.recordingCheckpoint handle) s = .next u ∧ Tab.get? u.monitor.recordings handle = some x
        ∧ x.taken = r.taken + 1 ∧ x.nextAt = r.nextAt + 2 ^ r.k ∧ x.checkpoints = (p :: r.checkpoints).take 2 ∧ p.number = r.taken
        ∧ p.logAt = r.log.length ∧ x.log = r.log))
  ∧ (∀ (s : State) (core quad : Nat), (s.core core).sampling = none → exec (.sampleTick core quad) s = .next s)
  ∧ (∀ (s : State) (core quad : Nat) (x : Sampling), (s.core core).sampling = some x →
    let now := (s.die (core / 48)).cyc
    (now % 2 ^ x.n ≠ 0 → exec (.sampleTick core quad) s = .next s)
    ∧ (∀ k slot p c h t, quad ≤ 3 → now % 2 ^ x.n = 0 → Tab.get? x.turns (quad + 4) ≠ some now →
      s.samplePath core quad x.ctx (Tab.getD x.turns quad 0) = some (k, slot, p, c) →
      let y : Sampling := { x with turns := Tab.set (Tab.set x.turns quad ((k + 1) % 32)) (quad + 4) now }
      let s0 : State := { s.modCore core (fun z => { z with sampling := some y }) with free := s.free + 1 }
      s0.frontRead x.ctx x.buffer 24 = .ok h t →
      let lost := leNat (h.take 8)
      let w := leNat ((h.drop 8).take 8)
      let r := leNat (h.drop 16)
      let room := (x.bytes - 64) / 32
      let words (blame : Word) : List Byte := leBytes 8 p.waitingAt.toNat ++ leBytes 8 blame.toNat
        ++ leBytes 8 (Stall.code p.reason.1 + 2 ^ 16 * cidOf core slot) ++ leBytes 8 c.wkcnt.toNat
      (∀ blame u v, (p.reason.1 ≠ some .data ∧ blame = p.waitingAt ∨ p.reason = (some .data, false) ∧ p.blamed = some blame) →
        (w + 2 ^ 64 - r) % 2 ^ 64 < room →
        t.frontWrite x.ctx (x.buffer + BitVec.ofNat 64 (64 + 32 * (w % room))) (words blame) = .ok () u →
        u.frontWrite x.ctx (x.buffer + BitVec.ofNat 64 8) (leBytes 8 (w + 1)) = .ok () v → exec (.sampleTick core quad) s = .next v)
      ∧ (∀ v, room ≤ (w + 2 ^ 64 - r) % 2 ^ 64 → t.frontWrite x.ctx (x.buffer + BitVec.ofNat 64 0) (leBytes 8 (lost + 1)) = .ok () v →
        exec (.sampleTick core quad) s = .next v)))
end

