-- ==== Sys2Proof/Laws/Memory.lean ====
section
/-!
SUPPORT. Tables, and the memory: reads after writes, and the canonical form kept by every operation.
-/

namespace Sys2Proof.Machine

/-! ### Tables -/

/-- The entry just set. -/
@[simp] theorem Tab.get?_set_self {α : Type} (t : Tab α) (k : Nat) (v : α) : Tab.get? (Tab.set t k v) k = some v := by
  induction t with
  | nil => simp [Tab.set, Tab.get?]
  | cons p r ih =>
    obtain ⟨a, w⟩ := p
    simp only [Tab.set]
    split
    · simp [Tab.get?]
    · split
      · simp [Tab.get?]
      · simp [Tab.get?, *]

/-- Another entry than the one set. -/
theorem Tab.get?_set_ne {α : Type} (t : Tab α) {k j : Nat} (v : α) (h : j ≠ k) :
    Tab.get? (Tab.set t k v) j = Tab.get? t j := by
  induction t with
  | nil => simp [Tab.set, Tab.get?, h.symm]
  | cons p r ih =>
    obtain ⟨a, w⟩ := p
    simp only [Tab.set]
    split
    · simp [Tab.get?, h.symm]
    · split
      · rename_i h2
        subst h2
        simp [Tab.get?, h.symm]
      · simp only [Tab.get?, ih]

/-- An entry set, read back with a default. -/
@[simp] theorem Tab.getD_set_self {α : Type} (t : Tab α) (k : Nat) (v d : α) : Tab.getD (Tab.set t k v) k d = v := by
  simp [Tab.getD]

/-- Another entry than the one set, read with a default. -/
theorem Tab.getD_set_ne {α : Type} (t : Tab α) {k j : Nat} (v d : α) (h : j ≠ k) :
    Tab.getD (Tab.set t k v) j d = Tab.getD t j d := by
  simp [Tab.getD, Tab.get?_set_ne t v h]

/-- Two writes of one entry are the second. -/
@[simp] theorem Tab.set_set {α : Type} (t : Tab α) (k : Nat) (v w : α) : Tab.set (Tab.set t k v) k w = Tab.set t k w := by
  induction t with
  | nil => simp [Tab.set]
  | cons p r ih =>
    obtain ⟨a, x⟩ := p
    simp only [Tab.set]
    split
    · simp [Tab.set]
    · split
      · simp [Tab.set]
      · simp [Tab.set, *]

/-- An entry that is there, changed. -/
theorem Tab.modify_of {α : Type} {t : Tab α} {k : Nat} {v : α} (f : α → α) (h : Tab.get? t k = some v) :
    Tab.modify t k f = Tab.set t k (f v) := by
  simp [Tab.modify, h]

/-- The entry just changed. -/
theorem Tab.get?_modify_self {α : Type} {t : Tab α} {k : Nat} {v : α} (f : α → α) (h : Tab.get? t k = some v) :
    Tab.get? (Tab.modify t k f) k = some (f v) := by
  simp [Tab.modify, h]

/-- Another entry than the one changed. -/
theorem Tab.get?_modify_ne {α : Type} (t : Tab α) {k j : Nat} (f : α → α) (h : j ≠ k) :
    Tab.get? (Tab.modify t k f) j = Tab.get? t j := by
  unfold Tab.modify
  split
  · exact Tab.get?_set_ne _ _ h
  · rfl

/-- The entry erased. -/
theorem Tab.get?_erase_self {α : Type} (t : Tab α) (k : Nat) : Tab.get? (Tab.erase t k) k = none := by
  induction t with
  | nil => rfl
  | cons p r ih =>
    obtain ⟨a, w⟩ := p
    by_cases h : a = k
    · simpa [Tab.erase, h] using ih
    · simpa [Tab.erase, Tab.get?, h] using ih

/-- Another entry than the one erased. -/
theorem Tab.get?_erase_ne {α : Type} (t : Tab α) {k j : Nat} (h : j ≠ k) : Tab.get? (Tab.erase t k) j = Tab.get? t j := by
  induction t with
  | nil => rfl
  | cons p r ih =>
    obtain ⟨a, w⟩ := p
    by_cases ha : a = k
    · subst ha
      simpa [Tab.erase, Tab.get?, h.symm] using ih
    · by_cases hj : a = j
      · subst hj
        simp [Tab.erase, Tab.get?, h]
      · simpa [Tab.erase, Tab.get?, ha, hj] using ih

/-! ### Memory -/

/-- A byte written reads back. -/
theorem memRead_write_self (m : List Host.Cell) (a : Nat) (b : Byte) : memRead (memWrite m a b) a = b := by
  unfold memRead memWrite Tab.getD
  split
  · rename_i h
    rw [Tab.get?_erase_self, h]
    rfl
  · rw [Tab.get?_set_self]
    rfl

/-- A write leaves every other byte alone. -/
theorem memRead_write_ne (m : List Host.Cell) {a c : Nat} (b : Byte) (h : c ≠ a) :
    memRead (memWrite m a b) c = memRead m c := by
  unfold memRead memWrite Tab.getD
  split
  · rw [Tab.get?_erase_ne _ h]
  · rw [Tab.get?_set_ne _ _ h]

/-- A canonical memory above a bound is canonical above a lower one. -/
theorem memWfFrom_mono {lo lo' : Nat} {m : List Host.Cell} (h : memWfFrom lo m = true) (hl : lo' ≤ lo) :
    memWfFrom lo' m = true := by
  cases m with
  | nil => rfl
  | cons p r =>
    obtain ⟨a, b⟩ := p
    simp only [memWfFrom, Bool.and_eq_true, decide_eq_true_eq] at h ⊢
    exact ⟨⟨by omega, h.1.2⟩, h.2⟩

/-- Leaving entries out keeps the canonical form. -/
theorem memWfFrom_filter (f : Host.Cell → Bool) {lo : Nat} {m : List Host.Cell} (h : memWfFrom lo m = true) :
    memWfFrom lo (m.filter f) = true := by
  induction m generalizing lo with
  | nil => rfl
  | cons p r ih =>
    obtain ⟨a, b⟩ := p
    simp only [memWfFrom, Bool.and_eq_true, decide_eq_true_eq] at h
    rw [List.filter_cons]
    split
    · simp only [memWfFrom, Bool.and_eq_true, decide_eq_true_eq]
      exact ⟨h.1, ih h.2⟩
    · exact memWfFrom_mono (ih h.2) (by omega)

/-- Setting an entry that is not zero keeps the canonical form. -/
theorem memWfFrom_set {lo a : Nat} {b : Byte} {m : List Host.Cell} (h : memWfFrom lo m = true) (ha : lo ≤ a) (hb : b ≠ 0) :
    memWfFrom lo (Tab.set m a b) = true := by
  induction m generalizing lo with
  | nil => simpa [Tab.set, memWfFrom, ha] using hb
  | cons p r ih =>
    obtain ⟨c, d⟩ := p
    simp only [memWfFrom, Bool.and_eq_true, decide_eq_true_eq] at h
    simp only [Tab.set]
    split
    · simp only [memWfFrom, Bool.and_eq_true, decide_eq_true_eq]
      exact ⟨⟨ha, hb⟩, ⟨by omega, h.1.2⟩, h.2⟩
    · split
      · rename_i h2
        subst h2
        simp only [memWfFrom, Bool.and_eq_true, decide_eq_true_eq]
        exact ⟨⟨ha, hb⟩, h.2⟩
      · simp only [memWfFrom, Bool.and_eq_true, decide_eq_true_eq]
        exact ⟨h.1, ih h.2 (by omega)⟩

/-- A write keeps the canonical form. -/
theorem memWf_write {m : List Host.Cell} (a : Nat) (b : Byte) (h : memWf m = true) : memWf (memWrite m a b) = true := by
  unfold memWrite
  split
  · exact memWfFrom_filter _ h
  · exact memWfFrom_set h (Nat.zero_le a) ‹_›

/-- A home write keeps the canonical form. -/
theorem memWf_applyWrite {m : List Host.Cell} (w : HomeWrite) (h : memWf m = true) : memWf (applyWrite w m) = true := by
  cases w with
  | byte a v => exact memWf_write a v h
  | zero a n => exact memWfFrom_filter _ h
  | clear => rfl

/-- The home writes of a step keep the canonical form. -/
theorem memWf_applyWrites {m : List Host.Cell} (ws : List HomeWrite) (h : memWf m = true) :
    memWf (applyWrites ws m) = true := by
  induction ws with
  | nil => exact h
  | cons w r ih => exact memWf_applyWrite w ih

/-- A byte after the home writes of a step: what the newest write to it gave, else what the memory held. -/
theorem memRead_applyWrites (m : List Host.Cell) (ws : List HomeWrite) (a : Nat) :
    memRead (applyWrites ws m) a = (findWrite a ws).getD (memRead m a) := by
  induction ws with
  | nil => rfl
  | cons w r ih =>
    cases w with
    | clear => rfl
    | byte b v =>
      by_cases hb : b = a
      · subst hb
        simpa [applyWrites, applyWrite, findWrite] using memRead_write_self _ b v
      · have := memRead_write_ne (applyWrites r m) v (Ne.symm hb)
        simpa [applyWrites, applyWrite, findWrite, hb] using this.trans ih
    | zero b n =>
      have key (l : List Host.Cell) (hz : ¬ (b ≤ a ∧ a < b + n)) :
          memRead (l.filter (fun c => !(b ≤ c.1 && c.1 < b + n))) a = memRead l a := by
        unfold memRead Tab.getD
        congr 1
        induction l with
        | nil => rfl
        | cons p r ih =>
          obtain ⟨c, d⟩ := p
          rw [List.filter_cons]
          split
          · simp only [Tab.get?, ih]
          · rename_i hc
            have : c ≠ a := by
              intro e
              subst e
              simp at hc
              omega
            simp only [Tab.get?, this, if_false, ih]
      have key0 (l : List Host.Cell) (hz : b ≤ a ∧ a < b + n) :
          memRead (l.filter (fun c => !(b ≤ c.1 && c.1 < b + n))) a = 0 := by
        unfold memRead Tab.getD
        induction l with
        | nil => rfl
        | cons p r ih =>
          obtain ⟨c, d⟩ := p
          rw [List.filter_cons]
          split
          · rename_i hc
            have : c ≠ a := by
              intro e
              subst e
              simp at hc
              omega
            simp only [Tab.get?, this, if_false, ih]
          · exact ih
      by_cases hz : b ≤ a ∧ a < b + n
      · simpa [applyWrites, applyWrite, findWrite, hz] using key0 (applyWrites r m) hz
      · have := key (applyWrites r m) hz
        simp only [applyWrites, List.foldr_cons, applyWrite, findWrite, hz, if_false] at this ⊢
        exact this.trans ih

/-- The memory just after a step, byte by byte, is what a read at its home found at the end of the step. -/
theorem rawByte_settled (s : State) (m : List Host.Cell) (h : s.mem = m) (a : Nat) :
    memRead (applyWrites s.writes m) a = s.rawByte a := by
  rw [memRead_applyWrites, State.rawByte, h]
  cases findWrite a s.writes <;> rfl

/-- What `settled` answers (DESIGN CHOICE, log entry 31). -/
theorem settled_next {m : List Host.Cell} {o : Host.Outcome State Fault Refusal} {t : State}
    (h : settled m o = .next t) : ∃ u, o = .next u ∧ t = { u with mem := applyWrites u.writes m, writes := [] } := by
  cases o with
  | next u => exact ⟨u, rfl, by simpa [settled] using h.symm⟩
  | fault f => simp [settled] at h
  | refused r => simp [settled] at h

end Sys2Proof.Machine
end

