-- ==== Sys2Proof/Laws/State.lean ====
section
/-!
SUPPORT. Every field of the state after every update: one law a field, so that no proof unfolds an update.
-/

namespace Sys2Proof.Machine

/-! ### `setCore` -/

@[simp] theorem State.setCore_focus (s : State) (n : Nat) (c : Core) : (s.setCore n c).focus = s.focus := rfl
@[simp] theorem State.setCore_agenda (s : State) (n : Nat) (c : Core) : (s.setCore n c).agenda = s.agenda := rfl
@[simp] theorem State.setCore_sched (s : State) (n : Nat) (c : Core) : (s.setCore n c).sched = s.sched := rfl
@[simp] theorem State.setCore_free (s : State) (n : Nat) (c : Core) : (s.setCore n c).free = s.free := rfl
@[simp] theorem State.setCore_nextUid (s : State) (n : Nat) (c : Core) : (s.setCore n c).nextUid = s.nextUid := rfl
@[simp] theorem State.setCore_mem (s : State) (n : Nat) (c : Core) : (s.setCore n c).mem = s.mem := rfl
@[simp] theorem State.setCore_writes (s : State) (n : Nat) (c : Core) : (s.setCore n c).writes = s.writes := rfl
@[simp] theorem State.setCore_poison (s : State) (n : Nat) (c : Core) : (s.setCore n c).poison = s.poison := rfl
@[simp] theorem State.setCore_releases (s : State) (n : Nat) (c : Core) : (s.setCore n c).releases = s.releases := rfl
@[simp] theorem State.setCore_pairLines (s : State) (n : Nat) (c : Core) : (s.setCore n c).pairLines = s.pairLines := rfl
@[simp] theorem State.setCore_tracked (s : State) (n : Nat) (c : Core) : (s.setCore n c).tracked = s.tracked := rfl
@[simp] theorem State.setCore_capWaiters (s : State) (n : Nat) (c : Core) : (s.setCore n c).capWaiters = s.capWaiters := rfl
@[simp] theorem State.setCore_cores (s : State) (n : Nat) (c : Core) : (s.setCore n c).cores = Tab.set s.cores n c := rfl
@[simp] theorem State.setCore_caravans (s : State) (n : Nat) (c : Core) : (s.setCore n c).caravans = s.caravans := rfl
@[simp] theorem State.setCore_blocks (s : State) (n : Nat) (c : Core) : (s.setCore n c).blocks = s.blocks := rfl
@[simp] theorem State.setCore_launches (s : State) (n : Nat) (c : Core) : (s.setCore n c).launches = s.launches := rfl
@[simp] theorem State.setCore_saved (s : State) (n : Nat) (c : Core) : (s.setCore n c).saved = s.saved := rfl
@[simp] theorem State.setCore_dies (s : State) (n : Nat) (c : Core) : (s.setCore n c).dies = s.dies := rfl
@[simp] theorem State.setCore_contexts (s : State) (n : Nat) (c : Core) : (s.setCore n c).contexts = s.contexts := rfl
@[simp] theorem State.setCore_queues (s : State) (n : Nat) (c : Core) : (s.setCore n c).queues = s.queues := rfl
@[simp] theorem State.setCore_commands (s : State) (n : Nat) (c : Core) : (s.setCore n c).commands = s.commands := rfl
@[simp] theorem State.setCore_graphs (s : State) (n : Nat) (c : Core) : (s.setCore n c).graphs = s.graphs := rfl
@[simp] theorem State.setCore_horizonMsgs (s : State) (n : Nat) (c : Core) : (s.setCore n c).horizonMsgs = s.horizonMsgs := rfl
@[simp] theorem State.setCore_bar (s : State) (n : Nat) (c : Core) : (s.setCore n c).bar = s.bar := rfl
@[simp] theorem State.setCore_netin (s : State) (n : Nat) (c : Core) : (s.setCore n c).netin = s.netin := rfl
@[simp] theorem State.setCore_flash (s : State) (n : Nat) (c : Core) : (s.setCore n c).flash = s.flash := rfl
@[simp] theorem State.setCore_restripes (s : State) (n : Nat) (c : Core) : (s.setCore n c).restripes = s.restripes := rfl
@[simp] theorem State.setCore_badBanks (s : State) (n : Nat) (c : Core) : (s.setCore n c).badBanks = s.badBanks := rfl
@[simp] theorem State.setCore_clearing (s : State) (n : Nat) (c : Core) : (s.setCore n c).clearing = s.clearing := rfl
@[simp] theorem State.setCore_scrubbed (s : State) (n : Nat) (c : Core) : (s.setCore n c).scrubbed = s.scrubbed := rfl
@[simp] theorem State.setCore_boot (s : State) (n : Nat) (c : Core) : (s.setCore n c).boot = s.boot := rfl
@[simp] theorem State.setCore_monitor (s : State) (n : Nat) (c : Core) : (s.setCore n c).monitor = s.monitor := rfl
@[simp] theorem State.setCore_mailbox (s : State) (n : Nat) (c : Core) : (s.setCore n c).mailbox = s.mailbox := rfl
@[simp] theorem State.setCore_mailWaiting (s : State) (n : Nat) (c : Core) : (s.setCore n c).mailWaiting = s.mailWaiting := rfl
@[simp] theorem State.setCore_spdm (s : State) (n : Nat) (c : Core) : (s.setCore n c).spdm = s.spdm := rfl
@[simp] theorem State.setCore_hostReads (s : State) (n : Nat) (c : Core) : (s.setCore n c).hostReads = s.hostReads := rfl

/-! ### `modCore` -/

@[simp] theorem State.modCore_focus (s : State) (n : Nat) (f : Core → Core) : (s.modCore n f).focus = s.focus := rfl
@[simp] theorem State.modCore_agenda (s : State) (n : Nat) (f : Core → Core) : (s.modCore n f).agenda = s.agenda := rfl
@[simp] theorem State.modCore_sched (s : State) (n : Nat) (f : Core → Core) : (s.modCore n f).sched = s.sched := rfl
@[simp] theorem State.modCore_free (s : State) (n : Nat) (f : Core → Core) : (s.modCore n f).free = s.free := rfl
@[simp] theorem State.modCore_nextUid (s : State) (n : Nat) (f : Core → Core) : (s.modCore n f).nextUid = s.nextUid := rfl
@[simp] theorem State.modCore_mem (s : State) (n : Nat) (f : Core → Core) : (s.modCore n f).mem = s.mem := rfl
@[simp] theorem State.modCore_writes (s : State) (n : Nat) (f : Core → Core) : (s.modCore n f).writes = s.writes := rfl
@[simp] theorem State.modCore_poison (s : State) (n : Nat) (f : Core → Core) : (s.modCore n f).poison = s.poison := rfl
@[simp] theorem State.modCore_releases (s : State) (n : Nat) (f : Core → Core) : (s.modCore n f).releases = s.releases := rfl
@[simp] theorem State.modCore_pairLines (s : State) (n : Nat) (f : Core → Core) : (s.modCore n f).pairLines = s.pairLines := rfl
@[simp] theorem State.modCore_tracked (s : State) (n : Nat) (f : Core → Core) : (s.modCore n f).tracked = s.tracked := rfl
@[simp] theorem State.modCore_capWaiters (s : State) (n : Nat) (f : Core → Core) : (s.modCore n f).capWaiters = s.capWaiters := rfl
@[simp] theorem State.modCore_cores (s : State) (n : Nat) (f : Core → Core) : (s.modCore n f).cores = Tab.set s.cores n (f (s.core n)) := rfl
@[simp] theorem State.modCore_caravans (s : State) (n : Nat) (f : Core → Core) : (s.modCore n f).caravans = s.caravans := rfl
@[simp] theorem State.modCore_blocks (s : State) (n : Nat) (f : Core → Core) : (s.modCore n f).blocks = s.blocks := rfl
@[simp] theorem State.modCore_launches (s : State) (n : Nat) (f : Core → Core) : (s.modCore n f).launches = s.launches := rfl
@[simp] theorem State.modCore_saved (s : State) (n : Nat) (f : Core → Core) : (s.modCore n f).saved = s.saved := rfl
@[simp] theorem State.modCore_dies (s : State) (n : Nat) (f : Core → Core) : (s.modCore n f).dies = s.dies := rfl
@[simp] theorem State.modCore_contexts (s : State) (n : Nat) (f : Core → Core) : (s.modCore n f).contexts = s.contexts := rfl
@[simp] theorem State.modCore_queues (s : State) (n : Nat) (f : Core → Core) : (s.modCore n f).queues = s.queues := rfl
@[simp] theorem State.modCore_commands (s : State) (n : Nat) (f : Core → Core) : (s.modCore n f).commands = s.commands := rfl
@[simp] theorem State.modCore_graphs (s : State) (n : Nat) (f : Core → Core) : (s.modCore n f).graphs = s.graphs := rfl
@[simp] theorem State.modCore_horizonMsgs (s : State) (n : Nat) (f : Core → Core) : (s.modCore n f).horizonMsgs = s.horizonMsgs := rfl
@[simp] theorem State.modCore_bar (s : State) (n : Nat) (f : Core → Core) : (s.modCore n f).bar = s.bar := rfl
@[simp] theorem State.modCore_netin (s : State) (n : Nat) (f : Core → Core) : (s.modCore n f).netin = s.netin := rfl
@[simp] theorem State.modCore_flash (s : State) (n : Nat) (f : Core → Core) : (s.modCore n f).flash = s.flash := rfl
@[simp] theorem State.modCore_restripes (s : State) (n : Nat) (f : Core → Core) : (s.modCore n f).restripes = s.restripes := rfl
@[simp] theorem State.modCore_badBanks (s : State) (n : Nat) (f : Core → Core) : (s.modCore n f).badBanks = s.badBanks := rfl
@[simp] theorem State.modCore_clearing (s : State) (n : Nat) (f : Core → Core) : (s.modCore n f).clearing = s.clearing := rfl
@[simp] theorem State.modCore_scrubbed (s : State) (n : Nat) (f : Core → Core) : (s.modCore n f).scrubbed = s.scrubbed := rfl
@[simp] theorem State.modCore_boot (s : State) (n : Nat) (f : Core → Core) : (s.modCore n f).boot = s.boot := rfl
@[simp] theorem State.modCore_monitor (s : State) (n : Nat) (f : Core → Core) : (s.modCore n f).monitor = s.monitor := rfl
@[simp] theorem State.modCore_mailbox (s : State) (n : Nat) (f : Core → Core) : (s.modCore n f).mailbox = s.mailbox := rfl
@[simp] theorem State.modCore_mailWaiting (s : State) (n : Nat) (f : Core → Core) : (s.modCore n f).mailWaiting = s.mailWaiting := rfl
@[simp] theorem State.modCore_spdm (s : State) (n : Nat) (f : Core → Core) : (s.modCore n f).spdm = s.spdm := rfl
@[simp] theorem State.modCore_hostReads (s : State) (n : Nat) (f : Core → Core) : (s.modCore n f).hostReads = s.hostReads := rfl

/-! ### `modMatrix` -/

@[simp] theorem State.modMatrix_focus (s : State) (n : Nat) (f : Matrix → Matrix) : (s.modMatrix n f).focus = s.focus := rfl
@[simp] theorem State.modMatrix_agenda (s : State) (n : Nat) (f : Matrix → Matrix) : (s.modMatrix n f).agenda = s.agenda := rfl
@[simp] theorem State.modMatrix_sched (s : State) (n : Nat) (f : Matrix → Matrix) : (s.modMatrix n f).sched = s.sched := rfl
@[simp] theorem State.modMatrix_free (s : State) (n : Nat) (f : Matrix → Matrix) : (s.modMatrix n f).free = s.free := rfl
@[simp] theorem State.modMatrix_nextUid (s : State) (n : Nat) (f : Matrix → Matrix) : (s.modMatrix n f).nextUid = s.nextUid := rfl
@[simp] theorem State.modMatrix_mem (s : State) (n : Nat) (f : Matrix → Matrix) : (s.modMatrix n f).mem = s.mem := rfl
@[simp] theorem State.modMatrix_writes (s : State) (n : Nat) (f : Matrix → Matrix) : (s.modMatrix n f).writes = s.writes := rfl
@[simp] theorem State.modMatrix_poison (s : State) (n : Nat) (f : Matrix → Matrix) : (s.modMatrix n f).poison = s.poison := rfl
@[simp] theorem State.modMatrix_releases (s : State) (n : Nat) (f : Matrix → Matrix) : (s.modMatrix n f).releases = s.releases := rfl
@[simp] theorem State.modMatrix_pairLines (s : State) (n : Nat) (f : Matrix → Matrix) : (s.modMatrix n f).pairLines = s.pairLines := rfl
@[simp] theorem State.modMatrix_tracked (s : State) (n : Nat) (f : Matrix → Matrix) : (s.modMatrix n f).tracked = s.tracked := rfl
@[simp] theorem State.modMatrix_capWaiters (s : State) (n : Nat) (f : Matrix → Matrix) : (s.modMatrix n f).capWaiters = s.capWaiters := rfl
@[simp] theorem State.modMatrix_cores (s : State) (n : Nat) (f : Matrix → Matrix) : (s.modMatrix n f).cores = Tab.set s.cores n { s.core n with mat := f (s.core n).mat } := rfl
@[simp] theorem State.modMatrix_caravans (s : State) (n : Nat) (f : Matrix → Matrix) : (s.modMatrix n f).caravans = s.caravans := rfl
@[simp] theorem State.modMatrix_blocks (s : State) (n : Nat) (f : Matrix → Matrix) : (s.modMatrix n f).blocks = s.blocks := rfl
@[simp] theorem State.modMatrix_launches (s : State) (n : Nat) (f : Matrix → Matrix) : (s.modMatrix n f).launches = s.launches := rfl
@[simp] theorem State.modMatrix_saved (s : State) (n : Nat) (f : Matrix → Matrix) : (s.modMatrix n f).saved = s.saved := rfl
@[simp] theorem State.modMatrix_dies (s : State) (n : Nat) (f : Matrix → Matrix) : (s.modMatrix n f).dies = s.dies := rfl
@[simp] theorem State.modMatrix_contexts (s : State) (n : Nat) (f : Matrix → Matrix) : (s.modMatrix n f).contexts = s.contexts := rfl
@[simp] theorem State.modMatrix_queues (s : State) (n : Nat) (f : Matrix → Matrix) : (s.modMatrix n f).queues = s.queues := rfl
@[simp] theorem State.modMatrix_commands (s : State) (n : Nat) (f : Matrix → Matrix) : (s.modMatrix n f).commands = s.commands := rfl
@[simp] theorem State.modMatrix_graphs (s : State) (n : Nat) (f : Matrix → Matrix) : (s.modMatrix n f).graphs = s.graphs := rfl
@[simp] theorem State.modMatrix_horizonMsgs (s : State) (n : Nat) (f : Matrix → Matrix) : (s.modMatrix n f).horizonMsgs = s.horizonMsgs := rfl
@[simp] theorem State.modMatrix_bar (s : State) (n : Nat) (f : Matrix → Matrix) : (s.modMatrix n f).bar = s.bar := rfl
@[simp] theorem State.modMatrix_netin (s : State) (n : Nat) (f : Matrix → Matrix) : (s.modMatrix n f).netin = s.netin := rfl
@[simp] theorem State.modMatrix_flash (s : State) (n : Nat) (f : Matrix → Matrix) : (s.modMatrix n f).flash = s.flash := rfl
@[simp] theorem State.modMatrix_restripes (s : State) (n : Nat) (f : Matrix → Matrix) : (s.modMatrix n f).restripes = s.restripes := rfl
@[simp] theorem State.modMatrix_badBanks (s : State) (n : Nat) (f : Matrix → Matrix) : (s.modMatrix n f).badBanks = s.badBanks := rfl
@[simp] theorem State.modMatrix_clearing (s : State) (n : Nat) (f : Matrix → Matrix) : (s.modMatrix n f).clearing = s.clearing := rfl
@[simp] theorem State.modMatrix_scrubbed (s : State) (n : Nat) (f : Matrix → Matrix) : (s.modMatrix n f).scrubbed = s.scrubbed := rfl
@[simp] theorem State.modMatrix_boot (s : State) (n : Nat) (f : Matrix → Matrix) : (s.modMatrix n f).boot = s.boot := rfl
@[simp] theorem State.modMatrix_monitor (s : State) (n : Nat) (f : Matrix → Matrix) : (s.modMatrix n f).monitor = s.monitor := rfl
@[simp] theorem State.modMatrix_mailbox (s : State) (n : Nat) (f : Matrix → Matrix) : (s.modMatrix n f).mailbox = s.mailbox := rfl
@[simp] theorem State.modMatrix_mailWaiting (s : State) (n : Nat) (f : Matrix → Matrix) : (s.modMatrix n f).mailWaiting = s.mailWaiting := rfl
@[simp] theorem State.modMatrix_spdm (s : State) (n : Nat) (f : Matrix → Matrix) : (s.modMatrix n f).spdm = s.spdm := rfl
@[simp] theorem State.modMatrix_hostReads (s : State) (n : Nat) (f : Matrix → Matrix) : (s.modMatrix n f).hostReads = s.hostReads := rfl

/-! ### `modDune` -/

@[simp] theorem State.modDune_focus (s : State) (n : Nat) (f : Dune → Dune) : (s.modDune n f).focus = s.focus := rfl
@[simp] theorem State.modDune_agenda (s : State) (n : Nat) (f : Dune → Dune) : (s.modDune n f).agenda = s.agenda := rfl
@[simp] theorem State.modDune_sched (s : State) (n : Nat) (f : Dune → Dune) : (s.modDune n f).sched = s.sched := rfl
@[simp] theorem State.modDune_free (s : State) (n : Nat) (f : Dune → Dune) : (s.modDune n f).free = s.free := rfl
@[simp] theorem State.modDune_nextUid (s : State) (n : Nat) (f : Dune → Dune) : (s.modDune n f).nextUid = s.nextUid := rfl
@[simp] theorem State.modDune_mem (s : State) (n : Nat) (f : Dune → Dune) : (s.modDune n f).mem = s.mem := rfl
@[simp] theorem State.modDune_writes (s : State) (n : Nat) (f : Dune → Dune) : (s.modDune n f).writes = s.writes := rfl
@[simp] theorem State.modDune_poison (s : State) (n : Nat) (f : Dune → Dune) : (s.modDune n f).poison = s.poison := rfl
@[simp] theorem State.modDune_releases (s : State) (n : Nat) (f : Dune → Dune) : (s.modDune n f).releases = s.releases := rfl
@[simp] theorem State.modDune_pairLines (s : State) (n : Nat) (f : Dune → Dune) : (s.modDune n f).pairLines = s.pairLines := rfl
@[simp] theorem State.modDune_tracked (s : State) (n : Nat) (f : Dune → Dune) : (s.modDune n f).tracked = s.tracked := rfl
@[simp] theorem State.modDune_capWaiters (s : State) (n : Nat) (f : Dune → Dune) : (s.modDune n f).capWaiters = s.capWaiters := rfl
@[simp] theorem State.modDune_cores (s : State) (n : Nat) (f : Dune → Dune) : (s.modDune n f).cores = Tab.set s.cores n { s.core n with dune := f (s.core n).dune } := rfl
@[simp] theorem State.modDune_caravans (s : State) (n : Nat) (f : Dune → Dune) : (s.modDune n f).caravans = s.caravans := rfl
@[simp] theorem State.modDune_blocks (s : State) (n : Nat) (f : Dune → Dune) : (s.modDune n f).blocks = s.blocks := rfl
@[simp] theorem State.modDune_launches (s : State) (n : Nat) (f : Dune → Dune) : (s.modDune n f).launches = s.launches := rfl
@[simp] theorem State.modDune_saved (s : State) (n : Nat) (f : Dune → Dune) : (s.modDune n f).saved = s.saved := rfl
@[simp] theorem State.modDune_dies (s : State) (n : Nat) (f : Dune → Dune) : (s.modDune n f).dies = s.dies := rfl
@[simp] theorem State.modDune_contexts (s : State) (n : Nat) (f : Dune → Dune) : (s.modDune n f).contexts = s.contexts := rfl
@[simp] theorem State.modDune_queues (s : State) (n : Nat) (f : Dune → Dune) : (s.modDune n f).queues = s.queues := rfl
@[simp] theorem State.modDune_commands (s : State) (n : Nat) (f : Dune → Dune) : (s.modDune n f).commands = s.commands := rfl
@[simp] theorem State.modDune_graphs (s : State) (n : Nat) (f : Dune → Dune) : (s.modDune n f).graphs = s.graphs := rfl
@[simp] theorem State.modDune_horizonMsgs (s : State) (n : Nat) (f : Dune → Dune) : (s.modDune n f).horizonMsgs = s.horizonMsgs := rfl
@[simp] theorem State.modDune_bar (s : State) (n : Nat) (f : Dune → Dune) : (s.modDune n f).bar = s.bar := rfl
@[simp] theorem State.modDune_netin (s : State) (n : Nat) (f : Dune → Dune) : (s.modDune n f).netin = s.netin := rfl
@[simp] theorem State.modDune_flash (s : State) (n : Nat) (f : Dune → Dune) : (s.modDune n f).flash = s.flash := rfl
@[simp] theorem State.modDune_restripes (s : State) (n : Nat) (f : Dune → Dune) : (s.modDune n f).restripes = s.restripes := rfl
@[simp] theorem State.modDune_badBanks (s : State) (n : Nat) (f : Dune → Dune) : (s.modDune n f).badBanks = s.badBanks := rfl
@[simp] theorem State.modDune_clearing (s : State) (n : Nat) (f : Dune → Dune) : (s.modDune n f).clearing = s.clearing := rfl
@[simp] theorem State.modDune_scrubbed (s : State) (n : Nat) (f : Dune → Dune) : (s.modDune n f).scrubbed = s.scrubbed := rfl
@[simp] theorem State.modDune_boot (s : State) (n : Nat) (f : Dune → Dune) : (s.modDune n f).boot = s.boot := rfl
@[simp] theorem State.modDune_monitor (s : State) (n : Nat) (f : Dune → Dune) : (s.modDune n f).monitor = s.monitor := rfl
@[simp] theorem State.modDune_mailbox (s : State) (n : Nat) (f : Dune → Dune) : (s.modDune n f).mailbox = s.mailbox := rfl
@[simp] theorem State.modDune_mailWaiting (s : State) (n : Nat) (f : Dune → Dune) : (s.modDune n f).mailWaiting = s.mailWaiting := rfl
@[simp] theorem State.modDune_spdm (s : State) (n : Nat) (f : Dune → Dune) : (s.modDune n f).spdm = s.spdm := rfl
@[simp] theorem State.modDune_hostReads (s : State) (n : Nat) (f : Dune → Dune) : (s.modDune n f).hostReads = s.hostReads := rfl

/-! ### `modDie` -/

@[simp] theorem State.modDie_focus (s : State) (n : Nat) (f : Die → Die) : (s.modDie n f).focus = s.focus := rfl
@[simp] theorem State.modDie_agenda (s : State) (n : Nat) (f : Die → Die) : (s.modDie n f).agenda = s.agenda := rfl
@[simp] theorem State.modDie_sched (s : State) (n : Nat) (f : Die → Die) : (s.modDie n f).sched = s.sched := rfl
@[simp] theorem State.modDie_free (s : State) (n : Nat) (f : Die → Die) : (s.modDie n f).free = s.free := rfl
@[simp] theorem State.modDie_nextUid (s : State) (n : Nat) (f : Die → Die) : (s.modDie n f).nextUid = s.nextUid := rfl
@[simp] theorem State.modDie_mem (s : State) (n : Nat) (f : Die → Die) : (s.modDie n f).mem = s.mem := rfl
@[simp] theorem State.modDie_writes (s : State) (n : Nat) (f : Die → Die) : (s.modDie n f).writes = s.writes := rfl
@[simp] theorem State.modDie_poison (s : State) (n : Nat) (f : Die → Die) : (s.modDie n f).poison = s.poison := rfl
@[simp] theorem State.modDie_releases (s : State) (n : Nat) (f : Die → Die) : (s.modDie n f).releases = s.releases := rfl
@[simp] theorem State.modDie_pairLines (s : State) (n : Nat) (f : Die → Die) : (s.modDie n f).pairLines = s.pairLines := rfl
@[simp] theorem State.modDie_tracked (s : State) (n : Nat) (f : Die → Die) : (s.modDie n f).tracked = s.tracked := rfl
@[simp] theorem State.modDie_capWaiters (s : State) (n : Nat) (f : Die → Die) : (s.modDie n f).capWaiters = s.capWaiters := rfl
@[simp] theorem State.modDie_cores (s : State) (n : Nat) (f : Die → Die) : (s.modDie n f).cores = s.cores := rfl
@[simp] theorem State.modDie_caravans (s : State) (n : Nat) (f : Die → Die) : (s.modDie n f).caravans = s.caravans := rfl
@[simp] theorem State.modDie_blocks (s : State) (n : Nat) (f : Die → Die) : (s.modDie n f).blocks = s.blocks := rfl
@[simp] theorem State.modDie_launches (s : State) (n : Nat) (f : Die → Die) : (s.modDie n f).launches = s.launches := rfl
@[simp] theorem State.modDie_saved (s : State) (n : Nat) (f : Die → Die) : (s.modDie n f).saved = s.saved := rfl
@[simp] theorem State.modDie_dies (s : State) (n : Nat) (f : Die → Die) : (s.modDie n f).dies = Tab.set s.dies n (f (s.die n)) := rfl
@[simp] theorem State.modDie_contexts (s : State) (n : Nat) (f : Die → Die) : (s.modDie n f).contexts = s.contexts := rfl
@[simp] theorem State.modDie_queues (s : State) (n : Nat) (f : Die → Die) : (s.modDie n f).queues = s.queues := rfl
@[simp] theorem State.modDie_commands (s : State) (n : Nat) (f : Die → Die) : (s.modDie n f).commands = s.commands := rfl
@[simp] theorem State.modDie_graphs (s : State) (n : Nat) (f : Die → Die) : (s.modDie n f).graphs = s.graphs := rfl
@[simp] theorem State.modDie_horizonMsgs (s : State) (n : Nat) (f : Die → Die) : (s.modDie n f).horizonMsgs = s.horizonMsgs := rfl
@[simp] theorem State.modDie_bar (s : State) (n : Nat) (f : Die → Die) : (s.modDie n f).bar = s.bar := rfl
@[simp] theorem State.modDie_netin (s : State) (n : Nat) (f : Die → Die) : (s.modDie n f).netin = s.netin := rfl
@[simp] theorem State.modDie_flash (s : State) (n : Nat) (f : Die → Die) : (s.modDie n f).flash = s.flash := rfl
@[simp] theorem State.modDie_restripes (s : State) (n : Nat) (f : Die → Die) : (s.modDie n f).restripes = s.restripes := rfl
@[simp] theorem State.modDie_badBanks (s : State) (n : Nat) (f : Die → Die) : (s.modDie n f).badBanks = s.badBanks := rfl
@[simp] theorem State.modDie_clearing (s : State) (n : Nat) (f : Die → Die) : (s.modDie n f).clearing = s.clearing := rfl
@[simp] theorem State.modDie_scrubbed (s : State) (n : Nat) (f : Die → Die) : (s.modDie n f).scrubbed = s.scrubbed := rfl
@[simp] theorem State.modDie_boot (s : State) (n : Nat) (f : Die → Die) : (s.modDie n f).boot = s.boot := rfl
@[simp] theorem State.modDie_monitor (s : State) (n : Nat) (f : Die → Die) : (s.modDie n f).monitor = s.monitor := rfl
@[simp] theorem State.modDie_mailbox (s : State) (n : Nat) (f : Die → Die) : (s.modDie n f).mailbox = s.mailbox := rfl
@[simp] theorem State.modDie_mailWaiting (s : State) (n : Nat) (f : Die → Die) : (s.modDie n f).mailWaiting = s.mailWaiting := rfl
@[simp] theorem State.modDie_spdm (s : State) (n : Nat) (f : Die → Die) : (s.modDie n f).spdm = s.spdm := rfl
@[simp] theorem State.modDie_hostReads (s : State) (n : Nat) (f : Die → Die) : (s.modDie n f).hostReads = s.hostReads := rfl

/-! ### `setCaravan` -/

@[simp] theorem State.setCaravan_focus (s : State) (k : Nat) (c : Caravan) : (s.setCaravan k c).focus = s.focus := rfl
@[simp] theorem State.setCaravan_agenda (s : State) (k : Nat) (c : Caravan) : (s.setCaravan k c).agenda = s.agenda := rfl
@[simp] theorem State.setCaravan_sched (s : State) (k : Nat) (c : Caravan) : (s.setCaravan k c).sched = s.sched := rfl
@[simp] theorem State.setCaravan_free (s : State) (k : Nat) (c : Caravan) : (s.setCaravan k c).free = s.free := rfl
@[simp] theorem State.setCaravan_nextUid (s : State) (k : Nat) (c : Caravan) : (s.setCaravan k c).nextUid = s.nextUid := rfl
@[simp] theorem State.setCaravan_mem (s : State) (k : Nat) (c : Caravan) : (s.setCaravan k c).mem = s.mem := rfl
@[simp] theorem State.setCaravan_writes (s : State) (k : Nat) (c : Caravan) : (s.setCaravan k c).writes = s.writes := rfl
@[simp] theorem State.setCaravan_poison (s : State) (k : Nat) (c : Caravan) : (s.setCaravan k c).poison = s.poison := rfl
@[simp] theorem State.setCaravan_releases (s : State) (k : Nat) (c : Caravan) : (s.setCaravan k c).releases = s.releases := rfl
@[simp] theorem State.setCaravan_pairLines (s : State) (k : Nat) (c : Caravan) : (s.setCaravan k c).pairLines = s.pairLines := rfl
@[simp] theorem State.setCaravan_tracked (s : State) (k : Nat) (c : Caravan) : (s.setCaravan k c).tracked = s.tracked := rfl
@[simp] theorem State.setCaravan_capWaiters (s : State) (k : Nat) (c : Caravan) : (s.setCaravan k c).capWaiters = s.capWaiters := rfl
@[simp] theorem State.setCaravan_cores (s : State) (k : Nat) (c : Caravan) : (s.setCaravan k c).cores = s.cores := rfl
@[simp] theorem State.setCaravan_caravans (s : State) (k : Nat) (c : Caravan) : (s.setCaravan k c).caravans = Tab.set s.caravans k c := rfl
@[simp] theorem State.setCaravan_blocks (s : State) (k : Nat) (c : Caravan) : (s.setCaravan k c).blocks = s.blocks := rfl
@[simp] theorem State.setCaravan_launches (s : State) (k : Nat) (c : Caravan) : (s.setCaravan k c).launches = s.launches := rfl
@[simp] theorem State.setCaravan_saved (s : State) (k : Nat) (c : Caravan) : (s.setCaravan k c).saved = s.saved := rfl
@[simp] theorem State.setCaravan_dies (s : State) (k : Nat) (c : Caravan) : (s.setCaravan k c).dies = s.dies := rfl
@[simp] theorem State.setCaravan_contexts (s : State) (k : Nat) (c : Caravan) : (s.setCaravan k c).contexts = s.contexts := rfl
@[simp] theorem State.setCaravan_queues (s : State) (k : Nat) (c : Caravan) : (s.setCaravan k c).queues = s.queues := rfl
@[simp] theorem State.setCaravan_commands (s : State) (k : Nat) (c : Caravan) : (s.setCaravan k c).commands = s.commands := rfl
@[simp] theorem State.setCaravan_graphs (s : State) (k : Nat) (c : Caravan) : (s.setCaravan k c).graphs = s.graphs := rfl
@[simp] theorem State.setCaravan_horizonMsgs (s : State) (k : Nat) (c : Caravan) : (s.setCaravan k c).horizonMsgs = s.horizonMsgs := rfl
@[simp] theorem State.setCaravan_bar (s : State) (k : Nat) (c : Caravan) : (s.setCaravan k c).bar = s.bar := rfl
@[simp] theorem State.setCaravan_netin (s : State) (k : Nat) (c : Caravan) : (s.setCaravan k c).netin = s.netin := rfl
@[simp] theorem State.setCaravan_flash (s : State) (k : Nat) (c : Caravan) : (s.setCaravan k c).flash = s.flash := rfl
@[simp] theorem State.setCaravan_restripes (s : State) (k : Nat) (c : Caravan) : (s.setCaravan k c).restripes = s.restripes := rfl
@[simp] theorem State.setCaravan_badBanks (s : State) (k : Nat) (c : Caravan) : (s.setCaravan k c).badBanks = s.badBanks := rfl
@[simp] theorem State.setCaravan_clearing (s : State) (k : Nat) (c : Caravan) : (s.setCaravan k c).clearing = s.clearing := rfl
@[simp] theorem State.setCaravan_scrubbed (s : State) (k : Nat) (c : Caravan) : (s.setCaravan k c).scrubbed = s.scrubbed := rfl
@[simp] theorem State.setCaravan_boot (s : State) (k : Nat) (c : Caravan) : (s.setCaravan k c).boot = s.boot := rfl
@[simp] theorem State.setCaravan_monitor (s : State) (k : Nat) (c : Caravan) : (s.setCaravan k c).monitor = s.monitor := rfl
@[simp] theorem State.setCaravan_mailbox (s : State) (k : Nat) (c : Caravan) : (s.setCaravan k c).mailbox = s.mailbox := rfl
@[simp] theorem State.setCaravan_mailWaiting (s : State) (k : Nat) (c : Caravan) : (s.setCaravan k c).mailWaiting = s.mailWaiting := rfl
@[simp] theorem State.setCaravan_spdm (s : State) (k : Nat) (c : Caravan) : (s.setCaravan k c).spdm = s.spdm := rfl
@[simp] theorem State.setCaravan_hostReads (s : State) (k : Nat) (c : Caravan) : (s.setCaravan k c).hostReads = s.hostReads := rfl

/-! ### `modCaravan` -/

@[simp] theorem State.modCaravan_focus (s : State) (k : Nat) (f : Caravan → Caravan) : (s.modCaravan k f).focus = s.focus := rfl
@[simp] theorem State.modCaravan_agenda (s : State) (k : Nat) (f : Caravan → Caravan) : (s.modCaravan k f).agenda = s.agenda := rfl
@[simp] theorem State.modCaravan_sched (s : State) (k : Nat) (f : Caravan → Caravan) : (s.modCaravan k f).sched = s.sched := rfl
@[simp] theorem State.modCaravan_free (s : State) (k : Nat) (f : Caravan → Caravan) : (s.modCaravan k f).free = s.free := rfl
@[simp] theorem State.modCaravan_nextUid (s : State) (k : Nat) (f : Caravan → Caravan) : (s.modCaravan k f).nextUid = s.nextUid := rfl
@[simp] theorem State.modCaravan_mem (s : State) (k : Nat) (f : Caravan → Caravan) : (s.modCaravan k f).mem = s.mem := rfl
@[simp] theorem State.modCaravan_writes (s : State) (k : Nat) (f : Caravan → Caravan) : (s.modCaravan k f).writes = s.writes := rfl
@[simp] theorem State.modCaravan_poison (s : State) (k : Nat) (f : Caravan → Caravan) : (s.modCaravan k f).poison = s.poison := rfl
@[simp] theorem State.modCaravan_releases (s : State) (k : Nat) (f : Caravan → Caravan) : (s.modCaravan k f).releases = s.releases := rfl
@[simp] theorem State.modCaravan_pairLines (s : State) (k : Nat) (f : Caravan → Caravan) : (s.modCaravan k f).pairLines = s.pairLines := rfl
@[simp] theorem State.modCaravan_tracked (s : State) (k : Nat) (f : Caravan → Caravan) : (s.modCaravan k f).tracked = s.tracked := rfl
@[simp] theorem State.modCaravan_capWaiters (s : State) (k : Nat) (f : Caravan → Caravan) : (s.modCaravan k f).capWaiters = s.capWaiters := rfl
@[simp] theorem State.modCaravan_cores (s : State) (k : Nat) (f : Caravan → Caravan) : (s.modCaravan k f).cores = s.cores := rfl
@[simp] theorem State.modCaravan_caravans (s : State) (k : Nat) (f : Caravan → Caravan) : (s.modCaravan k f).caravans = Tab.modify s.caravans k f := rfl
@[simp] theorem State.modCaravan_blocks (s : State) (k : Nat) (f : Caravan → Caravan) : (s.modCaravan k f).blocks = s.blocks := rfl
@[simp] theorem State.modCaravan_launches (s : State) (k : Nat) (f : Caravan → Caravan) : (s.modCaravan k f).launches = s.launches := rfl
@[simp] theorem State.modCaravan_saved (s : State) (k : Nat) (f : Caravan → Caravan) : (s.modCaravan k f).saved = s.saved := rfl
@[simp] theorem State.modCaravan_dies (s : State) (k : Nat) (f : Caravan → Caravan) : (s.modCaravan k f).dies = s.dies := rfl
@[simp] theorem State.modCaravan_contexts (s : State) (k : Nat) (f : Caravan → Caravan) : (s.modCaravan k f).contexts = s.contexts := rfl
@[simp] theorem State.modCaravan_queues (s : State) (k : Nat) (f : Caravan → Caravan) : (s.modCaravan k f).queues = s.queues := rfl
@[simp] theorem State.modCaravan_commands (s : State) (k : Nat) (f : Caravan → Caravan) : (s.modCaravan k f).commands = s.commands := rfl
@[simp] theorem State.modCaravan_graphs (s : State) (k : Nat) (f : Caravan → Caravan) : (s.modCaravan k f).graphs = s.graphs := rfl
@[simp] theorem State.modCaravan_horizonMsgs (s : State) (k : Nat) (f : Caravan → Caravan) : (s.modCaravan k f).horizonMsgs = s.horizonMsgs := rfl
@[simp] theorem State.modCaravan_bar (s : State) (k : Nat) (f : Caravan → Caravan) : (s.modCaravan k f).bar = s.bar := rfl
@[simp] theorem State.modCaravan_netin (s : State) (k : Nat) (f : Caravan → Caravan) : (s.modCaravan k f).netin = s.netin := rfl
@[simp] theorem State.modCaravan_flash (s : State) (k : Nat) (f : Caravan → Caravan) : (s.modCaravan k f).flash = s.flash := rfl
@[simp] theorem State.modCaravan_restripes (s : State) (k : Nat) (f : Caravan → Caravan) : (s.modCaravan k f).restripes = s.restripes := rfl
@[simp] theorem State.modCaravan_badBanks (s : State) (k : Nat) (f : Caravan → Caravan) : (s.modCaravan k f).badBanks = s.badBanks := rfl
@[simp] theorem State.modCaravan_clearing (s : State) (k : Nat) (f : Caravan → Caravan) : (s.modCaravan k f).clearing = s.clearing := rfl
@[simp] theorem State.modCaravan_scrubbed (s : State) (k : Nat) (f : Caravan → Caravan) : (s.modCaravan k f).scrubbed = s.scrubbed := rfl
@[simp] theorem State.modCaravan_boot (s : State) (k : Nat) (f : Caravan → Caravan) : (s.modCaravan k f).boot = s.boot := rfl
@[simp] theorem State.modCaravan_monitor (s : State) (k : Nat) (f : Caravan → Caravan) : (s.modCaravan k f).monitor = s.monitor := rfl
@[simp] theorem State.modCaravan_mailbox (s : State) (k : Nat) (f : Caravan → Caravan) : (s.modCaravan k f).mailbox = s.mailbox := rfl
@[simp] theorem State.modCaravan_mailWaiting (s : State) (k : Nat) (f : Caravan → Caravan) : (s.modCaravan k f).mailWaiting = s.mailWaiting := rfl
@[simp] theorem State.modCaravan_spdm (s : State) (k : Nat) (f : Caravan → Caravan) : (s.modCaravan k f).spdm = s.spdm := rfl
@[simp] theorem State.modCaravan_hostReads (s : State) (k : Nat) (f : Caravan → Caravan) : (s.modCaravan k f).hostReads = s.hostReads := rfl

/-! ### `modPath` -/

@[simp] theorem State.modPath_focus (s : State) (k p : Nat) (f : Path → Path) : (s.modPath k p f).focus = s.focus := rfl
@[simp] theorem State.modPath_agenda (s : State) (k p : Nat) (f : Path → Path) : (s.modPath k p f).agenda = s.agenda := rfl
@[simp] theorem State.modPath_sched (s : State) (k p : Nat) (f : Path → Path) : (s.modPath k p f).sched = s.sched := rfl
@[simp] theorem State.modPath_free (s : State) (k p : Nat) (f : Path → Path) : (s.modPath k p f).free = s.free := rfl
@[simp] theorem State.modPath_nextUid (s : State) (k p : Nat) (f : Path → Path) : (s.modPath k p f).nextUid = s.nextUid := rfl
@[simp] theorem State.modPath_mem (s : State) (k p : Nat) (f : Path → Path) : (s.modPath k p f).mem = s.mem := rfl
@[simp] theorem State.modPath_writes (s : State) (k p : Nat) (f : Path → Path) : (s.modPath k p f).writes = s.writes := rfl
@[simp] theorem State.modPath_poison (s : State) (k p : Nat) (f : Path → Path) : (s.modPath k p f).poison = s.poison := rfl
@[simp] theorem State.modPath_releases (s : State) (k p : Nat) (f : Path → Path) : (s.modPath k p f).releases = s.releases := rfl
@[simp] theorem State.modPath_pairLines (s : State) (k p : Nat) (f : Path → Path) : (s.modPath k p f).pairLines = s.pairLines := rfl
@[simp] theorem State.modPath_tracked (s : State) (k p : Nat) (f : Path → Path) : (s.modPath k p f).tracked = s.tracked := rfl
@[simp] theorem State.modPath_capWaiters (s : State) (k p : Nat) (f : Path → Path) : (s.modPath k p f).capWaiters = s.capWaiters := rfl
@[simp] theorem State.modPath_cores (s : State) (k p : Nat) (f : Path → Path) : (s.modPath k p f).cores = s.cores := rfl
@[simp] theorem State.modPath_caravans (s : State) (k p : Nat) (f : Path → Path) : (s.modPath k p f).caravans = Tab.modify s.caravans k (fun c => { c with paths := Tab.modify c.paths p f }) := rfl
@[simp] theorem State.modPath_blocks (s : State) (k p : Nat) (f : Path → Path) : (s.modPath k p f).blocks = s.blocks := rfl
@[simp] theorem State.modPath_launches (s : State) (k p : Nat) (f : Path → Path) : (s.modPath k p f).launches = s.launches := rfl
@[simp] theorem State.modPath_saved (s : State) (k p : Nat) (f : Path → Path) : (s.modPath k p f).saved = s.saved := rfl
@[simp] theorem State.modPath_dies (s : State) (k p : Nat) (f : Path → Path) : (s.modPath k p f).dies = s.dies := rfl
@[simp] theorem State.modPath_contexts (s : State) (k p : Nat) (f : Path → Path) : (s.modPath k p f).contexts = s.contexts := rfl
@[simp] theorem State.modPath_queues (s : State) (k p : Nat) (f : Path → Path) : (s.modPath k p f).queues = s.queues := rfl
@[simp] theorem State.modPath_commands (s : State) (k p : Nat) (f : Path → Path) : (s.modPath k p f).commands = s.commands := rfl
@[simp] theorem State.modPath_graphs (s : State) (k p : Nat) (f : Path → Path) : (s.modPath k p f).graphs = s.graphs := rfl
@[simp] theorem State.modPath_horizonMsgs (s : State) (k p : Nat) (f : Path → Path) : (s.modPath k p f).horizonMsgs = s.horizonMsgs := rfl
@[simp] theorem State.modPath_bar (s : State) (k p : Nat) (f : Path → Path) : (s.modPath k p f).bar = s.bar := rfl
@[simp] theorem State.modPath_netin (s : State) (k p : Nat) (f : Path → Path) : (s.modPath k p f).netin = s.netin := rfl
@[simp] theorem State.modPath_flash (s : State) (k p : Nat) (f : Path → Path) : (s.modPath k p f).flash = s.flash := rfl
@[simp] theorem State.modPath_restripes (s : State) (k p : Nat) (f : Path → Path) : (s.modPath k p f).restripes = s.restripes := rfl
@[simp] theorem State.modPath_badBanks (s : State) (k p : Nat) (f : Path → Path) : (s.modPath k p f).badBanks = s.badBanks := rfl
@[simp] theorem State.modPath_clearing (s : State) (k p : Nat) (f : Path → Path) : (s.modPath k p f).clearing = s.clearing := rfl
@[simp] theorem State.modPath_scrubbed (s : State) (k p : Nat) (f : Path → Path) : (s.modPath k p f).scrubbed = s.scrubbed := rfl
@[simp] theorem State.modPath_boot (s : State) (k p : Nat) (f : Path → Path) : (s.modPath k p f).boot = s.boot := rfl
@[simp] theorem State.modPath_monitor (s : State) (k p : Nat) (f : Path → Path) : (s.modPath k p f).monitor = s.monitor := rfl
@[simp] theorem State.modPath_mailbox (s : State) (k p : Nat) (f : Path → Path) : (s.modPath k p f).mailbox = s.mailbox := rfl
@[simp] theorem State.modPath_mailWaiting (s : State) (k p : Nat) (f : Path → Path) : (s.modPath k p f).mailWaiting = s.mailWaiting := rfl
@[simp] theorem State.modPath_spdm (s : State) (k p : Nat) (f : Path → Path) : (s.modPath k p f).spdm = s.spdm := rfl
@[simp] theorem State.modPath_hostReads (s : State) (k p : Nat) (f : Path → Path) : (s.modPath k p f).hostReads = s.hostReads := rfl

/-! ### `modBlock` -/

@[simp] theorem State.modBlock_focus (s : State) (b : Nat) (f : Block → Block) : (s.modBlock b f).focus = s.focus := rfl
@[simp] theorem State.modBlock_agenda (s : State) (b : Nat) (f : Block → Block) : (s.modBlock b f).agenda = s.agenda := rfl
@[simp] theorem State.modBlock_sched (s : State) (b : Nat) (f : Block → Block) : (s.modBlock b f).sched = s.sched := rfl
@[simp] theorem State.modBlock_free (s : State) (b : Nat) (f : Block → Block) : (s.modBlock b f).free = s.free := rfl
@[simp] theorem State.modBlock_nextUid (s : State) (b : Nat) (f : Block → Block) : (s.modBlock b f).nextUid = s.nextUid := rfl
@[simp] theorem State.modBlock_mem (s : State) (b : Nat) (f : Block → Block) : (s.modBlock b f).mem = s.mem := rfl
@[simp] theorem State.modBlock_writes (s : State) (b : Nat) (f : Block → Block) : (s.modBlock b f).writes = s.writes := rfl
@[simp] theorem State.modBlock_poison (s : State) (b : Nat) (f : Block → Block) : (s.modBlock b f).poison = s.poison := rfl
@[simp] theorem State.modBlock_releases (s : State) (b : Nat) (f : Block → Block) : (s.modBlock b f).releases = s.releases := rfl
@[simp] theorem State.modBlock_pairLines (s : State) (b : Nat) (f : Block → Block) : (s.modBlock b f).pairLines = s.pairLines := rfl
@[simp] theorem State.modBlock_tracked (s : State) (b : Nat) (f : Block → Block) : (s.modBlock b f).tracked = s.tracked := rfl
@[simp] theorem State.modBlock_capWaiters (s : State) (b : Nat) (f : Block → Block) : (s.modBlock b f).capWaiters = s.capWaiters := rfl
@[simp] theorem State.modBlock_cores (s : State) (b : Nat) (f : Block → Block) : (s.modBlock b f).cores = s.cores := rfl
@[simp] theorem State.modBlock_caravans (s : State) (b : Nat) (f : Block → Block) : (s.modBlock b f).caravans = s.caravans := rfl
@[simp] theorem State.modBlock_blocks (s : State) (b : Nat) (f : Block → Block) : (s.modBlock b f).blocks = Tab.modify s.blocks b f := rfl
@[simp] theorem State.modBlock_launches (s : State) (b : Nat) (f : Block → Block) : (s.modBlock b f).launches = s.launches := rfl
@[simp] theorem State.modBlock_saved (s : State) (b : Nat) (f : Block → Block) : (s.modBlock b f).saved = s.saved := rfl
@[simp] theorem State.modBlock_dies (s : State) (b : Nat) (f : Block → Block) : (s.modBlock b f).dies = s.dies := rfl
@[simp] theorem State.modBlock_contexts (s : State) (b : Nat) (f : Block → Block) : (s.modBlock b f).contexts = s.contexts := rfl
@[simp] theorem State.modBlock_queues (s : State) (b : Nat) (f : Block → Block) : (s.modBlock b f).queues = s.queues := rfl
@[simp] theorem State.modBlock_commands (s : State) (b : Nat) (f : Block → Block) : (s.modBlock b f).commands = s.commands := rfl
@[simp] theorem State.modBlock_graphs (s : State) (b : Nat) (f : Block → Block) : (s.modBlock b f).graphs = s.graphs := rfl
@[simp] theorem State.modBlock_horizonMsgs (s : State) (b : Nat) (f : Block → Block) : (s.modBlock b f).horizonMsgs = s.horizonMsgs := rfl
@[simp] theorem State.modBlock_bar (s : State) (b : Nat) (f : Block → Block) : (s.modBlock b f).bar = s.bar := rfl
@[simp] theorem State.modBlock_netin (s : State) (b : Nat) (f : Block → Block) : (s.modBlock b f).netin = s.netin := rfl
@[simp] theorem State.modBlock_flash (s : State) (b : Nat) (f : Block → Block) : (s.modBlock b f).flash = s.flash := rfl
@[simp] theorem State.modBlock_restripes (s : State) (b : Nat) (f : Block → Block) : (s.modBlock b f).restripes = s.restripes := rfl
@[simp] theorem State.modBlock_badBanks (s : State) (b : Nat) (f : Block → Block) : (s.modBlock b f).badBanks = s.badBanks := rfl
@[simp] theorem State.modBlock_clearing (s : State) (b : Nat) (f : Block → Block) : (s.modBlock b f).clearing = s.clearing := rfl
@[simp] theorem State.modBlock_scrubbed (s : State) (b : Nat) (f : Block → Block) : (s.modBlock b f).scrubbed = s.scrubbed := rfl
@[simp] theorem State.modBlock_boot (s : State) (b : Nat) (f : Block → Block) : (s.modBlock b f).boot = s.boot := rfl
@[simp] theorem State.modBlock_monitor (s : State) (b : Nat) (f : Block → Block) : (s.modBlock b f).monitor = s.monitor := rfl
@[simp] theorem State.modBlock_mailbox (s : State) (b : Nat) (f : Block → Block) : (s.modBlock b f).mailbox = s.mailbox := rfl
@[simp] theorem State.modBlock_mailWaiting (s : State) (b : Nat) (f : Block → Block) : (s.modBlock b f).mailWaiting = s.mailWaiting := rfl
@[simp] theorem State.modBlock_spdm (s : State) (b : Nat) (f : Block → Block) : (s.modBlock b f).spdm = s.spdm := rfl
@[simp] theorem State.modBlock_hostReads (s : State) (b : Nat) (f : Block → Block) : (s.modBlock b f).hostReads = s.hostReads := rfl

/-! ### `modBarrier` -/

@[simp] theorem State.modBarrier_focus (s : State) (b n : Nat) (f : Barrier → Barrier) : (s.modBarrier b n f).focus = s.focus := rfl
@[simp] theorem State.modBarrier_agenda (s : State) (b n : Nat) (f : Barrier → Barrier) : (s.modBarrier b n f).agenda = s.agenda := rfl
@[simp] theorem State.modBarrier_sched (s : State) (b n : Nat) (f : Barrier → Barrier) : (s.modBarrier b n f).sched = s.sched := rfl
@[simp] theorem State.modBarrier_free (s : State) (b n : Nat) (f : Barrier → Barrier) : (s.modBarrier b n f).free = s.free := rfl
@[simp] theorem State.modBarrier_nextUid (s : State) (b n : Nat) (f : Barrier → Barrier) : (s.modBarrier b n f).nextUid = s.nextUid := rfl
@[simp] theorem State.modBarrier_mem (s : State) (b n : Nat) (f : Barrier → Barrier) : (s.modBarrier b n f).mem = s.mem := rfl
@[simp] theorem State.modBarrier_writes (s : State) (b n : Nat) (f : Barrier → Barrier) : (s.modBarrier b n f).writes = s.writes := rfl
@[simp] theorem State.modBarrier_poison (s : State) (b n : Nat) (f : Barrier → Barrier) : (s.modBarrier b n f).poison = s.poison := rfl
@[simp] theorem State.modBarrier_releases (s : State) (b n : Nat) (f : Barrier → Barrier) : (s.modBarrier b n f).releases = s.releases := rfl
@[simp] theorem State.modBarrier_pairLines (s : State) (b n : Nat) (f : Barrier → Barrier) : (s.modBarrier b n f).pairLines = s.pairLines := rfl
@[simp] theorem State.modBarrier_tracked (s : State) (b n : Nat) (f : Barrier → Barrier) : (s.modBarrier b n f).tracked = s.tracked := rfl
@[simp] theorem State.modBarrier_capWaiters (s : State) (b n : Nat) (f : Barrier → Barrier) : (s.modBarrier b n f).capWaiters = s.capWaiters := rfl
@[simp] theorem State.modBarrier_cores (s : State) (b n : Nat) (f : Barrier → Barrier) : (s.modBarrier b n f).cores = s.cores := rfl
@[simp] theorem State.modBarrier_caravans (s : State) (b n : Nat) (f : Barrier → Barrier) : (s.modBarrier b n f).caravans = s.caravans := rfl
@[simp] theorem State.modBarrier_blocks (s : State) (b n : Nat) (f : Barrier → Barrier) : (s.modBarrier b n f).blocks = Tab.modify s.blocks b (fun x => { x with barriers := Tab.set x.barriers n (f (x.barrier n)) }) := rfl
@[simp] theorem State.modBarrier_launches (s : State) (b n : Nat) (f : Barrier → Barrier) : (s.modBarrier b n f).launches = s.launches := rfl
@[simp] theorem State.modBarrier_saved (s : State) (b n : Nat) (f : Barrier → Barrier) : (s.modBarrier b n f).saved = s.saved := rfl
@[simp] theorem State.modBarrier_dies (s : State) (b n : Nat) (f : Barrier → Barrier) : (s.modBarrier b n f).dies = s.dies := rfl
@[simp] theorem State.modBarrier_contexts (s : State) (b n : Nat) (f : Barrier → Barrier) : (s.modBarrier b n f).contexts = s.contexts := rfl
@[simp] theorem State.modBarrier_queues (s : State) (b n : Nat) (f : Barrier → Barrier) : (s.modBarrier b n f).queues = s.queues := rfl
@[simp] theorem State.modBarrier_commands (s : State) (b n : Nat) (f : Barrier → Barrier) : (s.modBarrier b n f).commands = s.commands := rfl
@[simp] theorem State.modBarrier_graphs (s : State) (b n : Nat) (f : Barrier → Barrier) : (s.modBarrier b n f).graphs = s.graphs := rfl
@[simp] theorem State.modBarrier_horizonMsgs (s : State) (b n : Nat) (f : Barrier → Barrier) : (s.modBarrier b n f).horizonMsgs = s.horizonMsgs := rfl
@[simp] theorem State.modBarrier_bar (s : State) (b n : Nat) (f : Barrier → Barrier) : (s.modBarrier b n f).bar = s.bar := rfl
@[simp] theorem State.modBarrier_netin (s : State) (b n : Nat) (f : Barrier → Barrier) : (s.modBarrier b n f).netin = s.netin := rfl
@[simp] theorem State.modBarrier_flash (s : State) (b n : Nat) (f : Barrier → Barrier) : (s.modBarrier b n f).flash = s.flash := rfl
@[simp] theorem State.modBarrier_restripes (s : State) (b n : Nat) (f : Barrier → Barrier) : (s.modBarrier b n f).restripes = s.restripes := rfl
@[simp] theorem State.modBarrier_badBanks (s : State) (b n : Nat) (f : Barrier → Barrier) : (s.modBarrier b n f).badBanks = s.badBanks := rfl
@[simp] theorem State.modBarrier_clearing (s : State) (b n : Nat) (f : Barrier → Barrier) : (s.modBarrier b n f).clearing = s.clearing := rfl
@[simp] theorem State.modBarrier_scrubbed (s : State) (b n : Nat) (f : Barrier → Barrier) : (s.modBarrier b n f).scrubbed = s.scrubbed := rfl
@[simp] theorem State.modBarrier_boot (s : State) (b n : Nat) (f : Barrier → Barrier) : (s.modBarrier b n f).boot = s.boot := rfl
@[simp] theorem State.modBarrier_monitor (s : State) (b n : Nat) (f : Barrier → Barrier) : (s.modBarrier b n f).monitor = s.monitor := rfl
@[simp] theorem State.modBarrier_mailbox (s : State) (b n : Nat) (f : Barrier → Barrier) : (s.modBarrier b n f).mailbox = s.mailbox := rfl
@[simp] theorem State.modBarrier_mailWaiting (s : State) (b n : Nat) (f : Barrier → Barrier) : (s.modBarrier b n f).mailWaiting = s.mailWaiting := rfl
@[simp] theorem State.modBarrier_spdm (s : State) (b n : Nat) (f : Barrier → Barrier) : (s.modBarrier b n f).spdm = s.spdm := rfl
@[simp] theorem State.modBarrier_hostReads (s : State) (b n : Nat) (f : Barrier → Barrier) : (s.modBarrier b n f).hostReads = s.hostReads := rfl

/-! ### `modHalf` -/

@[simp] theorem State.modHalf_focus (s : State) (b h : Nat) (f : Half → Half) : (s.modHalf b h f).focus = s.focus := rfl
@[simp] theorem State.modHalf_agenda (s : State) (b h : Nat) (f : Half → Half) : (s.modHalf b h f).agenda = s.agenda := rfl
@[simp] theorem State.modHalf_sched (s : State) (b h : Nat) (f : Half → Half) : (s.modHalf b h f).sched = s.sched := rfl
@[simp] theorem State.modHalf_free (s : State) (b h : Nat) (f : Half → Half) : (s.modHalf b h f).free = s.free := rfl
@[simp] theorem State.modHalf_nextUid (s : State) (b h : Nat) (f : Half → Half) : (s.modHalf b h f).nextUid = s.nextUid := rfl
@[simp] theorem State.modHalf_mem (s : State) (b h : Nat) (f : Half → Half) : (s.modHalf b h f).mem = s.mem := rfl
@[simp] theorem State.modHalf_writes (s : State) (b h : Nat) (f : Half → Half) : (s.modHalf b h f).writes = s.writes := rfl
@[simp] theorem State.modHalf_poison (s : State) (b h : Nat) (f : Half → Half) : (s.modHalf b h f).poison = s.poison := rfl
@[simp] theorem State.modHalf_releases (s : State) (b h : Nat) (f : Half → Half) : (s.modHalf b h f).releases = s.releases := rfl
@[simp] theorem State.modHalf_pairLines (s : State) (b h : Nat) (f : Half → Half) : (s.modHalf b h f).pairLines = s.pairLines := rfl
@[simp] theorem State.modHalf_tracked (s : State) (b h : Nat) (f : Half → Half) : (s.modHalf b h f).tracked = s.tracked := rfl
@[simp] theorem State.modHalf_capWaiters (s : State) (b h : Nat) (f : Half → Half) : (s.modHalf b h f).capWaiters = s.capWaiters := rfl
@[simp] theorem State.modHalf_cores (s : State) (b h : Nat) (f : Half → Half) : (s.modHalf b h f).cores = s.cores := rfl
@[simp] theorem State.modHalf_caravans (s : State) (b h : Nat) (f : Half → Half) : (s.modHalf b h f).caravans = s.caravans := rfl
@[simp] theorem State.modHalf_blocks (s : State) (b h : Nat) (f : Half → Half) : (s.modHalf b h f).blocks = Tab.modify s.blocks b (fun x => { x with halves := x.halves.mapIdx (fun i y => if i = h then f y else y) }) := rfl
@[simp] theorem State.modHalf_launches (s : State) (b h : Nat) (f : Half → Half) : (s.modHalf b h f).launches = s.launches := rfl
@[simp] theorem State.modHalf_saved (s : State) (b h : Nat) (f : Half → Half) : (s.modHalf b h f).saved = s.saved := rfl
@[simp] theorem State.modHalf_dies (s : State) (b h : Nat) (f : Half → Half) : (s.modHalf b h f).dies = s.dies := rfl
@[simp] theorem State.modHalf_contexts (s : State) (b h : Nat) (f : Half → Half) : (s.modHalf b h f).contexts = s.contexts := rfl
@[simp] theorem State.modHalf_queues (s : State) (b h : Nat) (f : Half → Half) : (s.modHalf b h f).queues = s.queues := rfl
@[simp] theorem State.modHalf_commands (s : State) (b h : Nat) (f : Half → Half) : (s.modHalf b h f).commands = s.commands := rfl
@[simp] theorem State.modHalf_graphs (s : State) (b h : Nat) (f : Half → Half) : (s.modHalf b h f).graphs = s.graphs := rfl
@[simp] theorem State.modHalf_horizonMsgs (s : State) (b h : Nat) (f : Half → Half) : (s.modHalf b h f).horizonMsgs = s.horizonMsgs := rfl
@[simp] theorem State.modHalf_bar (s : State) (b h : Nat) (f : Half → Half) : (s.modHalf b h f).bar = s.bar := rfl
@[simp] theorem State.modHalf_netin (s : State) (b h : Nat) (f : Half → Half) : (s.modHalf b h f).netin = s.netin := rfl
@[simp] theorem State.modHalf_flash (s : State) (b h : Nat) (f : Half → Half) : (s.modHalf b h f).flash = s.flash := rfl
@[simp] theorem State.modHalf_restripes (s : State) (b h : Nat) (f : Half → Half) : (s.modHalf b h f).restripes = s.restripes := rfl
@[simp] theorem State.modHalf_badBanks (s : State) (b h : Nat) (f : Half → Half) : (s.modHalf b h f).badBanks = s.badBanks := rfl
@[simp] theorem State.modHalf_clearing (s : State) (b h : Nat) (f : Half → Half) : (s.modHalf b h f).clearing = s.clearing := rfl
@[simp] theorem State.modHalf_scrubbed (s : State) (b h : Nat) (f : Half → Half) : (s.modHalf b h f).scrubbed = s.scrubbed := rfl
@[simp] theorem State.modHalf_boot (s : State) (b h : Nat) (f : Half → Half) : (s.modHalf b h f).boot = s.boot := rfl
@[simp] theorem State.modHalf_monitor (s : State) (b h : Nat) (f : Half → Half) : (s.modHalf b h f).monitor = s.monitor := rfl
@[simp] theorem State.modHalf_mailbox (s : State) (b h : Nat) (f : Half → Half) : (s.modHalf b h f).mailbox = s.mailbox := rfl
@[simp] theorem State.modHalf_mailWaiting (s : State) (b h : Nat) (f : Half → Half) : (s.modHalf b h f).mailWaiting = s.mailWaiting := rfl
@[simp] theorem State.modHalf_spdm (s : State) (b h : Nat) (f : Half → Half) : (s.modHalf b h f).spdm = s.spdm := rfl
@[simp] theorem State.modHalf_hostReads (s : State) (b h : Nat) (f : Half → Half) : (s.modHalf b h f).hostReads = s.hostReads := rfl

/-! ### `modLaunch` -/

@[simp] theorem State.modLaunch_focus (s : State) (l : Nat) (f : Launch → Launch) : (s.modLaunch l f).focus = s.focus := rfl
@[simp] theorem State.modLaunch_agenda (s : State) (l : Nat) (f : Launch → Launch) : (s.modLaunch l f).agenda = s.agenda := rfl
@[simp] theorem State.modLaunch_sched (s : State) (l : Nat) (f : Launch → Launch) : (s.modLaunch l f).sched = s.sched := rfl
@[simp] theorem State.modLaunch_free (s : State) (l : Nat) (f : Launch → Launch) : (s.modLaunch l f).free = s.free := rfl
@[simp] theorem State.modLaunch_nextUid (s : State) (l : Nat) (f : Launch → Launch) : (s.modLaunch l f).nextUid = s.nextUid := rfl
@[simp] theorem State.modLaunch_mem (s : State) (l : Nat) (f : Launch → Launch) : (s.modLaunch l f).mem = s.mem := rfl
@[simp] theorem State.modLaunch_writes (s : State) (l : Nat) (f : Launch → Launch) : (s.modLaunch l f).writes = s.writes := rfl
@[simp] theorem State.modLaunch_poison (s : State) (l : Nat) (f : Launch → Launch) : (s.modLaunch l f).poison = s.poison := rfl
@[simp] theorem State.modLaunch_releases (s : State) (l : Nat) (f : Launch → Launch) : (s.modLaunch l f).releases = s.releases := rfl
@[simp] theorem State.modLaunch_pairLines (s : State) (l : Nat) (f : Launch → Launch) : (s.modLaunch l f).pairLines = s.pairLines := rfl
@[simp] theorem State.modLaunch_tracked (s : State) (l : Nat) (f : Launch → Launch) : (s.modLaunch l f).tracked = s.tracked := rfl
@[simp] theorem State.modLaunch_capWaiters (s : State) (l : Nat) (f : Launch → Launch) : (s.modLaunch l f).capWaiters = s.capWaiters := rfl
@[simp] theorem State.modLaunch_cores (s : State) (l : Nat) (f : Launch → Launch) : (s.modLaunch l f).cores = s.cores := rfl
@[simp] theorem State.modLaunch_caravans (s : State) (l : Nat) (f : Launch → Launch) : (s.modLaunch l f).caravans = s.caravans := rfl
@[simp] theorem State.modLaunch_blocks (s : State) (l : Nat) (f : Launch → Launch) : (s.modLaunch l f).blocks = s.blocks := rfl
@[simp] theorem State.modLaunch_launches (s : State) (l : Nat) (f : Launch → Launch) : (s.modLaunch l f).launches = Tab.modify s.launches l f := rfl
@[simp] theorem State.modLaunch_saved (s : State) (l : Nat) (f : Launch → Launch) : (s.modLaunch l f).saved = s.saved := rfl
@[simp] theorem State.modLaunch_dies (s : State) (l : Nat) (f : Launch → Launch) : (s.modLaunch l f).dies = s.dies := rfl
@[simp] theorem State.modLaunch_contexts (s : State) (l : Nat) (f : Launch → Launch) : (s.modLaunch l f).contexts = s.contexts := rfl
@[simp] theorem State.modLaunch_queues (s : State) (l : Nat) (f : Launch → Launch) : (s.modLaunch l f).queues = s.queues := rfl
@[simp] theorem State.modLaunch_commands (s : State) (l : Nat) (f : Launch → Launch) : (s.modLaunch l f).commands = s.commands := rfl
@[simp] theorem State.modLaunch_graphs (s : State) (l : Nat) (f : Launch → Launch) : (s.modLaunch l f).graphs = s.graphs := rfl
@[simp] theorem State.modLaunch_horizonMsgs (s : State) (l : Nat) (f : Launch → Launch) : (s.modLaunch l f).horizonMsgs = s.horizonMsgs := rfl
@[simp] theorem State.modLaunch_bar (s : State) (l : Nat) (f : Launch → Launch) : (s.modLaunch l f).bar = s.bar := rfl
@[simp] theorem State.modLaunch_netin (s : State) (l : Nat) (f : Launch → Launch) : (s.modLaunch l f).netin = s.netin := rfl
@[simp] theorem State.modLaunch_flash (s : State) (l : Nat) (f : Launch → Launch) : (s.modLaunch l f).flash = s.flash := rfl
@[simp] theorem State.modLaunch_restripes (s : State) (l : Nat) (f : Launch → Launch) : (s.modLaunch l f).restripes = s.restripes := rfl
@[simp] theorem State.modLaunch_badBanks (s : State) (l : Nat) (f : Launch → Launch) : (s.modLaunch l f).badBanks = s.badBanks := rfl
@[simp] theorem State.modLaunch_clearing (s : State) (l : Nat) (f : Launch → Launch) : (s.modLaunch l f).clearing = s.clearing := rfl
@[simp] theorem State.modLaunch_scrubbed (s : State) (l : Nat) (f : Launch → Launch) : (s.modLaunch l f).scrubbed = s.scrubbed := rfl
@[simp] theorem State.modLaunch_boot (s : State) (l : Nat) (f : Launch → Launch) : (s.modLaunch l f).boot = s.boot := rfl
@[simp] theorem State.modLaunch_monitor (s : State) (l : Nat) (f : Launch → Launch) : (s.modLaunch l f).monitor = s.monitor := rfl
@[simp] theorem State.modLaunch_mailbox (s : State) (l : Nat) (f : Launch → Launch) : (s.modLaunch l f).mailbox = s.mailbox := rfl
@[simp] theorem State.modLaunch_mailWaiting (s : State) (l : Nat) (f : Launch → Launch) : (s.modLaunch l f).mailWaiting = s.mailWaiting := rfl
@[simp] theorem State.modLaunch_spdm (s : State) (l : Nat) (f : Launch → Launch) : (s.modLaunch l f).spdm = s.spdm := rfl
@[simp] theorem State.modLaunch_hostReads (s : State) (l : Nat) (f : Launch → Launch) : (s.modLaunch l f).hostReads = s.hostReads := rfl

/-! ### `modContext` -/

@[simp] theorem State.modContext_focus (s : State) (c : Nat) (f : Context → Context) : (s.modContext c f).focus = s.focus := rfl
@[simp] theorem State.modContext_agenda (s : State) (c : Nat) (f : Context → Context) : (s.modContext c f).agenda = s.agenda := rfl
@[simp] theorem State.modContext_sched (s : State) (c : Nat) (f : Context → Context) : (s.modContext c f).sched = s.sched := rfl
@[simp] theorem State.modContext_free (s : State) (c : Nat) (f : Context → Context) : (s.modContext c f).free = s.free := rfl
@[simp] theorem State.modContext_nextUid (s : State) (c : Nat) (f : Context → Context) : (s.modContext c f).nextUid = s.nextUid := rfl
@[simp] theorem State.modContext_mem (s : State) (c : Nat) (f : Context → Context) : (s.modContext c f).mem = s.mem := rfl
@[simp] theorem State.modContext_writes (s : State) (c : Nat) (f : Context → Context) : (s.modContext c f).writes = s.writes := rfl
@[simp] theorem State.modContext_poison (s : State) (c : Nat) (f : Context → Context) : (s.modContext c f).poison = s.poison := rfl
@[simp] theorem State.modContext_releases (s : State) (c : Nat) (f : Context → Context) : (s.modContext c f).releases = s.releases := rfl
@[simp] theorem State.modContext_pairLines (s : State) (c : Nat) (f : Context → Context) : (s.modContext c f).pairLines = s.pairLines := rfl
@[simp] theorem State.modContext_tracked (s : State) (c : Nat) (f : Context → Context) : (s.modContext c f).tracked = s.tracked := rfl
@[simp] theorem State.modContext_capWaiters (s : State) (c : Nat) (f : Context → Context) : (s.modContext c f).capWaiters = s.capWaiters := rfl
@[simp] theorem State.modContext_cores (s : State) (c : Nat) (f : Context → Context) : (s.modContext c f).cores = s.cores := rfl
@[simp] theorem State.modContext_caravans (s : State) (c : Nat) (f : Context → Context) : (s.modContext c f).caravans = s.caravans := rfl
@[simp] theorem State.modContext_blocks (s : State) (c : Nat) (f : Context → Context) : (s.modContext c f).blocks = s.blocks := rfl
@[simp] theorem State.modContext_launches (s : State) (c : Nat) (f : Context → Context) : (s.modContext c f).launches = s.launches := rfl
@[simp] theorem State.modContext_saved (s : State) (c : Nat) (f : Context → Context) : (s.modContext c f).saved = s.saved := rfl
@[simp] theorem State.modContext_dies (s : State) (c : Nat) (f : Context → Context) : (s.modContext c f).dies = s.dies := rfl
@[simp] theorem State.modContext_contexts (s : State) (c : Nat) (f : Context → Context) : (s.modContext c f).contexts = Tab.modify s.contexts c f := rfl
@[simp] theorem State.modContext_queues (s : State) (c : Nat) (f : Context → Context) : (s.modContext c f).queues = s.queues := rfl
@[simp] theorem State.modContext_commands (s : State) (c : Nat) (f : Context → Context) : (s.modContext c f).commands = s.commands := rfl
@[simp] theorem State.modContext_graphs (s : State) (c : Nat) (f : Context → Context) : (s.modContext c f).graphs = s.graphs := rfl
@[simp] theorem State.modContext_horizonMsgs (s : State) (c : Nat) (f : Context → Context) : (s.modContext c f).horizonMsgs = s.horizonMsgs := rfl
@[simp] theorem State.modContext_bar (s : State) (c : Nat) (f : Context → Context) : (s.modContext c f).bar = s.bar := rfl
@[simp] theorem State.modContext_netin (s : State) (c : Nat) (f : Context → Context) : (s.modContext c f).netin = s.netin := rfl
@[simp] theorem State.modContext_flash (s : State) (c : Nat) (f : Context → Context) : (s.modContext c f).flash = s.flash := rfl
@[simp] theorem State.modContext_restripes (s : State) (c : Nat) (f : Context → Context) : (s.modContext c f).restripes = s.restripes := rfl
@[simp] theorem State.modContext_badBanks (s : State) (c : Nat) (f : Context → Context) : (s.modContext c f).badBanks = s.badBanks := rfl
@[simp] theorem State.modContext_clearing (s : State) (c : Nat) (f : Context → Context) : (s.modContext c f).clearing = s.clearing := rfl
@[simp] theorem State.modContext_scrubbed (s : State) (c : Nat) (f : Context → Context) : (s.modContext c f).scrubbed = s.scrubbed := rfl
@[simp] theorem State.modContext_boot (s : State) (c : Nat) (f : Context → Context) : (s.modContext c f).boot = s.boot := rfl
@[simp] theorem State.modContext_monitor (s : State) (c : Nat) (f : Context → Context) : (s.modContext c f).monitor = s.monitor := rfl
@[simp] theorem State.modContext_mailbox (s : State) (c : Nat) (f : Context → Context) : (s.modContext c f).mailbox = s.mailbox := rfl
@[simp] theorem State.modContext_mailWaiting (s : State) (c : Nat) (f : Context → Context) : (s.modContext c f).mailWaiting = s.mailWaiting := rfl
@[simp] theorem State.modContext_spdm (s : State) (c : Nat) (f : Context → Context) : (s.modContext c f).spdm = s.spdm := rfl
@[simp] theorem State.modContext_hostReads (s : State) (c : Nat) (f : Context → Context) : (s.modContext c f).hostReads = s.hostReads := rfl

/-! ### `modGraph` -/

@[simp] theorem State.modGraph_focus (s : State) (g : Nat) (f : GraphSlot → GraphSlot) : (s.modGraph g f).focus = s.focus := rfl
@[simp] theorem State.modGraph_agenda (s : State) (g : Nat) (f : GraphSlot → GraphSlot) : (s.modGraph g f).agenda = s.agenda := rfl
@[simp] theorem State.modGraph_sched (s : State) (g : Nat) (f : GraphSlot → GraphSlot) : (s.modGraph g f).sched = s.sched := rfl
@[simp] theorem State.modGraph_free (s : State) (g : Nat) (f : GraphSlot → GraphSlot) : (s.modGraph g f).free = s.free := rfl
@[simp] theorem State.modGraph_nextUid (s : State) (g : Nat) (f : GraphSlot → GraphSlot) : (s.modGraph g f).nextUid = s.nextUid := rfl
@[simp] theorem State.modGraph_mem (s : State) (g : Nat) (f : GraphSlot → GraphSlot) : (s.modGraph g f).mem = s.mem := rfl
@[simp] theorem State.modGraph_writes (s : State) (g : Nat) (f : GraphSlot → GraphSlot) : (s.modGraph g f).writes = s.writes := rfl
@[simp] theorem State.modGraph_poison (s : State) (g : Nat) (f : GraphSlot → GraphSlot) : (s.modGraph g f).poison = s.poison := rfl
@[simp] theorem State.modGraph_releases (s : State) (g : Nat) (f : GraphSlot → GraphSlot) : (s.modGraph g f).releases = s.releases := rfl
@[simp] theorem State.modGraph_pairLines (s : State) (g : Nat) (f : GraphSlot → GraphSlot) : (s.modGraph g f).pairLines = s.pairLines := rfl
@[simp] theorem State.modGraph_tracked (s : State) (g : Nat) (f : GraphSlot → GraphSlot) : (s.modGraph g f).tracked = s.tracked := rfl
@[simp] theorem State.modGraph_capWaiters (s : State) (g : Nat) (f : GraphSlot → GraphSlot) : (s.modGraph g f).capWaiters = s.capWaiters := rfl
@[simp] theorem State.modGraph_cores (s : State) (g : Nat) (f : GraphSlot → GraphSlot) : (s.modGraph g f).cores = s.cores := rfl
@[simp] theorem State.modGraph_caravans (s : State) (g : Nat) (f : GraphSlot → GraphSlot) : (s.modGraph g f).caravans = s.caravans := rfl
@[simp] theorem State.modGraph_blocks (s : State) (g : Nat) (f : GraphSlot → GraphSlot) : (s.modGraph g f).blocks = s.blocks := rfl
@[simp] theorem State.modGraph_launches (s : State) (g : Nat) (f : GraphSlot → GraphSlot) : (s.modGraph g f).launches = s.launches := rfl
@[simp] theorem State.modGraph_saved (s : State) (g : Nat) (f : GraphSlot → GraphSlot) : (s.modGraph g f).saved = s.saved := rfl
@[simp] theorem State.modGraph_dies (s : State) (g : Nat) (f : GraphSlot → GraphSlot) : (s.modGraph g f).dies = s.dies := rfl
@[simp] theorem State.modGraph_contexts (s : State) (g : Nat) (f : GraphSlot → GraphSlot) : (s.modGraph g f).contexts = s.contexts := rfl
@[simp] theorem State.modGraph_queues (s : State) (g : Nat) (f : GraphSlot → GraphSlot) : (s.modGraph g f).queues = s.queues := rfl
@[simp] theorem State.modGraph_commands (s : State) (g : Nat) (f : GraphSlot → GraphSlot) : (s.modGraph g f).commands = s.commands := rfl
@[simp] theorem State.modGraph_graphs (s : State) (g : Nat) (f : GraphSlot → GraphSlot) : (s.modGraph g f).graphs = Tab.modify s.graphs g f := rfl
@[simp] theorem State.modGraph_horizonMsgs (s : State) (g : Nat) (f : GraphSlot → GraphSlot) : (s.modGraph g f).horizonMsgs = s.horizonMsgs := rfl
@[simp] theorem State.modGraph_bar (s : State) (g : Nat) (f : GraphSlot → GraphSlot) : (s.modGraph g f).bar = s.bar := rfl
@[simp] theorem State.modGraph_netin (s : State) (g : Nat) (f : GraphSlot → GraphSlot) : (s.modGraph g f).netin = s.netin := rfl
@[simp] theorem State.modGraph_flash (s : State) (g : Nat) (f : GraphSlot → GraphSlot) : (s.modGraph g f).flash = s.flash := rfl
@[simp] theorem State.modGraph_restripes (s : State) (g : Nat) (f : GraphSlot → GraphSlot) : (s.modGraph g f).restripes = s.restripes := rfl
@[simp] theorem State.modGraph_badBanks (s : State) (g : Nat) (f : GraphSlot → GraphSlot) : (s.modGraph g f).badBanks = s.badBanks := rfl
@[simp] theorem State.modGraph_clearing (s : State) (g : Nat) (f : GraphSlot → GraphSlot) : (s.modGraph g f).clearing = s.clearing := rfl
@[simp] theorem State.modGraph_scrubbed (s : State) (g : Nat) (f : GraphSlot → GraphSlot) : (s.modGraph g f).scrubbed = s.scrubbed := rfl
@[simp] theorem State.modGraph_boot (s : State) (g : Nat) (f : GraphSlot → GraphSlot) : (s.modGraph g f).boot = s.boot := rfl
@[simp] theorem State.modGraph_monitor (s : State) (g : Nat) (f : GraphSlot → GraphSlot) : (s.modGraph g f).monitor = s.monitor := rfl
@[simp] theorem State.modGraph_mailbox (s : State) (g : Nat) (f : GraphSlot → GraphSlot) : (s.modGraph g f).mailbox = s.mailbox := rfl
@[simp] theorem State.modGraph_mailWaiting (s : State) (g : Nat) (f : GraphSlot → GraphSlot) : (s.modGraph g f).mailWaiting = s.mailWaiting := rfl
@[simp] theorem State.modGraph_spdm (s : State) (g : Nat) (f : GraphSlot → GraphSlot) : (s.modGraph g f).spdm = s.spdm := rfl
@[simp] theorem State.modGraph_hostReads (s : State) (g : Nat) (f : GraphSlot → GraphSlot) : (s.modGraph g f).hostReads = s.hostReads := rfl

/-! ### `modNetin` -/

@[simp] theorem State.modNetin_focus (s : State) (f : Netin → Netin) : (s.modNetin f).focus = s.focus := rfl
@[simp] theorem State.modNetin_agenda (s : State) (f : Netin → Netin) : (s.modNetin f).agenda = s.agenda := rfl
@[simp] theorem State.modNetin_sched (s : State) (f : Netin → Netin) : (s.modNetin f).sched = s.sched := rfl
@[simp] theorem State.modNetin_free (s : State) (f : Netin → Netin) : (s.modNetin f).free = s.free := rfl
@[simp] theorem State.modNetin_nextUid (s : State) (f : Netin → Netin) : (s.modNetin f).nextUid = s.nextUid := rfl
@[simp] theorem State.modNetin_mem (s : State) (f : Netin → Netin) : (s.modNetin f).mem = s.mem := rfl
@[simp] theorem State.modNetin_writes (s : State) (f : Netin → Netin) : (s.modNetin f).writes = s.writes := rfl
@[simp] theorem State.modNetin_poison (s : State) (f : Netin → Netin) : (s.modNetin f).poison = s.poison := rfl
@[simp] theorem State.modNetin_releases (s : State) (f : Netin → Netin) : (s.modNetin f).releases = s.releases := rfl
@[simp] theorem State.modNetin_pairLines (s : State) (f : Netin → Netin) : (s.modNetin f).pairLines = s.pairLines := rfl
@[simp] theorem State.modNetin_tracked (s : State) (f : Netin → Netin) : (s.modNetin f).tracked = s.tracked := rfl
@[simp] theorem State.modNetin_capWaiters (s : State) (f : Netin → Netin) : (s.modNetin f).capWaiters = s.capWaiters := rfl
@[simp] theorem State.modNetin_cores (s : State) (f : Netin → Netin) : (s.modNetin f).cores = s.cores := rfl
@[simp] theorem State.modNetin_caravans (s : State) (f : Netin → Netin) : (s.modNetin f).caravans = s.caravans := rfl
@[simp] theorem State.modNetin_blocks (s : State) (f : Netin → Netin) : (s.modNetin f).blocks = s.blocks := rfl
@[simp] theorem State.modNetin_launches (s : State) (f : Netin → Netin) : (s.modNetin f).launches = s.launches := rfl
@[simp] theorem State.modNetin_saved (s : State) (f : Netin → Netin) : (s.modNetin f).saved = s.saved := rfl
@[simp] theorem State.modNetin_dies (s : State) (f : Netin → Netin) : (s.modNetin f).dies = s.dies := rfl
@[simp] theorem State.modNetin_contexts (s : State) (f : Netin → Netin) : (s.modNetin f).contexts = s.contexts := rfl
@[simp] theorem State.modNetin_queues (s : State) (f : Netin → Netin) : (s.modNetin f).queues = s.queues := rfl
@[simp] theorem State.modNetin_commands (s : State) (f : Netin → Netin) : (s.modNetin f).commands = s.commands := rfl
@[simp] theorem State.modNetin_graphs (s : State) (f : Netin → Netin) : (s.modNetin f).graphs = s.graphs := rfl
@[simp] theorem State.modNetin_horizonMsgs (s : State) (f : Netin → Netin) : (s.modNetin f).horizonMsgs = s.horizonMsgs := rfl
@[simp] theorem State.modNetin_bar (s : State) (f : Netin → Netin) : (s.modNetin f).bar = s.bar := rfl
@[simp] theorem State.modNetin_netin (s : State) (f : Netin → Netin) : (s.modNetin f).netin = f s.netin := rfl
@[simp] theorem State.modNetin_flash (s : State) (f : Netin → Netin) : (s.modNetin f).flash = s.flash := rfl
@[simp] theorem State.modNetin_restripes (s : State) (f : Netin → Netin) : (s.modNetin f).restripes = s.restripes := rfl
@[simp] theorem State.modNetin_badBanks (s : State) (f : Netin → Netin) : (s.modNetin f).badBanks = s.badBanks := rfl
@[simp] theorem State.modNetin_clearing (s : State) (f : Netin → Netin) : (s.modNetin f).clearing = s.clearing := rfl
@[simp] theorem State.modNetin_scrubbed (s : State) (f : Netin → Netin) : (s.modNetin f).scrubbed = s.scrubbed := rfl
@[simp] theorem State.modNetin_boot (s : State) (f : Netin → Netin) : (s.modNetin f).boot = s.boot := rfl
@[simp] theorem State.modNetin_monitor (s : State) (f : Netin → Netin) : (s.modNetin f).monitor = s.monitor := rfl
@[simp] theorem State.modNetin_mailbox (s : State) (f : Netin → Netin) : (s.modNetin f).mailbox = s.mailbox := rfl
@[simp] theorem State.modNetin_mailWaiting (s : State) (f : Netin → Netin) : (s.modNetin f).mailWaiting = s.mailWaiting := rfl
@[simp] theorem State.modNetin_spdm (s : State) (f : Netin → Netin) : (s.modNetin f).spdm = s.spdm := rfl
@[simp] theorem State.modNetin_hostReads (s : State) (f : Netin → Netin) : (s.modNetin f).hostReads = s.hostReads := rfl

/-! ### `dropReads` -/

@[simp] theorem State.dropReads_focus (s : State) (k p : Nat) : (s.dropReads k p).focus = s.focus := rfl
@[simp] theorem State.dropReads_agenda (s : State) (k p : Nat) : (s.dropReads k p).agenda = s.agenda := rfl
@[simp] theorem State.dropReads_sched (s : State) (k p : Nat) : (s.dropReads k p).sched = s.sched := rfl
@[simp] theorem State.dropReads_free (s : State) (k p : Nat) : (s.dropReads k p).free = s.free := rfl
@[simp] theorem State.dropReads_nextUid (s : State) (k p : Nat) : (s.dropReads k p).nextUid = s.nextUid := rfl
@[simp] theorem State.dropReads_mem (s : State) (k p : Nat) : (s.dropReads k p).mem = s.mem := rfl
@[simp] theorem State.dropReads_writes (s : State) (k p : Nat) : (s.dropReads k p).writes = s.writes := rfl
@[simp] theorem State.dropReads_poison (s : State) (k p : Nat) : (s.dropReads k p).poison = s.poison := rfl
@[simp] theorem State.dropReads_releases (s : State) (k p : Nat) : (s.dropReads k p).releases = s.releases := rfl
@[simp] theorem State.dropReads_pairLines (s : State) (k p : Nat) : (s.dropReads k p).pairLines = s.pairLines := rfl
@[simp] theorem State.dropReads_tracked (s : State) (k p : Nat) : (s.dropReads k p).tracked = s.tracked := rfl
@[simp] theorem State.dropReads_capWaiters (s : State) (k p : Nat) : (s.dropReads k p).capWaiters = s.capWaiters := rfl
@[simp] theorem State.dropReads_cores (s : State) (k p : Nat) : (s.dropReads k p).cores = s.cores := rfl
@[simp] theorem State.dropReads_caravans (s : State) (k p : Nat) : (s.dropReads k p).caravans = s.caravans := rfl
@[simp] theorem State.dropReads_blocks (s : State) (k p : Nat) : (s.dropReads k p).blocks = s.blocks := rfl
@[simp] theorem State.dropReads_launches (s : State) (k p : Nat) : (s.dropReads k p).launches = s.launches := rfl
@[simp] theorem State.dropReads_saved (s : State) (k p : Nat) : (s.dropReads k p).saved = s.saved := rfl
@[simp] theorem State.dropReads_dies (s : State) (k p : Nat) : (s.dropReads k p).dies = s.dies := rfl
@[simp] theorem State.dropReads_contexts (s : State) (k p : Nat) : (s.dropReads k p).contexts = s.contexts := rfl
@[simp] theorem State.dropReads_queues (s : State) (k p : Nat) : (s.dropReads k p).queues = s.queues := rfl
@[simp] theorem State.dropReads_commands (s : State) (k p : Nat) : (s.dropReads k p).commands = s.commands := rfl
@[simp] theorem State.dropReads_graphs (s : State) (k p : Nat) : (s.dropReads k p).graphs = s.graphs := rfl
@[simp] theorem State.dropReads_horizonMsgs (s : State) (k p : Nat) : (s.dropReads k p).horizonMsgs = s.horizonMsgs := rfl
@[simp] theorem State.dropReads_bar (s : State) (k p : Nat) : (s.dropReads k p).bar = s.bar := rfl
@[simp] theorem State.dropReads_flash (s : State) (k p : Nat) : (s.dropReads k p).flash = s.flash := rfl
@[simp] theorem State.dropReads_restripes (s : State) (k p : Nat) : (s.dropReads k p).restripes = s.restripes := rfl
@[simp] theorem State.dropReads_badBanks (s : State) (k p : Nat) : (s.dropReads k p).badBanks = s.badBanks := rfl
@[simp] theorem State.dropReads_clearing (s : State) (k p : Nat) : (s.dropReads k p).clearing = s.clearing := rfl
@[simp] theorem State.dropReads_scrubbed (s : State) (k p : Nat) : (s.dropReads k p).scrubbed = s.scrubbed := rfl
@[simp] theorem State.dropReads_boot (s : State) (k p : Nat) : (s.dropReads k p).boot = s.boot := rfl
@[simp] theorem State.dropReads_monitor (s : State) (k p : Nat) : (s.dropReads k p).monitor = s.monitor := rfl
@[simp] theorem State.dropReads_mailbox (s : State) (k p : Nat) : (s.dropReads k p).mailbox = s.mailbox := rfl
@[simp] theorem State.dropReads_mailWaiting (s : State) (k p : Nat) : (s.dropReads k p).mailWaiting = s.mailWaiting := rfl
@[simp] theorem State.dropReads_spdm (s : State) (k p : Nat) : (s.dropReads k p).spdm = s.spdm := rfl
@[simp] theorem State.dropReads_hostReads (s : State) (k p : Nat) : (s.dropReads k p).hostReads = s.hostReads := rfl

/-! ### `homeStore` -/

@[simp] theorem State.homeStore_focus (s : State) (a : Nat) (bs : List Byte) (b : Bool) : (s.homeStore a bs b).focus = s.focus := rfl
@[simp] theorem State.homeStore_agenda (s : State) (a : Nat) (bs : List Byte) (b : Bool) : (s.homeStore a bs b).agenda = s.agenda := rfl
@[simp] theorem State.homeStore_sched (s : State) (a : Nat) (bs : List Byte) (b : Bool) : (s.homeStore a bs b).sched = s.sched := rfl
@[simp] theorem State.homeStore_free (s : State) (a : Nat) (bs : List Byte) (b : Bool) : (s.homeStore a bs b).free = s.free := rfl
@[simp] theorem State.homeStore_nextUid (s : State) (a : Nat) (bs : List Byte) (b : Bool) : (s.homeStore a bs b).nextUid = s.nextUid := rfl
@[simp] theorem State.homeStore_mem (s : State) (a : Nat) (bs : List Byte) (b : Bool) : (s.homeStore a bs b).mem = s.mem := rfl
@[simp] theorem State.homeStore_writes (s : State) (a : Nat) (bs : List Byte) (b : Bool) : (s.homeStore a bs b).writes = if a < hbmBytes then byteWrites a bs s.writes else s.writes := rfl
@[simp] theorem State.homeStore_poison (s : State) (a : Nat) (bs : List Byte) (b : Bool) : (s.homeStore a bs b).poison = clearPoison s.poison a bs.length := rfl
@[simp] theorem State.homeStore_releases (s : State) (a : Nat) (bs : List Byte) (b : Bool) : (s.homeStore a bs b).releases = if b then dropReleases s.releases a bs.length else s.releases := rfl
@[simp] theorem State.homeStore_pairLines (s : State) (a : Nat) (bs : List Byte) (b : Bool) : (s.homeStore a bs b).pairLines = s.pairLines := rfl
@[simp] theorem State.homeStore_tracked (s : State) (a : Nat) (bs : List Byte) (b : Bool) : (s.homeStore a bs b).tracked = s.tracked := rfl
@[simp] theorem State.homeStore_capWaiters (s : State) (a : Nat) (bs : List Byte) (b : Bool) : (s.homeStore a bs b).capWaiters = s.capWaiters := rfl
@[simp] theorem State.homeStore_cores (s : State) (a : Nat) (bs : List Byte) (b : Bool) : (s.homeStore a bs b).cores = s.cores := rfl
@[simp] theorem State.homeStore_caravans (s : State) (a : Nat) (bs : List Byte) (b : Bool) : (s.homeStore a bs b).caravans = s.caravans := rfl
@[simp] theorem State.homeStore_blocks (s : State) (a : Nat) (bs : List Byte) (b : Bool) : (s.homeStore a bs b).blocks = s.blocks := rfl
@[simp] theorem State.homeStore_launches (s : State) (a : Nat) (bs : List Byte) (b : Bool) : (s.homeStore a bs b).launches = spoil s.launches a bs.length := rfl
@[simp] theorem State.homeStore_saved (s : State) (a : Nat) (bs : List Byte) (b : Bool) : (s.homeStore a bs b).saved = s.saved := rfl
@[simp] theorem State.homeStore_dies (s : State) (a : Nat) (bs : List Byte) (b : Bool) : (s.homeStore a bs b).dies = s.dies := rfl
@[simp] theorem State.homeStore_contexts (s : State) (a : Nat) (bs : List Byte) (b : Bool) : (s.homeStore a bs b).contexts = s.contexts := rfl
@[simp] theorem State.homeStore_queues (s : State) (a : Nat) (bs : List Byte) (b : Bool) : (s.homeStore a bs b).queues = s.queues := rfl
@[simp] theorem State.homeStore_commands (s : State) (a : Nat) (bs : List Byte) (b : Bool) : (s.homeStore a bs b).commands = s.commands := rfl
@[simp] theorem State.homeStore_graphs (s : State) (a : Nat) (bs : List Byte) (b : Bool) : (s.homeStore a bs b).graphs = s.graphs := rfl
@[simp] theorem State.homeStore_horizonMsgs (s : State) (a : Nat) (bs : List Byte) (b : Bool) : (s.homeStore a bs b).horizonMsgs = s.horizonMsgs := rfl
@[simp] theorem State.homeStore_bar (s : State) (a : Nat) (bs : List Byte) (b : Bool) : (s.homeStore a bs b).bar = s.bar := rfl
@[simp] theorem State.homeStore_netin (s : State) (a : Nat) (bs : List Byte) (b : Bool) : (s.homeStore a bs b).netin = s.netin := rfl
@[simp] theorem State.homeStore_flash (s : State) (a : Nat) (bs : List Byte) (b : Bool) : (s.homeStore a bs b).flash = s.flash := rfl
@[simp] theorem State.homeStore_restripes (s : State) (a : Nat) (bs : List Byte) (b : Bool) : (s.homeStore a bs b).restripes = s.restripes := rfl
@[simp] theorem State.homeStore_badBanks (s : State) (a : Nat) (bs : List Byte) (b : Bool) : (s.homeStore a bs b).badBanks = s.badBanks := rfl
@[simp] theorem State.homeStore_clearing (s : State) (a : Nat) (bs : List Byte) (b : Bool) : (s.homeStore a bs b).clearing = s.clearing := rfl
@[simp] theorem State.homeStore_scrubbed (s : State) (a : Nat) (bs : List Byte) (b : Bool) : (s.homeStore a bs b).scrubbed = s.scrubbed := rfl
@[simp] theorem State.homeStore_boot (s : State) (a : Nat) (bs : List Byte) (b : Bool) : (s.homeStore a bs b).boot = s.boot := rfl
@[simp] theorem State.homeStore_monitor (s : State) (a : Nat) (bs : List Byte) (b : Bool) : (s.homeStore a bs b).monitor = s.monitor := rfl
@[simp] theorem State.homeStore_mailbox (s : State) (a : Nat) (bs : List Byte) (b : Bool) : (s.homeStore a bs b).mailbox = s.mailbox := rfl
@[simp] theorem State.homeStore_mailWaiting (s : State) (a : Nat) (bs : List Byte) (b : Bool) : (s.homeStore a bs b).mailWaiting = s.mailWaiting := rfl
@[simp] theorem State.homeStore_spdm (s : State) (a : Nat) (bs : List Byte) (b : Bool) : (s.homeStore a bs b).spdm = s.spdm := rfl
@[simp] theorem State.homeStore_hostReads (s : State) (a : Nat) (bs : List Byte) (b : Bool) : (s.homeStore a bs b).hostReads = s.hostReads := rfl

end Sys2Proof.Machine
end

