-- ==== Sys2Proof/Laws/Scalar.lean ====
section
/-!
SUPPORT. What a scalar instruction of the path in focus comes to: one law for the wrapper, one for each shape.
-/

namespace Sys2Proof.Machine

/-- What the path in focus is. -/
theorem State.me?_spec {s : State} {m : Me} (h : s.me? = some m) :
    s.focus = .path m.core m.slot m.p ∧ m.key = carKey m.core m.slot ∧ s.caravan? m.key = some m.car
      ∧ Tab.get? m.car.paths m.p = some m.path ∧ Tab.get? s.blocks m.car.block = some m.blk := by
  unfold State.me? at h
  split at h
  · rename_i core slot p hf
    split at h
    · simp at h
    · rename_i c hc
      split at h
      · rename_i x b hx hb
        simp only [Option.some.injEq] at h
        subst h
        exact ⟨hf, rfl, hc, hx, hb⟩
      · simp at h
  · simp at h

/-- The path in focus, read. -/
theorem me_run {s : State} {m : Me} (h : s.me? = some m) : me s = .ok m s := by
  unfold me
  simp only [bind, EStateM.bind, get, getThe, MonadStateOf.get, EStateM.get, h]
  rfl

/-- A scalar register, read. -/
theorem reg_run {s : State} {m : Me} (h : s.me? = some m) (n : BitVec 6) : reg n s = .ok (m.reg n.toNat) s := by
  simp only [reg, bind, EStateM.bind, me_run h]
  rfl

/-- A scalar register, written. -/
theorem setReg_run {s : State} {m : Me} (h : s.me? = some m) (d : BitVec 6) (v : Word) :
    setReg d v s = .ok () (s.setCaravan m.key (m.written d v)) := by
  have hc := (State.me?_spec h).2.2.1
  simp only [setReg, setRegNat, bind, EStateM.bind, me_run h, Me.written]
  split <;>
    (simp only [modCar, bind, EStateM.bind, me_run h, update, modify, modifyGet, MonadStateOf.modifyGet,
      EStateM.modifyGet, State.modCaravan, State.setCaravan, Tab.modify_of _ hc])

/-- The wrapper of a scalar instruction that runs: what is left is its own checks and its effect. -/
theorem scalarOp_runs {s : State} {m : Me} {i : Instr} (h : s.Runs m i) (illegal : Act Unit) (effect : Act Flow) :
    scalarOp i illegal effect s =
      scalarResult i s m (match illegal s with
        | .ok _ t => effect t
        | .error e t => .error e t) := by
  obtain ⟨hp, hh, hs, hn, hg, hl, hhand, hbody⟩ := h
  have hH : checkHandler m (ruleOf i) = pure () := by
    unfold checkHandler
    unfold Me.handlerAllows at hhand
    split
    · rfl
    · rename_i hd hx
      rw [hx] at hhand
      simp only at hhand
      simp only [check]
      rw [if_pos]
      exact hhand
  have hB : checkCapsule i m (ruleOf i) = pure () := by
    unfold checkCapsule
    unfold Me.bodyAllows at hbody
    split
    · rfl
    · rename_i c hx
      rw [hx] at hbody
      simp only [Bool.and_eq_true, decide_eq_true_eq] at hbody
      obtain ⟨⟨⟨h1, h2⟩, h3⟩, h4⟩ := hbody
      simp only [check]
      rw [if_pos (by simpa using h1), if_pos (by simpa using h2), if_pos h3, if_pos h4]
      rfl
  unfold scalarOp
  simp only [hp, hh, hs, hn, hg, hl, hH, hB, Option.isSome_none, Bool.or_self, Bool.false_eq_true, if_false]
  congr 1
  show (EStateM.bind _ _) s = _
  simp only [bind, EStateM.bind, pure, EStateM.pure]
  cases illegal s <;> rfl

/-- An instruction that changed only its caravan and its path, retired. -/
theorem retire_after {s : State} {m : Me} (i : Instr) (c : Caravan) (x : Path) (target : Word)
    (hx : Tab.get? c.paths m.p = some x) (hh : x.handler = m.path.handler) :
    (s.setCaravan m.key c).retire m i target =
      s.after m i c { x with spc := target, stall := none, token := none, awaiting := none, matchDone := false,
                             handler := m.path.handler.map (fun h => { h with count := h.count + 1 }) } := by
  have hb : (m.path.handler.isSome && x.handler.isNone) = false := by
    rw [hh]
    cases m.path.handler <;> rfl
  unfold State.retire State.after State.setCaravan
  simp only [State.modCaravan, State.modPath, State.dropReads, State.modNetin]
  rw [Tab.modify_of _ (Tab.get?_set_self _ _ _), Tab.set_set, Tab.modify_of _ (Tab.get?_set_self _ _ _), Tab.set_set,
    Tab.modify_of _ hx, hb]
  simp only [Me.counted, hh]

/-- An instruction that writes one register. -/
theorem writes_exec {s : State} {m : Me} {i : Instr} {d : BitVec 6} {v : Act Word} {w : Word} (h : s.Runs m i)
    (hv : v s = .ok w s) : scalarOp i (pure ()) (writes d v) s = .next (s.after m i (m.written d w) m.next) := by
  have hp := h.path
  have hx := (State.me?_spec hp).2.2.2.1
  have hw : Tab.get? (m.written d w).paths m.p = some m.path := by
    unfold Me.written Caravan.setSreg
    split
    · exact hx
    · split <;> exact hx
  rw [scalarOp_runs h]
  simp only [pure, EStateM.pure, writes, bind, EStateM.bind, hv, setReg_run hp, scalarResult]
  rw [retire_after i _ m.path _ hw rfl]
  rfl

/-- An instruction that writes a function of two registers. -/
theorem regOp_exec {s : State} {m : Me} {i : Instr} {d a b : BitVec 6} (h : s.Runs m i) (f : Word → Word → Word) :
    regOp i d a b f s = .next (s.after m i (m.written d (f (m.reg a.toNat) (m.reg b.toNat))) m.next) := by
  unfold regOp
  apply writes_exec h
  simp only [bind, EStateM.bind, reg_run h.path, pure, EStateM.pure]

/-- An instruction that writes a function of one register. -/
theorem regImm_exec {s : State} {m : Me} {i : Instr} {d a : BitVec 6} (h : s.Runs m i) (f : Word → Word) :
    regImm i d a f s = .next (s.after m i (m.written d (f (m.reg a.toNat))) m.next) := by
  unfold regImm
  apply writes_exec h
  simp only [bind, EStateM.bind, reg_run h.path, pure, EStateM.pure]

/-- An instruction that writes a function of its old destination and two registers. -/
theorem regOld_exec {s : State} {m : Me} {i : Instr} {d a b : BitVec 6} (h : s.Runs m i) (f : Word → Word → Word → Word) :
    regOld i d a b f s =
      .next (s.after m i (m.written d (f (m.reg d.toNat) (m.reg a.toNat) (m.reg b.toNat))) m.next) := by
  unfold regOld
  apply writes_exec h
  simp only [bind, EStateM.bind, reg_run h.path, pure, EStateM.pure]


/-! ### How an instruction ends -/

/-- An instruction whose own checks pass and whose effect goes on in sequence. -/
theorem scalar_completes {s u : State} {m : Me} {i : Instr} {illegal : Act Unit} {effect : Act Flow} (h : s.Runs m i)
    (hi : illegal s = .ok () s) (he : effect s = .ok .seq u) :
    scalarOp i illegal effect s = .next (u.retire m i (m.path.spc + 4)) := by
  rw [scalarOp_runs h]
  simp only [hi, he, scalarResult]

/-- An instruction whose own checks pass and whose effect goes on elsewhere. -/
theorem scalar_jumps {s u : State} {m : Me} {i : Instr} {illegal : Act Unit} {effect : Act Flow} {target : Word}
    (h : s.Runs m i) (hi : illegal s = .ok () s) (he : effect s = .ok (.jump target) u) :
    scalarOp i illegal effect s = .next (u.retire m i target) := by
  rw [scalarOp_runs h]
  simp only [hi, he, scalarResult]

/-- An instruction whose own checks pass and which leaves its path where its effect put it. -/
theorem scalar_stays {s u : State} {m : Me} {i : Instr} {illegal : Act Unit} {effect : Act Flow} (h : s.Runs m i)
    (hi : illegal s = .ok () s) (he : effect s = .ok .stay u) : scalarOp i illegal effect s = .next u := by
  rw [scalarOp_runs h]
  simp only [hi, he, scalarResult]

/-- An instruction whose effect raises a fault. -/
theorem scalar_traps {s u : State} {m : Me} {i : Instr} {illegal : Act Unit} {effect : Act Flow} {code cause : Nat}
    {addr : Word} (h : s.Runs m i) (hi : illegal s = .ok () s) (he : effect s = .error (.trap code cause addr) u) :
    scalarOp i illegal effect s = .next ((s.keep u m).raiseTrap m.key m.p (m.trapIn u code cause addr)) := by
  rw [scalarOp_runs h]
  simp only [hi, he, scalarResult]

/-- A fault of an instruction that has taken out no pending fault and no outcome ends none of them (R173, R206). -/
theorem trapIn_same {m : Me} {u : State} {code cause : Nat} {addr : Word} {c : Caravan} (hc : u.caravan? m.key = some c)
    (hf : c.engineFaults = m.car.engineFaults) (ho : c.matrixOutcomes = m.car.matrixOutcomes) :
    m.trapIn u code cause addr = m.trap code cause addr := by
  unfold Me.trapIn
  simp [hc, hf, ho, Me.trap]

/-- An instruction whose effect waits. -/
theorem scalar_stalls {s u : State} {m : Me} {i : Instr} {illegal : Act Unit} {effect : Act Flow} {r : Stall}
    (h : s.Runs m i) (hi : illegal s = .ok () s) (he : effect s = .error (.stall r) u) :
    scalarOp i illegal effect s = .next (u.waits m r) := by
  rw [scalarOp_runs h]
  simp only [hi, he, scalarResult]

/-- A drained path goes on at once. -/
theorem drain_run {s : State} {m : Me} (h : s.me? = some m) (hd : m.path.drained = true) : drain s = .ok () s := by
  simp only [drain, bind, EStateM.bind, me_run h, hd, if_true, pure, EStateM.pure]

/-- A path that has not drained waits. -/
theorem drain_stalls {s : State} {m : Me} (h : s.me? = some m) (hd : m.path.drained = false) :
    drain s = .error (.stall .data) s := by
  simp only [drain, bind, EStateM.bind, me_run h, hd, Bool.false_eq_true, if_false]
  rfl

/-- The path in focus, changed. -/
theorem modMyPath_run {s : State} {m : Me} (h : s.me? = some m) (f : Path → Path) :
    modMyPath f s = .ok () (s.modPath m.key m.p f) := by
  simp only [modMyPath, bind, EStateM.bind, me_run h]
  rfl

/-- The caravan in focus, changed. -/
theorem modCar_run {s : State} {m : Me} (h : s.me? = some m) (f : Caravan → Caravan) :
    modCar f s = .ok () (s.modCaravan m.key f) := by
  simp only [modCar, bind, EStateM.bind, me_run h]
  rfl

/-- A change of the caravan in focus leaves its path in focus. -/
theorem State.me?_setCaravan {s : State} {m : Me} (h : s.me? = some m) (c : Caravan) (x : Path)
    (hx : Tab.get? c.paths m.p = some x) (hb : c.block = m.car.block) :
    (s.setCaravan m.key c).me? = some { m with car := c, path := x } := by
  obtain ⟨h1, h2, h3, h4, h5⟩ := State.me?_spec h
  unfold State.me?
  have hf : (s.setCaravan m.key c).focus = .path m.core m.slot m.p := h1
  rw [hf]
  simp only [← h2]
  have : (s.setCaravan m.key c).caravan? m.key = some c := Tab.get?_set_self _ _ _
  rw [this]
  simp only [hx, hb, State.setCaravan_blocks, h5]

/-- The caravan in focus changed, as a caravan set. -/
theorem State.modCaravan_me {s : State} {m : Me} (h : s.me? = some m) (f : Caravan → Caravan) :
    s.modCaravan m.key f = s.setCaravan m.key (f m.car) := by
  have hc := (State.me?_spec h).2.2.1
  unfold State.modCaravan State.setCaravan
  rw [Tab.modify_of _ hc]

/-- The path in focus changed, as a caravan set. -/
theorem State.modPath_me {s : State} {m : Me} (h : s.me? = some m) (f : Path → Path) :
    s.modPath m.key m.p f = s.setCaravan m.key { m.car with paths := Tab.set m.car.paths m.p (f m.path) } := by
  unfold State.modPath
  rw [State.modCaravan_me h, Tab.modify_of _ (State.me?_spec h).2.2.2.1]

/-! ### Registers by number, conditions, and the state that a fault keeps -/

/-- A scalar register, written by its number. -/
theorem setRegNat_run {s : State} {m : Me} (h : s.me? = some m) (d : BitVec 6) (v : Word) :
    setRegNat d.toNat v s = .ok () (s.wrote m d v) := setReg_run h d v

/-- The condition codes of R91. -/
theorem condHolds_of {c : Nat} {x y : Word} {v : Bool} (h : holdsCode c x y = some v) : condHolds c x y = v := by
  unfold holdsCode at h
  split at h <;> simp only [Option.some.injEq, reduceCtorEq] at h <;> subst h <;>
    simp [condHolds, BitVec.slt, BitVec.sle, BitVec.ult, BitVec.ule, bne]
  all_goals (by_cases e : x = y <;> simp [e])

/-- A register written before a fault is not kept (R86). -/
theorem keep_wrote {s : State} {m : Me} (d : BitVec 6) (v : Word) :
    s.keep (s.wrote m d v) m = s.keep s m := by
  rfl

end Sys2Proof.Machine
end

