-- ==== Sys2Proof/Laws/Fetch.lean ====
section
/-!
SUPPORT. How a turn comes to its instruction: the step, and the fetch of a word of code (R74, R75).
-/

namespace Sys2Proof.Machine

/-- A step takes the turn at the head of the agenda, runs it and settles the writes. -/
theorem step_run {s : State} {t : Turn} {rest : List Turn} (h : s.agenda = t :: rest) :
    step s = settled s.mem (runTurn t { s with agenda := rest }) := by
  unfold step State.takeTurn
  rw [h]

/-- The bytes of code in one page, read. -/
theorem codePart_run {s : State} {m : Me} {va : Word} {n w : Nat} {t : Translation} (h : s.CodeAt m va n w t) :
    codePart t va n s = .ok (s.homeBytes (physical t va) n) s := by
  unfold codePart
  simp only [h.package, Option.isSome_none, Bool.false_eq_true, if_false]
  show EStateM.bind _ _ s = _
  simp only [get, getThe, MonadStateOf.get, EStateM.get, EStateM.bind, h.clean, Bool.false_eq_true, if_false, pure, EStateM.pure, bind]

/-- Bytes replaced by nothing are as they are. -/
theorem mapIdx_keep (bs : List Byte) (f : Nat → Option Byte) (h : ∀ i < bs.length, f i = none) :
    bs.mapIdx (fun i b => (f i).getD b) = bs := by
  apply List.ext_getElem
  · simp
  · intro i h1 h2
    simp [h i h2]

/-- The bytes of code at an address, read. -/
theorem codeBytes_run {s : State} {m : Me} {va : Word} {n w : Nat} {t : Translation} (h : s.CodeAt m va n w t) :
    codeBytes t none va n s = .ok (s.homeBytes (physical t va) n) s := by
  unfold codeBytes
  simp only [bind, EStateM.bind, codePart_run h]
  split
  · rfl
  · rename_i hn
    have hp := h.pushed.resolve_left hn
    simp only [get, getThe, MonadStateOf.get, pure, Option.getD_none, ite_self, h.package, Option.isSome_none,
      Bool.false_eq_true, if_false, Option.bind_some]
    show EStateM.Result.ok (List.mapIdx (fun i b => (s.unpushed (physical t (va + BitVec.ofNat 64 i))).getD b)
      (s.homeBytes (physical t va) n)) s = _
    rw [mapIdx_keep]
    intro i hi
    exact hp i (by simpa [State.homeBytes] using hi)

/-- The translation of code that the core has cached. -/
theorem translate_fetch {s : State} {m : Me} {va : Word} {n w : Nat} {t : Translation} (hm : s.me? = some m) (h : s.CodeAt m va n w t) :
    translate va .fetch s = .ok t s := by
  unfold translate lookup permit permission
  simp only [bind, EStateM.bind, me_run hm, h.canonical, not_true, if_false, get, getThe, MonadStateOf.get, EStateM.get, h.cached, Option.filter, h.mine, decide_true,
    if_true, pure, EStateM.pure, h.executable]

/-- A word of code that the cache does not hold is read from its home and kept. -/
theorem codeWord_miss {s : State} {m : Me} {va : Word} {n w : Nat} {t : Translation} (hm : s.me? = some m) (h : s.CodeAt m va n w t)
    (x : CodeCache) (hc : x.get (s.core m.core) (codeKey m t va) = none) :
    codeWord n va x s = .ok w (s.cachedWord m x (codeKey m t va) w) := by
  have hb : leNat (s.homeBytes (physical t va) n) = w := h.bytes
  have hn : n ≤ 65536 - va.toNat % 65536 := by have := h.whole; omega
  unfold codeWord
  unfold codeKey at *
  simp only [bind, EStateM.bind, me_run hm, translate_fetch hm h, hn, if_true, pure, EStateM.pure, recordAddress, h.package, Nat.zero_mul,
    Nat.zero_add, get, getThe, MonadStateOf.get, EStateM.get, hc, codeBytes_run h, hb]
  rfl

/-- A word of code that the cache holds is taken from it. -/
theorem codeWord_hit {s : State} {m : Me} {va : Word} {n w : Nat} {t : Translation} (hm : s.me? = some m) (h : s.CodeAt m va n w t)
    (x : CodeCache) (hc : x.get (s.core m.core) (codeKey m t va) = some w) :
    codeWord n va x s = .ok w s := by
  have hn : n ≤ 65536 - va.toNat % 65536 := by have := h.whole; omega
  unfold codeWord
  unfold codeKey at *
  simp only [bind, EStateM.bind, me_run hm, translate_fetch hm h, hn, if_true, pure, EStateM.pure, recordAddress, h.package, Nat.zero_mul,
    Nat.zero_add, get, getThe, MonadStateOf.get, EStateM.get, hc, h.bytes, keepsCached, Option.isSome_none, Bool.or_self, Bool.false_eq_true, if_false]

/-- A little-endian number is below its bound. -/
theorem leNat_lt {bs : List Byte} : leNat bs < 2 ^ (8 * bs.length) := by
  induction bs with
  | nil => simp [leNat]
  | cons b bs ih => 
    have := b.isLt
    simp only [leNat, List.length_cons]
    have e : 8 * (bs.length + 1) = 8 * bs.length + 8 := by omega
    rw [e, Nat.pow_add]
    omega

end Sys2Proof.Machine
end

