-- ==== Sys2Proof/Laws/Lane.lean ====
section
/-!
SUPPORT. What a lane word of the burst in focus comes to: one law for the record of its effects, one for the wrapper.
-/

namespace Sys2Proof.Machine

/-- The burst in focus, changed. -/
theorem modBurst_run {s : State} {m : Me} (h : s.me? = some m) (f : Burst → Burst) :
    modBurst f s = .ok () (s.modPath m.key m.p (fun x => { x with burst := x.burst.map f })) := modMyPath_run h _

/-- A path changed twice is changed once. -/
theorem State.modPath_modPath {s : State} {key p : Nat} (f g : Path → Path) :
    (s.modPath key p f).modPath key p g = s.modPath key p (fun x => g (f x)) := by
  unfold State.modPath State.modCaravan
  cases hc : Tab.get? s.caravans key with
  | none => simp [Tab.modify, hc]
  | some c =>
    simp only [Tab.modify_of _ hc, Tab.modify_of _ (Tab.get?_set_self _ _ _), Tab.set_set]
    cases hx : Tab.get? c.paths p with
    | none => simp [Tab.modify, hx]
    | some x => simp only [Tab.modify_of _ hx, Tab.modify_of _ (Tab.get?_set_self _ _ _), Tab.set_set]

/-- A change of the path in focus leaves it in focus. -/
theorem State.me?_modPath {s : State} {m : Me} (h : s.me? = some m) (f : Path → Path) :
    (s.modPath m.key m.p f).me? =
      some { m with car := { m.car with paths := Tab.set m.car.paths m.p (f m.path) }, path := f m.path } := by
  rw [State.modPath_me h]
  exact State.me?_setCaravan h _ _ (Tab.get?_set_self _ _ _) rfl

/-- A path of a caravan is in focus. -/
def State.InFocus (s : State) (key p : Nat) : Prop := ∃ m, s.me? = some m ∧ m.key = key ∧ m.p = p

theorem State.InFocus.modPath {s : State} {key p : Nat} (h : s.InFocus key p) (f : Path → Path) :
    (s.modPath key p f).InFocus key p := by
  obtain ⟨m, hm, rfl, rfl⟩ := h
  exact ⟨_, State.me?_modPath hm f, rfl, rfl⟩

theorem State.InFocus.free {s : State} {key p : Nat} (h : s.InFocus key p) (n : Nat) :
    ({ s with free := n } : State).InFocus key p := h

theorem modBurst_at {s : State} {key p : Nat} (h : s.InFocus key p) (f : Burst → Burst) :
    modBurst f s = .ok () (s.modPath key p (fun x => { x with burst := x.burst.map f })) := by
  obtain ⟨m, hm, rfl, rfl⟩ := h
  exact modMyPath_run hm _

theorem modMyPath_at {s : State} {key p : Nat} (h : s.InFocus key p) (f : Path → Path) :
    modMyPath f s = .ok () (s.modPath key p f) := by
  obtain ⟨m, hm, rfl, rfl⟩ := h
  exact modMyPath_run hm _

/-- The latch of a word, with the number that its undefined lanes draw. -/
theorem latchValue_run (s : State) (x : Lane) (mask : Mask) (vals : List LaneWord) :
    latchValue x mask vals s = .ok (x.latch s.free mask vals) { s with free := s.free + 1 } := rfl

/-- The effects of a lane word recorded (R43, R44, R120, R121): a law for everything that `finishLane` does. -/
theorem finishLane_run {s : State} (x : Lane) (o : LaneOut) (h : s.InFocus x.m.key x.m.p) :
    finishLane x o s = .ok () (s.laneDone x o) := by
  have hf := h.free (s.free + 1)
  obtain ⟨res, status, flags, draws⟩ := o
  unfold finishLane
  simp only [bind]
  cases res <;> cases status <;>
    simp only [EStateM.bind, latchValue_run, modBurst_at h, modBurst_at (h.modPath _), modBurst_at hf,
      modBurst_at (hf.modPath _), modBurst_at ((h.modPath _).modPath _), modBurst_at ((hf.modPath _).modPath _),
      modMyPath_at ((h.modPath _).modPath _), modMyPath_at (((h.modPath _).modPath _).modPath _),
      modMyPath_at ((hf.modPath _).modPath _), modMyPath_at (((hf.modPath _).modPath _).modPath _)]
  all_goals
    simp only [State.modPath_modPath]
    show EStateM.Result.ok () (State.dropReads _ _ _) = EStateM.Result.ok () (State.dropReads _ _ _)
    congr 2
    congr 1
    funext y
    cases y.burst with
    | none => rfl
    | some b =>
      simp only [Option.map_some, Lane.recorded, Lane.held, resultWords, Burst.setPred, Burst.setReg]
      repeat (first | rfl | split)

/-- The wrapper of a lane word that runs: what is left is its effect and the record of it. -/
theorem laneOp_runs {s : State} {m : Me} {b : Burst} {i : Instr} {f : LaneFields} (h : s.LaneRuns m b i f)
    (effect : Lane → Act LaneOut) :
    laneOp i f effect s = laneResult s m b (match effect (m.laneOf b i f) s with
      | .ok o t => finishLane (m.laneOf b i f) o t
      | .error e t => .error e t) := by
  obtain ⟨⟨⟨hp, hb, hl⟩, hi, hr, hc⟩, hk, hq⟩ := h
  have h1 : (highestRegs i f).all (· < m.car.lbud) = true := by simpa using hr
  have h2 : (!(atCommit i && (b.pos < b.entry.len || b.entry.rep > 0))) = true := by
    cases ha : atCommit i with
    | false => rfl
    | true => have := hc ha; simp; omega
  have h3 : (latchesOf i f).all (fun k => (Tab.get? b.latches k).isSome) = true := by simpa using hk
  have h4 : (queuesOf i f).any (fun q => (queueHead m.car b q).isNone || siblingPops m q) = false := by
    simp only [List.any_eq_false, Bool.or_eq_true, not_or, Bool.not_eq_true]
    intro q hm
    have := hq q hm
    refine ⟨?_, this.2⟩
    cases hx : queueHead m.car b q with
    | none => simp [hx] at this
    | some v => rfl
  unfold laneOp laneOpWith
  simp only [hp, hb, hl, hi, h1, h2, h3, h4, Bool.false_eq_true, if_false]
  congr 1
  show (EStateM.bind _ _) s = _
  simp only [EStateM.bind, Me.laneOf]
  generalize effect _ s = r
  cases r <;> rfl

/-- A lane word whose effect is its result alone. -/
theorem lanePure_runs {s : State} {m : Me} {b : Burst} {i : Instr} {f : LaneFields} (h : s.LaneRuns m b i f)
    (r : Lane → LaneOut) : lanePure i f r s = .next (s.laneDone (m.laneOf b i f) (r (m.laneOf b i f))) := by
  unfold lanePure
  rw [laneOp_runs h]
  simp only [pure, EStateM.pure]
  rw [finishLane_run (s := s) (m.laneOf b i f) _ ⟨m, h.issues.path, rfl, rfl⟩]
  rfl

end Sys2Proof.Machine
end

