-- ==== Sys2Proof/Laws/PerInstr.lean ====
section
/-!
SUPPORT. Facts about instructions, one per constructor: an encoded instruction decodes to itself (R61 to R73, R340).
-/

namespace Sys2Proof.Laws.RoundTrip

/-- The decoder of its stream reads the words of a well-formed instruction as that instruction. -/
def Statement (i : Instr) : Prop := i.WellFormed → ∀ st w, encode i = some (st, w) → decodeOf st w = some i

theorem bits_eq {w lo n : Nat} {v : BitVec n} (h : w / 2 ^ lo % 2 ^ n = v.toNat) : bits w lo n = v :=
  BitVec.eq_of_toNat_eq (by simpa [bits] using h)

theorem place_nil (b : Nat) : place b [] = b := by
  have : place b [] = b := rfl
  rw [this]

theorem place_cons (b v lo : Nat) (r : List (Nat × Nat)) : place b ((v, lo) :: r) = v * 2 ^ lo + place b r := by
  have : place b ((v, lo) :: r) = v * 2 ^ lo + place b r := rfl
  rw [this]

/-- A row without an instruction word. -/
theorem wordless {i : Instr} (h : streamOf i = none) : Statement i := by
  intro _ st w he
  simp [encode, h] at he

theorem scalar {i : Instr} (x : Nat) (hs : streamOf i = some .scalar) (hx : encodeScalarNat i = x)
    (h : decodeScalarNat x = accept i) : Statement i := by
  intro hw st w he
  simp only [encode, hs, Option.some.injEq, Prod.mk.injEq] at he
  obtain ⟨rfl, rfl⟩ := he
  have : i.check = none := hw
  simp [decodeOf, hx, h, accept, this, Except.toOption]

theorem encode_fields (op : Nat) (f : LaneFields) : encodeLaneFields op f =
    (op * 2 ^ 88 + f.mod.toNat * 2 ^ 80 + f.d.toNat * 2 ^ 71 + f.nw.toNat * 2 ^ 70 + f.a.toNat * 2 ^ 61
    + f.b.toNat * 2 ^ 52 + f.c.toNat * 2 ^ 43 + f.pred.toNat * 2 ^ 40 + f.neg.toNat * 2 ^ 39
    + f.ctl.toNat * 2 ^ 32 + f.imm.toNat) := rfl

theorem laneFieldsOf_encode (op : Nat) (f : LaneFields) : laneFieldsOf (encodeLaneFields op f) = f := by
  have hx := encode_fields op f
  generalize encodeLaneFields op f = x at hx ⊢
  have := f.mod.isLt; have := f.d.isLt; have := f.nw.isLt; have := f.a.isLt; have := f.b.isLt
  have := f.c.isLt; have := f.pred.isLt; have := f.neg.isLt; have := f.ctl.isLt; have := f.imm.isLt
  have e0 : bits x 80 8 = f.mod := BitVec.eq_of_toNat_eq (by simp only [bits, BitVec.toNat_ofNat]; omega)
  have e1 : bits x 71 9 = f.d := BitVec.eq_of_toNat_eq (by simp only [bits, BitVec.toNat_ofNat]; omega)
  have e2 : bits x 70 1 = f.nw := BitVec.eq_of_toNat_eq (by simp only [bits, BitVec.toNat_ofNat]; omega)
  have e3 : bits x 61 9 = f.a := BitVec.eq_of_toNat_eq (by simp only [bits, BitVec.toNat_ofNat]; omega)
  have e4 : bits x 52 9 = f.b := BitVec.eq_of_toNat_eq (by simp only [bits, BitVec.toNat_ofNat]; omega)
  have e5 : bits x 43 9 = f.c := BitVec.eq_of_toNat_eq (by simp only [bits, BitVec.toNat_ofNat]; omega)
  have e6 : bits x 40 3 = f.pred := BitVec.eq_of_toNat_eq (by simp only [bits, BitVec.toNat_ofNat]; omega)
  have e7 : bits x 39 1 = f.neg := BitVec.eq_of_toNat_eq (by simp only [bits, BitVec.toNat_ofNat]; omega)
  have e8 : bits x 32 7 = f.ctl := BitVec.eq_of_toNat_eq (by simp only [bits, BitVec.toNat_ofNat]; omega)
  have e9 : bits x 0 32 = f.imm := BitVec.eq_of_toNat_eq (by simp only [bits, BitVec.toNat_ofNat]; omega)
  unfold laneFieldsOf
  rw [e0, e1, e2, e3, e4, e5, e6, e7, e8, e9]

theorem top_byte (op mod d nw a b c pred neg ctl imm : Nat) (h1 : mod < 256) (h2 : d < 512) (h3 : nw < 2) (h4 : a < 512)
    (h5 : b < 512) (h6 : c < 512) (h7 : pred < 8) (h8 : neg < 2) (h9 : ctl < 128) (h10 : imm < 4294967296) :
    (op * 2 ^ 88 + mod * 2 ^ 80 + d * 2 ^ 71 + nw * 2 ^ 70 + a * 2 ^ 61 + b * 2 ^ 52 + c * 2 ^ 43 + pred * 2 ^ 40
      + neg * 2 ^ 39 + ctl * 2 ^ 32 + imm) / 2 ^ 88 = op := by omega

theorem opcode_encode (op : Nat) (f : LaneFields) : encodeLaneFields op f / 2 ^ 88 = op :=
  top_byte op _ _ _ _ _ _ _ _ _ _ f.mod.isLt f.d.isLt f.nw.isLt f.a.isLt f.b.isLt f.c.isLt f.pred.isLt f.neg.isLt
    f.ctl.isLt f.imm.isLt

theorem decodeLane_of {i : Instr} (x op : Nat) (f : LaneFields) (h1 : x / 2 ^ 88 = op) (h2 : laneFieldsOf x = f)
    (h : laneOfOpcode op f = some i) : decodeLaneNat x = accept i := by
  unfold decodeLaneNat
  rw [h1, h2, h]

theorem lane {i : Instr} (op : Nat) (f : LaneFields) (hs : streamOf i = some .lane) (hp : laneParts i = some (op, f))
    (h : i.WellFormed → laneOfOpcode op f = some i) : Statement i := by
  intro hw st w he
  have e1 : encode i = some (.lane, encodeLaneNat i) := by unfold encode; rw [hs]
  have e2 : encodeLaneNat i = encodeLaneFields op f := by unfold encodeLaneNat; rw [hp]
  rw [e1, e2] at he
  have e3 : encodeLaneFields op f = w := (Prod.mk.inj (Option.some.inj he)).2
  have e4 : Stream.lane = st := (Prod.mk.inj (Option.some.inj he)).1
  have h1 := opcode_encode op f
  have h2 := laneFieldsOf_encode op f
  rw [e3] at h1 h2
  have hd := decodeLane_of w op f h1 h2 (h hw)
  have hc : i.check = none := hw
  subst e4
  show (decodeLaneNat w).toOption = some i
  rw [hd]
  unfold accept
  rw [hc]
  rfl

theorem front {i : Instr} (x : Nat) (hs : streamOf i = some .front) (hx : encodeFrontNat i = x)
    (h : decodeFrontNat x = some i) : Statement i := by
  intro _ st w he
  simp only [encode, hs, Option.some.injEq, Prod.mk.injEq] at he
  obtain ⟨rfl, rfl⟩ := he
  simp [decodeOf, hx, h]

theorem major01 {w : Nat} (h : w / 67108864 = 1) : decodeScalarNat w = scalarMajor01 w := by
  simp [decodeScalarNat, h]

theorem major02 {w : Nat} (h : w / 67108864 = 2) : decodeScalarNat w = scalarMajor02 w := by
  simp [decodeScalarNat, h]

theorem major03 {w : Nat} (h : w / 67108864 = 3) : decodeScalarNat w = scalarMajor03 w := by
  simp [decodeScalarNat, h]

theorem major04 {w : Nat} (h : w / 67108864 = 4) : decodeScalarNat w = scalarMajor04 w := by
  simp [decodeScalarNat, h]

theorem major05 {w : Nat} (h : w / 67108864 = 5) : decodeScalarNat w = scalarMajor05 w := by
  simp [decodeScalarNat, h]

theorem major06 {w : Nat} (h : w / 67108864 = 6) : decodeScalarNat w = scalarMajor06 w := by
  simp [decodeScalarNat, h]

theorem major07 {w : Nat} (h : w / 67108864 = 7) : decodeScalarNat w = scalarMajor07 w := by
  simp [decodeScalarNat, h]

theorem major08 {w : Nat} (h : w / 67108864 = 8) : decodeScalarNat w = scalarMajor08 w := by
  simp [decodeScalarNat, h]

theorem major09 {w : Nat} (h : w / 67108864 = 9) : decodeScalarNat w = scalarMajor09 w := by
  simp [decodeScalarNat, h]

theorem major0a {w : Nat} (h : w / 67108864 = 10) : decodeScalarNat w = scalarMajor0a w := by
  simp [decodeScalarNat, h]

theorem major0b {w : Nat} (h : w / 67108864 = 11) : decodeScalarNat w = scalarMajor0b w := by
  simp [decodeScalarNat, h]

theorem major0c {w : Nat} (h : w / 67108864 = 12) : decodeScalarNat w = scalarMajor0c w := by
  simp [decodeScalarNat, h]

theorem major0d {w : Nat} (h : w / 67108864 = 13) : decodeScalarNat w = scalarMajor0d w := by
  simp [decodeScalarNat, h]

theorem major0e {w : Nat} (h : w / 67108864 = 14) : decodeScalarNat w = scalarMajor0e w := by
  simp [decodeScalarNat, h]

theorem major0f {w : Nat} (h : w / 67108864 = 15) : decodeScalarNat w = scalarMajor0f w := by
  simp [decodeScalarNat, h]

theorem major10 {w : Nat} (h : w / 67108864 = 16) : decodeScalarNat w = scalarMajor10 w := by
  simp [decodeScalarNat, h]

theorem major11 {w : Nat} (h : w / 67108864 = 17) : decodeScalarNat w = scalarMajor11 w := by
  simp [decodeScalarNat, h]

theorem major12 {w : Nat} (h : w / 67108864 = 18) : decodeScalarNat w = scalarMajor12 w := by
  simp [decodeScalarNat, h]

theorem major13 {w : Nat} (h : w / 67108864 = 19) : decodeScalarNat w = scalarMajor13 w := by
  simp [decodeScalarNat, h]

theorem major14 {w : Nat} (h : w / 67108864 = 20) : decodeScalarNat w = scalarMajor14 w := by
  simp [decodeScalarNat, h]

theorem major15 {w : Nat} (h : w / 67108864 = 21) : decodeScalarNat w = scalarMajor15 w := by
  simp [decodeScalarNat, h]

theorem major16 {w : Nat} (h : w / 67108864 = 22) : decodeScalarNat w = scalarMajor16 w := by
  simp [decodeScalarNat, h]

theorem major17 {w : Nat} (h : w / 67108864 = 23) : decodeScalarNat w = scalarMajor17 w := by
  simp [decodeScalarNat, h]

theorem major18 {w : Nat} (h : w / 67108864 = 24) : decodeScalarNat w = scalarMajor18 w := by
  simp [decodeScalarNat, h]

theorem major19 {w : Nat} (h : w / 67108864 = 25) : decodeScalarNat w = scalarMajor19 w := by
  simp [decodeScalarNat, h]

theorem major1a {w : Nat} (h : w / 67108864 = 26) : decodeScalarNat w = scalarMajor1a w := by
  simp [decodeScalarNat, h]

theorem major1b {w : Nat} (h : w / 67108864 = 27) : decodeScalarNat w = scalarMajor1b w := by
  simp [decodeScalarNat, h]

theorem major1c {w : Nat} (h : w / 67108864 = 28) : decodeScalarNat w = scalarMajor1c w := by
  simp [decodeScalarNat, h]

theorem major1d {w : Nat} (h : w / 67108864 = 29) : decodeScalarNat w = scalarMajor1d w := by
  simp [decodeScalarNat, h]

theorem major1e {w : Nat} (h : w / 67108864 = 30) : decodeScalarNat w = scalarMajor1e w := by
  simp [decodeScalarNat, h]

theorem major1f {w : Nat} (h : w / 67108864 = 31) : decodeScalarNat w = scalarMajor1f w := by
  simp [decodeScalarNat, h]

theorem major20 {w : Nat} (h : w / 67108864 = 32) : decodeScalarNat w = scalarMajor20 w := by
  simp [decodeScalarNat, h]

theorem major21 {w : Nat} (h : w / 67108864 = 33) : decodeScalarNat w = scalarMajor21 w := by
  simp [decodeScalarNat, h]

theorem major22 {w : Nat} (h : w / 67108864 = 34) : decodeScalarNat w = scalarMajor22 w := by
  simp [decodeScalarNat, h]

theorem major23 {w : Nat} (h : w / 67108864 = 35) : decodeScalarNat w = scalarMajor23 w := by
  simp [decodeScalarNat, h]

theorem major24 {w : Nat} (h : w / 67108864 = 36) : decodeScalarNat w = scalarMajor24 w := by
  simp [decodeScalarNat, h]

theorem major25 {w : Nat} (h : w / 67108864 = 37) : decodeScalarNat w = scalarMajor25 w := by
  simp [decodeScalarNat, h]

theorem major26 {w : Nat} (h : w / 67108864 = 38) : decodeScalarNat w = scalarMajor26 w := by
  simp [decodeScalarNat, h]

theorem major27 {w : Nat} (h : w / 67108864 = 39) : decodeScalarNat w = scalarMajor27 w := by
  simp [decodeScalarNat, h]

theorem major28 {w : Nat} (h : w / 67108864 = 40) : decodeScalarNat w = scalarMajor28 w := by
  simp [decodeScalarNat, h]

theorem major29 {w : Nat} (h : w / 67108864 = 41) : decodeScalarNat w = scalarMajor29 w := by
  simp [decodeScalarNat, h]

theorem major2a {w : Nat} (h : w / 67108864 = 42) : decodeScalarNat w = scalarMajor2a w := by
  simp [decodeScalarNat, h]

theorem major2b {w : Nat} (h : w / 67108864 = 43) : decodeScalarNat w = scalarMajor2b w := by
  simp [decodeScalarNat, h]

theorem major2c {w : Nat} (h : w / 67108864 = 44) : decodeScalarNat w = scalarMajor2c w := by
  simp [decodeScalarNat, h]

theorem major2d {w : Nat} (h : w / 67108864 = 45) : decodeScalarNat w = scalarMajor2d w := by
  simp [decodeScalarNat, h]

theorem add (sd : BitVec 6) (sa : BitVec 6) (sb : BitVec 6) : Statement (.add sd sa sb) := by
  have h_sd := sd.isLt
  have h_sa := sa.isLt
  have h_sb := sb.isLt
  obtain ⟨x, e⟩ : ∃ x, x = place 67108864 [(sd.toNat, 20), (sa.toNat, 14), (sb.toNat, 8)] := ⟨_, rfl⟩
  refine scalar x rfl (e ▸ rfl) ?_
  simp only [place_cons, place_nil] at e
  rw [major01 (by omega)]
  have f0 : fld x 0 8 = 0 := by unfold fld; omega
  have f3 : bits x 14 6 = sa := bits_eq (by omega)
  have f4 : bits x 20 6 = sd := bits_eq (by omega)
  have f5 : bits x 8 6 = sb := bits_eq (by omega)
  simp [scalarMajor01, f0, f3, f4, f5]

theorem sub (sd : BitVec 6) (sa : BitVec 6) (sb : BitVec 6) : Statement (.sub sd sa sb) := by
  have h_sd := sd.isLt
  have h_sa := sa.isLt
  have h_sb := sb.isLt
  obtain ⟨x, e⟩ : ∃ x, x = place 67108865 [(sd.toNat, 20), (sa.toNat, 14), (sb.toNat, 8)] := ⟨_, rfl⟩
  refine scalar x rfl (e ▸ rfl) ?_
  simp only [place_cons, place_nil] at e
  rw [major01 (by omega)]
  have f0 : fld x 0 8 = 1 := by unfold fld; omega
  have f3 : bits x 14 6 = sa := bits_eq (by omega)
  have f4 : bits x 20 6 = sd := bits_eq (by omega)
  have f5 : bits x 8 6 = sb := bits_eq (by omega)
  simp [scalarMajor01, f0, f3, f4, f5]

theorem mul (sd : BitVec 6) (sa : BitVec 6) (sb : BitVec 6) : Statement (.mul sd sa sb) := by
  have h_sd := sd.isLt
  have h_sa := sa.isLt
  have h_sb := sb.isLt
  obtain ⟨x, e⟩ : ∃ x, x = place 67108866 [(sd.toNat, 20), (sa.toNat, 14), (sb.toNat, 8)] := ⟨_, rfl⟩
  refine scalar x rfl (e ▸ rfl) ?_
  simp only [place_cons, place_nil] at e
  rw [major01 (by omega)]
  have f0 : fld x 0 8 = 2 := by unfold fld; omega
  have f3 : bits x 14 6 = sa := bits_eq (by omega)
  have f4 : bits x 20 6 = sd := bits_eq (by omega)
  have f5 : bits x 8 6 = sb := bits_eq (by omega)
  simp [scalarMajor01, f0, f3, f4, f5]

theorem mulh (sd : BitVec 6) (sa : BitVec 6) (sb : BitVec 6) : Statement (.mulh sd sa sb) := by
  have h_sd := sd.isLt
  have h_sa := sa.isLt
  have h_sb := sb.isLt
  obtain ⟨x, e⟩ : ∃ x, x = place 67108867 [(sd.toNat, 20), (sa.toNat, 14), (sb.toNat, 8)] := ⟨_, rfl⟩
  refine scalar x rfl (e ▸ rfl) ?_
  simp only [place_cons, place_nil] at e
  rw [major01 (by omega)]
  have f0 : fld x 0 8 = 3 := by unfold fld; omega
  have f3 : bits x 14 6 = sa := bits_eq (by omega)
  have f4 : bits x 20 6 = sd := bits_eq (by omega)
  have f5 : bits x 8 6 = sb := bits_eq (by omega)
  simp [scalarMajor01, f0, f3, f4, f5]

theorem mulhU (sd : BitVec 6) (sa : BitVec 6) (sb : BitVec 6) : Statement (.mulhU sd sa sb) := by
  have h_sd := sd.isLt
  have h_sa := sa.isLt
  have h_sb := sb.isLt
  obtain ⟨x, e⟩ : ∃ x, x = place 67108868 [(sd.toNat, 20), (sa.toNat, 14), (sb.toNat, 8)] := ⟨_, rfl⟩
  refine scalar x rfl (e ▸ rfl) ?_
  simp only [place_cons, place_nil] at e
  rw [major01 (by omega)]
  have f0 : fld x 0 8 = 4 := by unfold fld; omega
  have f3 : bits x 14 6 = sa := bits_eq (by omega)
  have f4 : bits x 20 6 = sd := bits_eq (by omega)
  have f5 : bits x 8 6 = sb := bits_eq (by omega)
  simp [scalarMajor01, f0, f3, f4, f5]

theorem div (sd : BitVec 6) (sa : BitVec 6) (sb : BitVec 6) : Statement (.div sd sa sb) := by
  have h_sd := sd.isLt
  have h_sa := sa.isLt
  have h_sb := sb.isLt
  obtain ⟨x, e⟩ : ∃ x, x = place 67108869 [(sd.toNat, 20), (sa.toNat, 14), (sb.toNat, 8)] := ⟨_, rfl⟩
  refine scalar x rfl (e ▸ rfl) ?_
  simp only [place_cons, place_nil] at e
  rw [major01 (by omega)]
  have f0 : fld x 0 8 = 5 := by unfold fld; omega
  have f3 : bits x 14 6 = sa := bits_eq (by omega)
  have f4 : bits x 20 6 = sd := bits_eq (by omega)
  have f5 : bits x 8 6 = sb := bits_eq (by omega)
  simp [scalarMajor01, f0, f3, f4, f5]

theorem divU (sd : BitVec 6) (sa : BitVec 6) (sb : BitVec 6) : Statement (.divU sd sa sb) := by
  have h_sd := sd.isLt
  have h_sa := sa.isLt
  have h_sb := sb.isLt
  obtain ⟨x, e⟩ : ∃ x, x = place 67108870 [(sd.toNat, 20), (sa.toNat, 14), (sb.toNat, 8)] := ⟨_, rfl⟩
  refine scalar x rfl (e ▸ rfl) ?_
  simp only [place_cons, place_nil] at e
  rw [major01 (by omega)]
  have f0 : fld x 0 8 = 6 := by unfold fld; omega
  have f3 : bits x 14 6 = sa := bits_eq (by omega)
  have f4 : bits x 20 6 = sd := bits_eq (by omega)
  have f5 : bits x 8 6 = sb := bits_eq (by omega)
  simp [scalarMajor01, f0, f3, f4, f5]

theorem rem (sd : BitVec 6) (sa : BitVec 6) (sb : BitVec 6) : Statement (.rem sd sa sb) := by
  have h_sd := sd.isLt
  have h_sa := sa.isLt
  have h_sb := sb.isLt
  obtain ⟨x, e⟩ : ∃ x, x = place 67108871 [(sd.toNat, 20), (sa.toNat, 14), (sb.toNat, 8)] := ⟨_, rfl⟩
  refine scalar x rfl (e ▸ rfl) ?_
  simp only [place_cons, place_nil] at e
  rw [major01 (by omega)]
  have f0 : fld x 0 8 = 7 := by unfold fld; omega
  have f3 : bits x 14 6 = sa := bits_eq (by omega)
  have f4 : bits x 20 6 = sd := bits_eq (by omega)
  have f5 : bits x 8 6 = sb := bits_eq (by omega)
  simp [scalarMajor01, f0, f3, f4, f5]

theorem remU (sd : BitVec 6) (sa : BitVec 6) (sb : BitVec 6) : Statement (.remU sd sa sb) := by
  have h_sd := sd.isLt
  have h_sa := sa.isLt
  have h_sb := sb.isLt
  obtain ⟨x, e⟩ : ∃ x, x = place 67108872 [(sd.toNat, 20), (sa.toNat, 14), (sb.toNat, 8)] := ⟨_, rfl⟩
  refine scalar x rfl (e ▸ rfl) ?_
  simp only [place_cons, place_nil] at e
  rw [major01 (by omega)]
  have f0 : fld x 0 8 = 8 := by unfold fld; omega
  have f3 : bits x 14 6 = sa := bits_eq (by omega)
  have f4 : bits x 20 6 = sd := bits_eq (by omega)
  have f5 : bits x 8 6 = sb := bits_eq (by omega)
  simp [scalarMajor01, f0, f3, f4, f5]

theorem and (sd : BitVec 6) (sa : BitVec 6) (sb : BitVec 6) : Statement (.and sd sa sb) := by
  have h_sd := sd.isLt
  have h_sa := sa.isLt
  have h_sb := sb.isLt
  obtain ⟨x, e⟩ : ∃ x, x = place 67108873 [(sd.toNat, 20), (sa.toNat, 14), (sb.toNat, 8)] := ⟨_, rfl⟩
  refine scalar x rfl (e ▸ rfl) ?_
  simp only [place_cons, place_nil] at e
  rw [major01 (by omega)]
  have f0 : fld x 0 8 = 9 := by unfold fld; omega
  have f3 : bits x 14 6 = sa := bits_eq (by omega)
  have f4 : bits x 20 6 = sd := bits_eq (by omega)
  have f5 : bits x 8 6 = sb := bits_eq (by omega)
  simp [scalarMajor01, f0, f3, f4, f5]

theorem or (sd : BitVec 6) (sa : BitVec 6) (sb : BitVec 6) : Statement (.or sd sa sb) := by
  have h_sd := sd.isLt
  have h_sa := sa.isLt
  have h_sb := sb.isLt
  obtain ⟨x, e⟩ : ∃ x, x = place 67108874 [(sd.toNat, 20), (sa.toNat, 14), (sb.toNat, 8)] := ⟨_, rfl⟩
  refine scalar x rfl (e ▸ rfl) ?_
  simp only [place_cons, place_nil] at e
  rw [major01 (by omega)]
  have f0 : fld x 0 8 = 10 := by unfold fld; omega
  have f3 : bits x 14 6 = sa := bits_eq (by omega)
  have f4 : bits x 20 6 = sd := bits_eq (by omega)
  have f5 : bits x 8 6 = sb := bits_eq (by omega)
  simp [scalarMajor01, f0, f3, f4, f5]

theorem xor (sd : BitVec 6) (sa : BitVec 6) (sb : BitVec 6) : Statement (.xor sd sa sb) := by
  have h_sd := sd.isLt
  have h_sa := sa.isLt
  have h_sb := sb.isLt
  obtain ⟨x, e⟩ : ∃ x, x = place 67108875 [(sd.toNat, 20), (sa.toNat, 14), (sb.toNat, 8)] := ⟨_, rfl⟩
  refine scalar x rfl (e ▸ rfl) ?_
  simp only [place_cons, place_nil] at e
  rw [major01 (by omega)]
  have f0 : fld x 0 8 = 11 := by unfold fld; omega
  have f3 : bits x 14 6 = sa := bits_eq (by omega)
  have f4 : bits x 20 6 = sd := bits_eq (by omega)
  have f5 : bits x 8 6 = sb := bits_eq (by omega)
  simp [scalarMajor01, f0, f3, f4, f5]

theorem shl (sd : BitVec 6) (sa : BitVec 6) (sb : BitVec 6) : Statement (.shl sd sa sb) := by
  have h_sd := sd.isLt
  have h_sa := sa.isLt
  have h_sb := sb.isLt
  obtain ⟨x, e⟩ : ∃ x, x = place 67108876 [(sd.toNat, 20), (sa.toNat, 14), (sb.toNat, 8)] := ⟨_, rfl⟩
  refine scalar x rfl (e ▸ rfl) ?_
  simp only [place_cons, place_nil] at e
  rw [major01 (by omega)]
  have f0 : fld x 0 8 = 12 := by unfold fld; omega
  have f3 : bits x 14 6 = sa := bits_eq (by omega)
  have f4 : bits x 20 6 = sd := bits_eq (by omega)
  have f5 : bits x 8 6 = sb := bits_eq (by omega)
  simp [scalarMajor01, f0, f3, f4, f5]

theorem shr (sd : BitVec 6) (sa : BitVec 6) (sb : BitVec 6) : Statement (.shr sd sa sb) := by
  have h_sd := sd.isLt
  have h_sa := sa.isLt
  have h_sb := sb.isLt
  obtain ⟨x, e⟩ : ∃ x, x = place 67108877 [(sd.toNat, 20), (sa.toNat, 14), (sb.toNat, 8)] := ⟨_, rfl⟩
  refine scalar x rfl (e ▸ rfl) ?_
  simp only [place_cons, place_nil] at e
  rw [major01 (by omega)]
  have f0 : fld x 0 8 = 13 := by unfold fld; omega
  have f3 : bits x 14 6 = sa := bits_eq (by omega)
  have f4 : bits x 20 6 = sd := bits_eq (by omega)
  have f5 : bits x 8 6 = sb := bits_eq (by omega)
  simp [scalarMajor01, f0, f3, f4, f5]

theorem sra (sd : BitVec 6) (sa : BitVec 6) (sb : BitVec 6) : Statement (.sra sd sa sb) := by
  have h_sd := sd.isLt
  have h_sa := sa.isLt
  have h_sb := sb.isLt
  obtain ⟨x, e⟩ : ∃ x, x = place 67108878 [(sd.toNat, 20), (sa.toNat, 14), (sb.toNat, 8)] := ⟨_, rfl⟩
  refine scalar x rfl (e ▸ rfl) ?_
  simp only [place_cons, place_nil] at e
  rw [major01 (by omega)]
  have f0 : fld x 0 8 = 14 := by unfold fld; omega
  have f3 : bits x 14 6 = sa := bits_eq (by omega)
  have f4 : bits x 20 6 = sd := bits_eq (by omega)
  have f5 : bits x 8 6 = sb := bits_eq (by omega)
  simp [scalarMajor01, f0, f3, f4, f5]

theorem min (sd : BitVec 6) (sa : BitVec 6) (sb : BitVec 6) : Statement (.min sd sa sb) := by
  have h_sd := sd.isLt
  have h_sa := sa.isLt
  have h_sb := sb.isLt
  obtain ⟨x, e⟩ : ∃ x, x = place 67108879 [(sd.toNat, 20), (sa.toNat, 14), (sb.toNat, 8)] := ⟨_, rfl⟩
  refine scalar x rfl (e ▸ rfl) ?_
  simp only [place_cons, place_nil] at e
  rw [major01 (by omega)]
  have f0 : fld x 0 8 = 15 := by unfold fld; omega
  have f3 : bits x 14 6 = sa := bits_eq (by omega)
  have f4 : bits x 20 6 = sd := bits_eq (by omega)
  have f5 : bits x 8 6 = sb := bits_eq (by omega)
  simp [scalarMajor01, f0, f3, f4, f5]

theorem minU (sd : BitVec 6) (sa : BitVec 6) (sb : BitVec 6) : Statement (.minU sd sa sb) := by
  have h_sd := sd.isLt
  have h_sa := sa.isLt
  have h_sb := sb.isLt
  obtain ⟨x, e⟩ : ∃ x, x = place 67108880 [(sd.toNat, 20), (sa.toNat, 14), (sb.toNat, 8)] := ⟨_, rfl⟩
  refine scalar x rfl (e ▸ rfl) ?_
  simp only [place_cons, place_nil] at e
  rw [major01 (by omega)]
  have f0 : fld x 0 8 = 16 := by unfold fld; omega
  have f3 : bits x 14 6 = sa := bits_eq (by omega)
  have f4 : bits x 20 6 = sd := bits_eq (by omega)
  have f5 : bits x 8 6 = sb := bits_eq (by omega)
  simp [scalarMajor01, f0, f3, f4, f5]

theorem max (sd : BitVec 6) (sa : BitVec 6) (sb : BitVec 6) : Statement (.max sd sa sb) := by
  have h_sd := sd.isLt
  have h_sa := sa.isLt
  have h_sb := sb.isLt
  obtain ⟨x, e⟩ : ∃ x, x = place 67108881 [(sd.toNat, 20), (sa.toNat, 14), (sb.toNat, 8)] := ⟨_, rfl⟩
  refine scalar x rfl (e ▸ rfl) ?_
  simp only [place_cons, place_nil] at e
  rw [major01 (by omega)]
  have f0 : fld x 0 8 = 17 := by unfold fld; omega
  have f3 : bits x 14 6 = sa := bits_eq (by omega)
  have f4 : bits x 20 6 = sd := bits_eq (by omega)
  have f5 : bits x 8 6 = sb := bits_eq (by omega)
  simp [scalarMajor01, f0, f3, f4, f5]

theorem maxU (sd : BitVec 6) (sa : BitVec 6) (sb : BitVec 6) : Statement (.maxU sd sa sb) := by
  have h_sd := sd.isLt
  have h_sa := sa.isLt
  have h_sb := sb.isLt
  obtain ⟨x, e⟩ : ∃ x, x = place 67108882 [(sd.toNat, 20), (sa.toNat, 14), (sb.toNat, 8)] := ⟨_, rfl⟩
  refine scalar x rfl (e ▸ rfl) ?_
  simp only [place_cons, place_nil] at e
  rw [major01 (by omega)]
  have f0 : fld x 0 8 = 18 := by unfold fld; omega
  have f3 : bits x 14 6 = sa := bits_eq (by omega)
  have f4 : bits x 20 6 = sd := bits_eq (by omega)
  have f5 : bits x 8 6 = sb := bits_eq (by omega)
  simp [scalarMajor01, f0, f3, f4, f5]

theorem sel (sd : BitVec 6) (sa : BitVec 6) (sb : BitVec 6) : Statement (.sel sd sa sb) := by
  have h_sd := sd.isLt
  have h_sa := sa.isLt
  have h_sb := sb.isLt
  obtain ⟨x, e⟩ : ∃ x, x = place 67108883 [(sd.toNat, 20), (sa.toNat, 14), (sb.toNat, 8)] := ⟨_, rfl⟩
  refine scalar x rfl (e ▸ rfl) ?_
  simp only [place_cons, place_nil] at e
  rw [major01 (by omega)]
  have f0 : fld x 0 8 = 19 := by unfold fld; omega
  have f3 : bits x 14 6 = sa := bits_eq (by omega)
  have f4 : bits x 20 6 = sd := bits_eq (by omega)
  have f5 : bits x 8 6 = sb := bits_eq (by omega)
  simp [scalarMajor01, f0, f3, f4, f5]

theorem clz (sd : BitVec 6) (sa : BitVec 6) : Statement (.clz sd sa) := by
  have h_sd := sd.isLt
  have h_sa := sa.isLt
  obtain ⟨x, e⟩ : ∃ x, x = place 67108884 [(sd.toNat, 20), (sa.toNat, 14)] := ⟨_, rfl⟩
  refine scalar x rfl (e ▸ rfl) ?_
  simp only [place_cons, place_nil] at e
  rw [major01 (by omega)]
  have f0 : fld x 0 8 = 20 := by unfold fld; omega
  have f2 : fld x 8 6 = 0 := by unfold fld; omega
  have f3 : bits x 14 6 = sa := bits_eq (by omega)
  have f4 : bits x 20 6 = sd := bits_eq (by omega)
  simp [scalarMajor01, f0, f2, f3, f4]

theorem popc (sd : BitVec 6) (sa : BitVec 6) : Statement (.popc sd sa) := by
  have h_sd := sd.isLt
  have h_sa := sa.isLt
  obtain ⟨x, e⟩ : ∃ x, x = place 67108885 [(sd.toNat, 20), (sa.toNat, 14)] := ⟨_, rfl⟩
  refine scalar x rfl (e ▸ rfl) ?_
  simp only [place_cons, place_nil] at e
  rw [major01 (by omega)]
  have f0 : fld x 0 8 = 21 := by unfold fld; omega
  have f2 : fld x 8 6 = 0 := by unfold fld; omega
  have f3 : bits x 14 6 = sa := bits_eq (by omega)
  have f4 : bits x 20 6 = sd := bits_eq (by omega)
  simp [scalarMajor01, f0, f2, f3, f4]

theorem cmp (sd : BitVec 6) (sa : BitVec 6) (sb : BitVec 6) (c : BitVec 4) : Statement (.cmp sd sa sb c) := by
  have h_sd := sd.isLt
  have h_sa := sa.isLt
  have h_sb := sb.isLt
  have h_c := c.isLt
  obtain ⟨x, e⟩ : ∃ x, x = place 67108896 [(sd.toNat, 20), (sa.toNat, 14), (sb.toNat, 8), (c.toNat, 0)] := ⟨_, rfl⟩
  refine scalar x rfl (e ▸ rfl) ?_
  simp only [place_cons, place_nil] at e
  rw [major01 (by omega)]
  have f0 : fld x 0 8 = 32 + c.toNat := by unfold fld; omega
  have f1 : fld x 4 4 = 2 := by unfold fld; omega
  have f3 : bits x 0 4 = c := bits_eq (by omega)
  have f4 : bits x 14 6 = sa := bits_eq (by omega)
  have f5 : bits x 20 6 = sd := bits_eq (by omega)
  have f6 : bits x 8 6 = sb := bits_eq (by omega)
  unfold scalarMajor01
  iterate 22 rw [if_neg (by omega)]
  simp [f1, f3, f4, f5, f6]

theorem bfx (sd : BitVec 6) (sa : BitVec 6) (sb : BitVec 6) : Statement (.bfx sd sa sb) := by
  have h_sd := sd.isLt
  have h_sa := sa.isLt
  have h_sb := sb.isLt
  obtain ⟨x, e⟩ : ∃ x, x = place 134217728 [(sd.toNat, 20), (sa.toNat, 14), (sb.toNat, 8)] := ⟨_, rfl⟩
  refine scalar x rfl (e ▸ rfl) ?_
  simp only [place_cons, place_nil] at e
  rw [major02 (by omega)]
  have f0 : fld x 0 8 = 0 := by unfold fld; omega
  have f1 : bits x 14 6 = sa := bits_eq (by omega)
  have f2 : bits x 20 6 = sd := bits_eq (by omega)
  have f3 : bits x 8 6 = sb := bits_eq (by omega)
  simp [scalarMajor02, f0, f1, f2, f3]

theorem bfi (sd : BitVec 6) (sa : BitVec 6) (sb : BitVec 6) : Statement (.bfi sd sa sb) := by
  have h_sd := sd.isLt
  have h_sa := sa.isLt
  have h_sb := sb.isLt
  obtain ⟨x, e⟩ : ∃ x, x = place 134217729 [(sd.toNat, 20), (sa.toNat, 14), (sb.toNat, 8)] := ⟨_, rfl⟩
  refine scalar x rfl (e ▸ rfl) ?_
  simp only [place_cons, place_nil] at e
  rw [major02 (by omega)]
  have f0 : fld x 0 8 = 1 := by unfold fld; omega
  have f1 : bits x 14 6 = sa := bits_eq (by omega)
  have f2 : bits x 20 6 = sd := bits_eq (by omega)
  have f3 : bits x 8 6 = sb := bits_eq (by omega)
  simp [scalarMajor02, f0, f1, f2, f3]

theorem aff (sd : BitVec 6) (sa : BitVec 6) (sb : BitVec 6) : Statement (.aff sd sa sb) := by
  have h_sd := sd.isLt
  have h_sa := sa.isLt
  have h_sb := sb.isLt
  obtain ⟨x, e⟩ : ∃ x, x = place 134217730 [(sd.toNat, 20), (sa.toNat, 14), (sb.toNat, 8)] := ⟨_, rfl⟩
  refine scalar x rfl (e ▸ rfl) ?_
  simp only [place_cons, place_nil] at e
  rw [major02 (by omega)]
  have f0 : fld x 0 8 = 2 := by unfold fld; omega
  have f1 : bits x 14 6 = sa := bits_eq (by omega)
  have f2 : bits x 20 6 = sd := bits_eq (by omega)
  have f3 : bits x 8 6 = sb := bits_eq (by omega)
  simp [scalarMajor02, f0, f1, f2, f3]

theorem addImm (sd : BitVec 6) (sa : BitVec 6) (imm : BitVec 14) : Statement (.addImm sd sa imm) := by
  have h_sd := sd.isLt
  have h_sa := sa.isLt
  have h_imm := imm.isLt
  obtain ⟨x, e⟩ : ∃ x, x = place 201326592 [(sd.toNat, 20), (sa.toNat, 14), (imm.toNat, 0)] := ⟨_, rfl⟩
  refine scalar x rfl (e ▸ rfl) ?_
  simp only [place_cons, place_nil] at e
  rw [major03 (by omega)]
  have f0 : bits x 0 14 = imm := bits_eq (by omega)
  have f1 : bits x 14 6 = sa := bits_eq (by omega)
  have f2 : bits x 20 6 = sd := bits_eq (by omega)
  simp [scalarMajor03, f0, f1, f2]

theorem andImm (sd : BitVec 6) (sa : BitVec 6) (imm : BitVec 12) : Statement (.andImm sd sa imm) := by
  have h_sd := sd.isLt
  have h_sa := sa.isLt
  have h_imm := imm.isLt
  obtain ⟨x, e⟩ : ∃ x, x = place 268435456 [(sd.toNat, 20), (sa.toNat, 14), (imm.toNat, 0)] := ⟨_, rfl⟩
  refine scalar x rfl (e ▸ rfl) ?_
  simp only [place_cons, place_nil] at e
  rw [major04 (by omega)]
  have f0 : fld x 12 2 = 0 := by unfold fld; omega
  have f1 : bits x 0 12 = imm := bits_eq (by omega)
  have f2 : bits x 14 6 = sa := bits_eq (by omega)
  have f3 : bits x 20 6 = sd := bits_eq (by omega)
  simp [scalarMajor04, f0, f1, f2, f3]

theorem orImm (sd : BitVec 6) (sa : BitVec 6) (imm : BitVec 12) : Statement (.orImm sd sa imm) := by
  have h_sd := sd.isLt
  have h_sa := sa.isLt
  have h_imm := imm.isLt
  obtain ⟨x, e⟩ : ∃ x, x = place 268439552 [(sd.toNat, 20), (sa.toNat, 14), (imm.toNat, 0)] := ⟨_, rfl⟩
  refine scalar x rfl (e ▸ rfl) ?_
  simp only [place_cons, place_nil] at e
  rw [major04 (by omega)]
  have f0 : fld x 12 2 = 1 := by unfold fld; omega
  have f1 : bits x 0 12 = imm := bits_eq (by omega)
  have f2 : bits x 14 6 = sa := bits_eq (by omega)
  have f3 : bits x 20 6 = sd := bits_eq (by omega)
  simp [scalarMajor04, f0, f1, f2, f3]

theorem xorImm (sd : BitVec 6) (sa : BitVec 6) (imm : BitVec 12) : Statement (.xorImm sd sa imm) := by
  have h_sd := sd.isLt
  have h_sa := sa.isLt
  have h_imm := imm.isLt
  obtain ⟨x, e⟩ : ∃ x, x = place 268443648 [(sd.toNat, 20), (sa.toNat, 14), (imm.toNat, 0)] := ⟨_, rfl⟩
  refine scalar x rfl (e ▸ rfl) ?_
  simp only [place_cons, place_nil] at e
  rw [major04 (by omega)]
  have f0 : fld x 12 2 = 2 := by unfold fld; omega
  have f1 : bits x 0 12 = imm := bits_eq (by omega)
  have f2 : bits x 14 6 = sa := bits_eq (by omega)
  have f3 : bits x 20 6 = sd := bits_eq (by omega)
  simp [scalarMajor04, f0, f1, f2, f3]

theorem shlImm (sd : BitVec 6) (sa : BitVec 6) (n : BitVec 6) : Statement (.shlImm sd sa n) := by
  have h_sd := sd.isLt
  have h_sa := sa.isLt
  have h_n := n.isLt
  obtain ⟨x, e⟩ : ∃ x, x = place 335544320 [(sd.toNat, 20), (sa.toNat, 14), (n.toNat, 0)] := ⟨_, rfl⟩
  refine scalar x rfl (e ▸ rfl) ?_
  simp only [place_cons, place_nil] at e
  rw [major05 (by omega)]
  have f0 : fld x 12 2 = 0 := by unfold fld; omega
  have f1 : fld x 6 6 = 0 := by unfold fld; omega
  have f2 : bits x 0 6 = n := bits_eq (by omega)
  have f3 : bits x 14 6 = sa := bits_eq (by omega)
  have f4 : bits x 20 6 = sd := bits_eq (by omega)
  simp [scalarMajor05, f0, f1, f2, f3, f4]

theorem shrImm (sd : BitVec 6) (sa : BitVec 6) (n : BitVec 6) : Statement (.shrImm sd sa n) := by
  have h_sd := sd.isLt
  have h_sa := sa.isLt
  have h_n := n.isLt
  obtain ⟨x, e⟩ : ∃ x, x = place 335548416 [(sd.toNat, 20), (sa.toNat, 14), (n.toNat, 0)] := ⟨_, rfl⟩
  refine scalar x rfl (e ▸ rfl) ?_
  simp only [place_cons, place_nil] at e
  rw [major05 (by omega)]
  have f0 : fld x 12 2 = 1 := by unfold fld; omega
  have f1 : fld x 6 6 = 0 := by unfold fld; omega
  have f2 : bits x 0 6 = n := bits_eq (by omega)
  have f3 : bits x 14 6 = sa := bits_eq (by omega)
  have f4 : bits x 20 6 = sd := bits_eq (by omega)
  simp [scalarMajor05, f0, f1, f2, f3, f4]

theorem sraImm (sd : BitVec 6) (sa : BitVec 6) (n : BitVec 6) : Statement (.sraImm sd sa n) := by
  have h_sd := sd.isLt
  have h_sa := sa.isLt
  have h_n := n.isLt
  obtain ⟨x, e⟩ : ∃ x, x = place 335552512 [(sd.toNat, 20), (sa.toNat, 14), (n.toNat, 0)] := ⟨_, rfl⟩
  refine scalar x rfl (e ▸ rfl) ?_
  simp only [place_cons, place_nil] at e
  rw [major05 (by omega)]
  have f0 : fld x 12 2 = 2 := by unfold fld; omega
  have f1 : fld x 6 6 = 0 := by unfold fld; omega
  have f2 : bits x 0 6 = n := bits_eq (by omega)
  have f3 : bits x 14 6 = sa := bits_eq (by omega)
  have f4 : bits x 20 6 = sd := bits_eq (by omega)
  simp [scalarMajor05, f0, f1, f2, f3, f4]

theorem cmpImm (sd : BitVec 6) (sa : BitVec 6) (c : BitVec 4) (imm : BitVec 10) : Statement (.cmpImm sd sa c imm) := by
  have h_sd := sd.isLt
  have h_sa := sa.isLt
  have h_c := c.isLt
  have h_imm := imm.isLt
  obtain ⟨x, e⟩ : ∃ x, x = place 402653184 [(sd.toNat, 20), (sa.toNat, 14), (c.toNat, 10), (imm.toNat, 0)] := ⟨_, rfl⟩
  refine scalar x rfl (e ▸ rfl) ?_
  simp only [place_cons, place_nil] at e
  rw [major06 (by omega)]
  have f0 : bits x 0 10 = imm := bits_eq (by omega)
  have f1 : bits x 10 4 = c := bits_eq (by omega)
  have f2 : bits x 14 6 = sa := bits_eq (by omega)
  have f3 : bits x 20 6 = sd := bits_eq (by omega)
  simp [scalarMajor06, f0, f1, f2, f3]

theorem lea (sd : BitVec 6) (imm : BitVec 14) : Statement (.lea sd imm) := by
  have h_sd := sd.isLt
  have h_imm := imm.isLt
  obtain ⟨x, e⟩ : ∃ x, x = place 469762048 [(sd.toNat, 20), (imm.toNat, 0)] := ⟨_, rfl⟩
  refine scalar x rfl (e ▸ rfl) ?_
  simp only [place_cons, place_nil] at e
  rw [major07 (by omega)]
  have f0 : fld x 14 6 = 0 := by unfold fld; omega
  have f1 : bits x 0 14 = imm := bits_eq (by omega)
  have f2 : bits x 20 6 = sd := bits_eq (by omega)
  simp [scalarMajor07, f0, f1, f2]

theorem li (sd : BitVec 6) (imm : BitVec 20) : Statement (.li sd imm) := by
  have h_sd := sd.isLt
  have h_imm := imm.isLt
  obtain ⟨x, e⟩ : ∃ x, x = place 536870912 [(sd.toNat, 20), (imm.toNat, 0)] := ⟨_, rfl⟩
  refine scalar x rfl (e ▸ rfl) ?_
  simp only [place_cons, place_nil] at e
  rw [major08 (by omega)]
  have f0 : bits x 0 20 = imm := bits_eq (by omega)
  have f1 : bits x 20 6 = sd := bits_eq (by omega)
  simp [scalarMajor08, f0, f1]

theorem lui (sd : BitVec 6) (imm : BitVec 20) : Statement (.lui sd imm) := by
  have h_sd := sd.isLt
  have h_imm := imm.isLt
  obtain ⟨x, e⟩ : ∃ x, x = place 603979776 [(sd.toNat, 20), (imm.toNat, 0)] := ⟨_, rfl⟩
  refine scalar x rfl (e ▸ rfl) ?_
  simp only [place_cons, place_nil] at e
  rw [major09 (by omega)]
  have f0 : bits x 0 20 = imm := bits_eq (by omega)
  have f1 : bits x 20 6 = sd := bits_eq (by omega)
  simp [scalarMajor09, f0, f1]

theorem ld (sd : BitVec 6) (sa : BitVec 6) (w : BitVec 3) (off : BitVec 11) : Statement (.ld sd sa w off) := by
  have h_sd := sd.isLt
  have h_sa := sa.isLt
  have h_w := w.isLt
  have h_off := off.isLt
  obtain ⟨x, e⟩ : ∃ x, x = place 671088640 [(sd.toNat, 20), (sa.toNat, 14), (w.toNat, 11), (off.toNat, 0)] := ⟨_, rfl⟩
  refine scalar x rfl (e ▸ rfl) ?_
  simp only [place_cons, place_nil] at e
  rw [major0a (by omega)]
  have f0 : bits x 0 11 = off := bits_eq (by omega)
  have f1 : bits x 11 3 = w := bits_eq (by omega)
  have f2 : bits x 14 6 = sa := bits_eq (by omega)
  have f3 : bits x 20 6 = sd := bits_eq (by omega)
  simp [scalarMajor0a, f0, f1, f2, f3]

theorem st (sd : BitVec 6) (sa : BitVec 6) (w : BitVec 3) (off : BitVec 11) : Statement (.st sd sa w off) := by
  have h_sd := sd.isLt
  have h_sa := sa.isLt
  have h_w := w.isLt
  have h_off := off.isLt
  obtain ⟨x, e⟩ : ∃ x, x = place 738197504 [(sd.toNat, 20), (sa.toNat, 14), (w.toNat, 11), (off.toNat, 0)] := ⟨_, rfl⟩
  refine scalar x rfl (e ▸ rfl) ?_
  simp only [place_cons, place_nil] at e
  rw [major0b (by omega)]
  have f0 : bits x 0 11 = off := bits_eq (by omega)
  have f1 : bits x 11 3 = w := bits_eq (by omega)
  have f2 : bits x 14 6 = sa := bits_eq (by omega)
  have f3 : bits x 20 6 = sd := bits_eq (by omega)
  simp [scalarMajor0b, f0, f1, f2, f3]

theorem ald (k : BitVec 3) (sa : BitVec 6) (sb : BitVec 6) (w : BitVec 4) : Statement (.ald k sa sb w) := by
  have h_k := k.isLt
  have h_sa := sa.isLt
  have h_sb := sb.isLt
  have h_w := w.isLt
  obtain ⟨x, e⟩ : ∃ x, x = place 805306368 [(k.toNat, 20), (sa.toNat, 14), (sb.toNat, 8), (w.toNat, 4)] := ⟨_, rfl⟩
  refine scalar x rfl (e ▸ rfl) ?_
  simp only [place_cons, place_nil] at e
  rw [major0c (by omega)]
  have f0 : fld x 0 4 = 0 := by unfold fld; omega
  have f1 : fld x 23 3 = 0 := by unfold fld; omega
  have f2 : bits x 14 6 = sa := bits_eq (by omega)
  have f3 : bits x 20 3 = k := bits_eq (by omega)
  have f4 : bits x 4 4 = w := bits_eq (by omega)
  have f5 : bits x 8 6 = sb := bits_eq (by omega)
  simp [scalarMajor0c, f0, f1, f2, f3, f4, f5]

theorem aldx (j : BitVec 3) (k : BitVec 3) (sa : BitVec 6) (sb : BitVec 6) (w : BitVec 4) : Statement (.aldx j k sa sb w) := by
  have h_j := j.isLt
  have h_k := k.isLt
  have h_sa := sa.isLt
  have h_sb := sb.isLt
  have h_w := w.isLt
  obtain ⟨x, e⟩ : ∃ x, x = place 872415232 [(j.toNat, 23), (k.toNat, 20), (sa.toNat, 14), (sb.toNat, 8), (w.toNat, 4)] := ⟨_, rfl⟩
  refine scalar x rfl (e ▸ rfl) ?_
  simp only [place_cons, place_nil] at e
  rw [major0d (by omega)]
  have f0 : fld x 0 4 = 0 := by unfold fld; omega
  have f1 : bits x 14 6 = sa := bits_eq (by omega)
  have f2 : bits x 20 3 = k := bits_eq (by omega)
  have f3 : bits x 23 3 = j := bits_eq (by omega)
  have f4 : bits x 4 4 = w := bits_eq (by omega)
  have f5 : bits x 8 6 = sb := bits_eq (by omega)
  simp [scalarMajor0d, f0, f1, f2, f3, f4, f5]

theorem lpset (sd : BitVec 6) (sa : BitVec 6) (imm : BitVec 14) : Statement (.lpset sd sa imm) := by
  have h_sd := sd.isLt
  have h_sa := sa.isLt
  have h_imm := imm.isLt
  obtain ⟨x, e⟩ : ∃ x, x = place 939524096 [(sd.toNat, 20), (sa.toNat, 14), (imm.toNat, 0)] := ⟨_, rfl⟩
  refine scalar x rfl (e ▸ rfl) ?_
  simp only [place_cons, place_nil] at e
  rw [major0e (by omega)]
  have f0 : bits x 0 14 = imm := bits_eq (by omega)
  have f1 : bits x 14 6 = sa := bits_eq (by omega)
  have f2 : bits x 20 6 = sd := bits_eq (by omega)
  simp [scalarMajor0e, f0, f1, f2]

theorem lpend (sd : BitVec 6) (imm : BitVec 14) : Statement (.lpend sd imm) := by
  have h_sd := sd.isLt
  have h_imm := imm.isLt
  obtain ⟨x, e⟩ : ∃ x, x = place 1006632960 [(sd.toNat, 20), (imm.toNat, 0)] := ⟨_, rfl⟩
  refine scalar x rfl (e ▸ rfl) ?_
  simp only [place_cons, place_nil] at e
  rw [major0f (by omega)]
  have f0 : fld x 14 6 = 0 := by unfold fld; omega
  have f1 : bits x 0 14 = imm := bits_eq (by omega)
  have f2 : bits x 20 6 = sd := bits_eq (by omega)
  simp [scalarMajor0f, f0, f1, f2]

theorem br (imm : BitVec 20) : Statement (.br imm) := by
  have h_imm := imm.isLt
  obtain ⟨x, e⟩ : ∃ x, x = place 1073741824 [(imm.toNat, 0)] := ⟨_, rfl⟩
  refine scalar x rfl (e ▸ rfl) ?_
  simp only [place_cons, place_nil] at e
  rw [major10 (by omega)]
  have f0 : fld x 20 6 = 0 := by unfold fld; omega
  have f1 : bits x 0 20 = imm := bits_eq (by omega)
  simp [scalarMajor10, f0, f1]

theorem call (imm : BitVec 20) : Statement (.call imm) := by
  have h_imm := imm.isLt
  obtain ⟨x, e⟩ : ∃ x, x = place 1140850688 [(imm.toNat, 0)] := ⟨_, rfl⟩
  refine scalar x rfl (e ▸ rfl) ?_
  simp only [place_cons, place_nil] at e
  rw [major11 (by omega)]
  have f0 : fld x 20 6 = 0 := by unfold fld; omega
  have f1 : bits x 0 20 = imm := bits_eq (by omega)
  simp [scalarMajor11, f0, f1]

theorem bc (c : BitVec 4) (sa : BitVec 6) (imm : BitVec 14) : Statement (.bc c sa imm) := by
  have h_c := c.isLt
  have h_sa := sa.isLt
  have h_imm := imm.isLt
  obtain ⟨x, e⟩ : ∃ x, x = place 1207959552 [(c.toNat, 20), (sa.toNat, 14), (imm.toNat, 0)] := ⟨_, rfl⟩
  refine scalar x rfl (e ▸ rfl) ?_
  simp only [place_cons, place_nil] at e
  rw [major12 (by omega)]
  have f0 : fld x 24 2 = 0 := by unfold fld; omega
  have f1 : bits x 0 14 = imm := bits_eq (by omega)
  have f2 : bits x 14 6 = sa := bits_eq (by omega)
  have f3 : bits x 20 4 = c := bits_eq (by omega)
  simp [scalarMajor12, f0, f1, f2, f3]

theorem jmp (sa : BitVec 6) : Statement (.jmp sa) := by
  have h_sa := sa.isLt
  obtain ⟨x, e⟩ : ∃ x, x = place 1275068416 [(sa.toNat, 14)] := ⟨_, rfl⟩
  refine scalar x rfl (e ▸ rfl) ?_
  simp only [place_cons, place_nil] at e
  rw [major13 (by omega)]
  have f0 : fld x 0 8 = 0 := by unfold fld; omega
  have f1 : fld x 20 6 = 0 := by unfold fld; omega
  have f3 : fld x 8 6 = 0 := by unfold fld; omega
  have f4 : bits x 14 6 = sa := bits_eq (by omega)
  simp [scalarMajor13, f0, f1, f3, f4]

theorem calli (sa : BitVec 6) : Statement (.calli sa) := by
  have h_sa := sa.isLt
  obtain ⟨x, e⟩ : ∃ x, x = place 1275068417 [(sa.toNat, 14)] := ⟨_, rfl⟩
  refine scalar x rfl (e ▸ rfl) ?_
  simp only [place_cons, place_nil] at e
  rw [major13 (by omega)]
  have f0 : fld x 0 8 = 1 := by unfold fld; omega
  have f1 : fld x 20 6 = 0 := by unfold fld; omega
  have f3 : fld x 8 6 = 0 := by unfold fld; omega
  have f4 : bits x 14 6 = sa := bits_eq (by omega)
  simp [scalarMajor13, f0, f1, f3, f4]

theorem ret : Statement (.ret) := by
  obtain ⟨x, e⟩ : ∃ x, x = place 1275068418 [] := ⟨_, rfl⟩
  refine scalar x rfl (e ▸ rfl) ?_
  simp only [place_nil] at e
  rw [major13 (by omega)]
  have f0 : fld x 0 8 = 2 := by unfold fld; omega
  have f2 : fld x 8 18 = 0 := by unfold fld; omega
  simp [scalarMajor13, f0, f2]

theorem brd (p : BitVec 3) (n : BitVec 1) (t : BitVec 11) (j : BitVec 11) : Statement (.brd p n t j) := by
  have h_p := p.isLt
  have h_n := n.isLt
  have h_t := t.isLt
  have h_j := j.isLt
  obtain ⟨x, e⟩ : ∃ x, x = place 1342177280 [(p.toNat, 23), (n.toNat, 22), (t.toNat, 11), (j.toNat, 0)] := ⟨_, rfl⟩
  refine scalar x rfl (e ▸ rfl) ?_
  simp only [place_cons, place_nil] at e
  rw [major14 (by omega)]
  have f0 : bits x 0 11 = j := bits_eq (by omega)
  have f1 : bits x 11 11 = t := bits_eq (by omega)
  have f2 : bits x 22 1 = n := bits_eq (by omega)
  have f3 : bits x 23 3 = p := bits_eq (by omega)
  simp [scalarMajor14, f0, f1, f2, f3]

theorem join : Statement (.join) := by
  obtain ⟨x, e⟩ : ∃ x, x = place 1409286144 [] := ⟨_, rfl⟩
  refine scalar x rfl (e ▸ rfl) ?_
  simp only [place_nil] at e
  rw [major15 (by omega)]
  have f0 : fld x 0 8 = 0 := by unfold fld; omega
  have f1 : fld x 8 18 = 0 := by unfold fld; omega
  simp [scalarMajor15, f0, f1]

theorem callv (sa : BitVec 6) (k : BitVec 3) : Statement (.callv sa k) := by
  have h_sa := sa.isLt
  have h_k := k.isLt
  obtain ⟨x, e⟩ : ∃ x, x = place 1476395008 [(sa.toNat, 14), (k.toNat, 8)] := ⟨_, rfl⟩
  refine scalar x rfl (e ▸ rfl) ?_
  simp only [place_cons, place_nil] at e
  rw [major16 (by omega)]
  have f0 : fld x 0 8 = 0 := by unfold fld; omega
  have f1 : fld x 11 3 = 0 := by unfold fld; omega
  have f2 : fld x 20 6 = 0 := by unfold fld; omega
  have f3 : bits x 14 6 = sa := bits_eq (by omega)
  have f4 : bits x 8 3 = k := bits_eq (by omega)
  simp [scalarMajor16, f0, f1, f2, f3, f4]

theorem done : Statement (.done) := by
  obtain ⟨x, e⟩ : ∃ x, x = place 1543503872 [] := ⟨_, rfl⟩
  refine scalar x rfl (e ▸ rfl) ?_
  simp only [place_nil] at e
  rw [major17 (by omega)]
  have f0 : fld x 0 8 = 0 := by unfold fld; omega
  have f1 : fld x 8 18 = 0 := by unfold fld; omega
  simp [scalarMajor17, f0, f1]

theorem lrun (r : BitVec 6) (l : BitVec 4) (imm : BitVec 16) : Statement (.lrun r l imm) := by
  have h_r := r.isLt
  have h_l := l.isLt
  have h_imm := imm.isLt
  obtain ⟨x, e⟩ : ∃ x, x = place 1610612736 [(r.toNat, 20), (l.toNat, 16), (imm.toNat, 0)] := ⟨_, rfl⟩
  refine scalar x rfl (e ▸ rfl) ?_
  simp only [place_cons, place_nil] at e
  rw [major18 (by omega)]
  have f0 : bits x 0 16 = imm := bits_eq (by omega)
  have f1 : bits x 16 4 = l := bits_eq (by omega)
  have f2 : bits x 20 6 = r := bits_eq (by omega)
  simp [scalarMajor18, f0, f1, f2]

theorem mfem (sd : BitVec 6) : Statement (.mfem sd) := by
  have h_sd := sd.isLt
  obtain ⟨x, e⟩ : ∃ x, x = place 1677721600 [(sd.toNat, 20)] := ⟨_, rfl⟩
  refine scalar x rfl (e ▸ rfl) ?_
  simp only [place_cons, place_nil] at e
  rw [major19 (by omega)]
  have f0 : fld x 0 8 = 0 := by unfold fld; omega
  have f4 : fld x 8 12 = 0 := by unfold fld; omega
  have f6 : bits x 20 6 = sd := bits_eq (by omega)
  simp [scalarMajor19, f0, f4, f6]

theorem mtem (sa : BitVec 6) : Statement (.mtem sa) := by
  have h_sa := sa.isLt
  obtain ⟨x, e⟩ : ∃ x, x = place 1677721601 [(sa.toNat, 14)] := ⟨_, rfl⟩
  refine scalar x rfl (e ▸ rfl) ?_
  simp only [place_cons, place_nil] at e
  rw [major19 (by omega)]
  have f0 : fld x 0 8 = 1 := by unfold fld; omega
  have f3 : fld x 20 6 = 0 := by unfold fld; omega
  have f5 : fld x 8 6 = 0 := by unfold fld; omega
  have f6 : bits x 14 6 = sa := bits_eq (by omega)
  simp [scalarMajor19, f0, f3, f5, f6]

theorem voteAny (sd : BitVec 6) (n : BitVec 1) (p : BitVec 3) : Statement (.voteAny sd n p) := by
  have h_sd := sd.isLt
  have h_n := n.isLt
  have h_p := p.isLt
  obtain ⟨x, e⟩ : ∃ x, x = place 1677721608 [(sd.toNat, 20), (n.toNat, 17), (p.toNat, 14)] := ⟨_, rfl⟩
  refine scalar x rfl (e ▸ rfl) ?_
  simp only [place_cons, place_nil] at e
  rw [major19 (by omega)]
  have f0 : fld x 0 8 = 8 := by unfold fld; omega
  have f1 : fld x 18 2 = 0 := by unfold fld; omega
  have f5 : fld x 8 6 = 0 := by unfold fld; omega
  have f6 : bits x 14 3 = p := bits_eq (by omega)
  have f7 : bits x 17 1 = n := bits_eq (by omega)
  have f8 : bits x 20 6 = sd := bits_eq (by omega)
  simp [scalarMajor19, f0, f1, f5, f6, f7, f8]

theorem voteAll (sd : BitVec 6) (n : BitVec 1) (p : BitVec 3) : Statement (.voteAll sd n p) := by
  have h_sd := sd.isLt
  have h_n := n.isLt
  have h_p := p.isLt
  obtain ⟨x, e⟩ : ∃ x, x = place 1677721609 [(sd.toNat, 20), (n.toNat, 17), (p.toNat, 14)] := ⟨_, rfl⟩
  refine scalar x rfl (e ▸ rfl) ?_
  simp only [place_cons, place_nil] at e
  rw [major19 (by omega)]
  have f0 : fld x 0 8 = 9 := by unfold fld; omega
  have f1 : fld x 18 2 = 0 := by unfold fld; omega
  have f5 : fld x 8 6 = 0 := by unfold fld; omega
  have f6 : bits x 14 3 = p := bits_eq (by omega)
  have f7 : bits x 17 1 = n := bits_eq (by omega)
  have f8 : bits x 20 6 = sd := bits_eq (by omega)
  simp [scalarMajor19, f0, f1, f5, f6, f7, f8]

theorem voteBall (sd : BitVec 6) (n : BitVec 1) (p : BitVec 3) : Statement (.voteBall sd n p) := by
  have h_sd := sd.isLt
  have h_n := n.isLt
  have h_p := p.isLt
  obtain ⟨x, e⟩ : ∃ x, x = place 1677721610 [(sd.toNat, 20), (n.toNat, 17), (p.toNat, 14)] := ⟨_, rfl⟩
  refine scalar x rfl (e ▸ rfl) ?_
  simp only [place_cons, place_nil] at e
  rw [major19 (by omega)]
  have f0 : fld x 0 8 = 10 := by unfold fld; omega
  have f1 : fld x 18 2 = 0 := by unfold fld; omega
  have f5 : fld x 8 6 = 0 := by unfold fld; omega
  have f6 : bits x 14 3 = p := bits_eq (by omega)
  have f7 : bits x 17 1 = n := bits_eq (by omega)
  have f8 : bits x 20 6 = sd := bits_eq (by omega)
  simp [scalarMajor19, f0, f1, f5, f6, f7, f8]

theorem lget (sd : BitVec 6) (r : BitVec 6) (sb : BitVec 6) (h : BitVec 2) : Statement (.lget sd r sb h) := by
  have h_sd := sd.isLt
  have h_r := r.isLt
  have h_sb := sb.isLt
  have h_h := h.isLt
  obtain ⟨x, e⟩ : ∃ x, x = place 1677721616 [(sd.toNat, 20), (r.toNat, 14), (sb.toNat, 8), (h.toNat, 0)] := ⟨_, rfl⟩
  refine scalar x rfl (e ▸ rfl) ?_
  simp only [place_cons, place_nil] at e
  rw [major19 (by omega)]
  have n0 : ¬ fld x 0 8 = 0 := by unfold fld; omega
  have n1 : ¬ fld x 0 8 = 1 := by unfold fld; omega
  have n8 : ¬ fld x 0 8 = 8 := by unfold fld; omega
  have n9 : ¬ fld x 0 8 = 9 := by unfold fld; omega
  have n10 : ¬ fld x 0 8 = 10 := by unfold fld; omega
  have f2 : fld x 2 6 = 4 := by unfold fld; omega
  have f6 : bits x 0 2 = h := bits_eq (by omega)
  have f7 : bits x 14 6 = r := bits_eq (by omega)
  have f8 : bits x 20 6 = sd := bits_eq (by omega)
  have f9 : bits x 8 6 = sb := bits_eq (by omega)
  simp [scalarMajor19, n0, n1, n8, n9, n10, f2, f6, f7, f8, f9]

theorem arrive (sd : BitVec 6) (g : BitVec 8) : Statement (.arrive sd g) := by
  have h_sd := sd.isLt
  have h_g := g.isLt
  obtain ⟨x, e⟩ : ∃ x, x = place 1744830464 [(sd.toNat, 20), (g.toNat, 12)] := ⟨_, rfl⟩
  refine scalar x rfl (e ▸ rfl) ?_
  simp only [place_cons, place_nil] at e
  rw [major1a (by omega)]
  have f0 : fld x 0 4 = 0 := by unfold fld; omega
  have f1 : fld x 4 4 = 0 := by unfold fld; omega
  have f2 : fld x 8 4 = 0 := by unfold fld; omega
  have f3 : bits x 12 8 = g := bits_eq (by omega)
  have f4 : bits x 20 6 = sd := bits_eq (by omega)
  simp [scalarMajor1a, f0, f1, f2, f3, f4]

theorem await (sd : BitVec 6) (g : BitVec 8) : Statement (.await sd g) := by
  have h_sd := sd.isLt
  have h_g := g.isLt
  obtain ⟨x, e⟩ : ∃ x, x = place 1744830480 [(sd.toNat, 20), (g.toNat, 12)] := ⟨_, rfl⟩
  refine scalar x rfl (e ▸ rfl) ?_
  simp only [place_cons, place_nil] at e
  rw [major1a (by omega)]
  have f0 : fld x 0 4 = 0 := by unfold fld; omega
  have f1 : fld x 4 4 = 1 := by unfold fld; omega
  have f2 : fld x 8 4 = 0 := by unfold fld; omega
  have f3 : bits x 12 8 = g := bits_eq (by omega)
  have f4 : bits x 20 6 = sd := bits_eq (by omega)
  simp [scalarMajor1a, f0, f1, f2, f3, f4]

theorem bar (sd : BitVec 6) (g : BitVec 8) : Statement (.bar sd g) := by
  have h_sd := sd.isLt
  have h_g := g.isLt
  obtain ⟨x, e⟩ : ∃ x, x = place 1744830496 [(sd.toNat, 20), (g.toNat, 12)] := ⟨_, rfl⟩
  refine scalar x rfl (e ▸ rfl) ?_
  simp only [place_cons, place_nil] at e
  rw [major1a (by omega)]
  have f0 : fld x 0 4 = 0 := by unfold fld; omega
  have f1 : fld x 4 4 = 2 := by unfold fld; omega
  have f2 : fld x 8 4 = 0 := by unfold fld; omega
  have f3 : bits x 12 8 = g := bits_eq (by omega)
  have f4 : bits x 20 6 = sd := bits_eq (by omega)
  simp [scalarMajor1a, f0, f1, f2, f3, f4]

theorem cbwait (sd : BitVec 6) (c : BitVec 4) : Statement (.cbwait sd c) := by
  have h_sd := sd.isLt
  have h_c := c.isLt
  obtain ⟨x, e⟩ : ∃ x, x = place 1811939328 [(sd.toNat, 20), (c.toNat, 0)] := ⟨_, rfl⟩
  refine scalar x rfl (e ▸ rfl) ?_
  simp only [place_cons, place_nil] at e
  rw [major1b (by omega)]
  have f0 : fld x 4 4 = 0 := by unfold fld; omega
  have f1 : fld x 8 12 = 0 := by unfold fld; omega
  have f2 : bits x 0 4 = c := bits_eq (by omega)
  have f3 : bits x 20 6 = sd := bits_eq (by omega)
  simp [scalarMajor1b, f0, f1, f2, f3]

theorem cbpoll (sd : BitVec 6) (c : BitVec 4) : Statement (.cbpoll sd c) := by
  have h_sd := sd.isLt
  have h_c := c.isLt
  obtain ⟨x, e⟩ : ∃ x, x = place 1811939344 [(sd.toNat, 20), (c.toNat, 0)] := ⟨_, rfl⟩
  refine scalar x rfl (e ▸ rfl) ?_
  simp only [place_cons, place_nil] at e
  rw [major1b (by omega)]
  have f0 : fld x 4 4 = 1 := by unfold fld; omega
  have f1 : fld x 8 12 = 0 := by unfold fld; omega
  have f2 : bits x 0 4 = c := bits_eq (by omega)
  have f3 : bits x 20 6 = sd := bits_eq (by omega)
  simp [scalarMajor1b, f0, f1, f2, f3]

theorem rgive (n : BitVec 6) : Statement (.rgive n) := by
  have h_n := n.isLt
  obtain ⟨x, e⟩ : ∃ x, x = place 1879048192 [(n.toNat, 8)] := ⟨_, rfl⟩
  refine scalar x rfl (e ▸ rfl) ?_
  simp only [place_cons, place_nil] at e
  rw [major1c (by omega)]
  have f0 : fld x 0 8 = 0 := by unfold fld; omega
  have f1 : fld x 14 12 = 0 := by unfold fld; omega
  have f2 : bits x 8 6 = n := bits_eq (by omega)
  simp [scalarMajor1c, f0, f1, f2]

theorem rclaim (n : BitVec 6) : Statement (.rclaim n) := by
  have h_n := n.isLt
  obtain ⟨x, e⟩ : ∃ x, x = place 1879048193 [(n.toNat, 8)] := ⟨_, rfl⟩
  refine scalar x rfl (e ▸ rfl) ?_
  simp only [place_cons, place_nil] at e
  rw [major1c (by omega)]
  have f0 : fld x 0 8 = 1 := by unfold fld; omega
  have f1 : fld x 14 12 = 0 := by unfold fld; omega
  have f2 : bits x 8 6 = n := bits_eq (by omega)
  simp [scalarMajor1c, f0, f1, f2]

theorem enter (k : BitVec 14) : Statement (.enter k) := by
  have h_k := k.isLt
  obtain ⟨x, e⟩ : ∃ x, x = place 1946157056 [(k.toNat, 0)] := ⟨_, rfl⟩
  refine scalar x rfl (e ▸ rfl) ?_
  simp only [place_cons, place_nil] at e
  rw [major1d (by omega)]
  have f0 : fld x 14 6 = 0 := by unfold fld; omega
  have f1 : fld x 20 1 = 0 := by unfold fld; omega
  have f2 : fld x 21 5 = 0 := by unfold fld; omega
  have f3 : bits x 0 14 = k := bits_eq (by omega)
  simp [scalarMajor1d, f0, f1, f2, f3]

theorem leave (k : BitVec 14) : Statement (.leave k) := by
  have h_k := k.isLt
  obtain ⟨x, e⟩ : ∃ x, x = place 1947205632 [(k.toNat, 0)] := ⟨_, rfl⟩
  refine scalar x rfl (e ▸ rfl) ?_
  simp only [place_cons, place_nil] at e
  rw [major1d (by omega)]
  have f0 : fld x 14 6 = 0 := by unfold fld; omega
  have f1 : fld x 20 1 = 1 := by unfold fld; omega
  have f2 : fld x 21 5 = 0 := by unfold fld; omega
  have f3 : bits x 0 14 = k := bits_eq (by omega)
  simp [scalarMajor1d, f0, f1, f2, f3]

theorem mfk (sd : BitVec 6) (s : BitVec 8) : Statement (.mfk sd s) := by
  have h_sd := sd.isLt
  have h_s := s.isLt
  obtain ⟨x, e⟩ : ∃ x, x = place 2013265920 [(sd.toNat, 20), (s.toNat, 0)] := ⟨_, rfl⟩
  refine scalar x rfl (e ▸ rfl) ?_
  simp only [place_cons, place_nil] at e
  rw [major1e (by omega)]
  have f1 : fld x 8 1 = 0 := by unfold fld; omega
  have f2 : fld x 9 11 = 0 := by unfold fld; omega
  have f4 : bits x 0 8 = s := bits_eq (by omega)
  have f5 : bits x 20 6 = sd := bits_eq (by omega)
  simp [scalarMajor1e, f1, f2, f4, f5]

theorem mtk (sa : BitVec 6) (s : BitVec 8) : Statement (.mtk sa s) := by
  have h_sa := sa.isLt
  have h_s := s.isLt
  obtain ⟨x, e⟩ : ∃ x, x = place 2013266176 [(sa.toNat, 14), (s.toNat, 0)] := ⟨_, rfl⟩
  refine scalar x rfl (e ▸ rfl) ?_
  simp only [place_cons, place_nil] at e
  rw [major1e (by omega)]
  have f0 : fld x 20 6 = 0 := by unfold fld; omega
  have f1 : fld x 8 1 = 1 := by unfold fld; omega
  have f3 : fld x 9 5 = 0 := by unfold fld; omega
  have f4 : bits x 0 8 = s := bits_eq (by omega)
  have f5 : bits x 14 6 = sa := bits_eq (by omega)
  simp [scalarMajor1e, f0, f1, f3, f4, f5]

theorem nop : Statement (.nop) := by
  obtain ⟨x, e⟩ : ∃ x, x = place 2080374784 [] := ⟨_, rfl⟩
  refine scalar x rfl (e ▸ rfl) ?_
  simp only [place_nil] at e
  rw [major1f (by omega)]
  have f0 : fld x 0 8 = 0 := by unfold fld; omega
  have f4 : fld x 8 18 = 0 := by unfold fld; omega
  simp [scalarMajor1f, f0, f4]

theorem trap (k : BitVec 6) : Statement (.trap k) := by
  have h_k := k.isLt
  obtain ⟨x, e⟩ : ∃ x, x = place 2080374785 [(k.toNat, 8)] := ⟨_, rfl⟩
  refine scalar x rfl (e ▸ rfl) ?_
  simp only [place_cons, place_nil] at e
  rw [major1f (by omega)]
  have f0 : fld x 0 8 = 1 := by unfold fld; omega
  have f1 : fld x 14 12 = 0 := by unfold fld; omega
  have f5 : bits x 8 6 = k := bits_eq (by omega)
  simp [scalarMajor1f, f0, f1, f5]

theorem brk : Statement (.brk) := by
  obtain ⟨x, e⟩ : ∃ x, x = place 2080374786 [] := ⟨_, rfl⟩
  refine scalar x rfl (e ▸ rfl) ?_
  simp only [place_nil] at e
  rw [major1f (by omega)]
  have f0 : fld x 0 8 = 2 := by unfold fld; omega
  have f4 : fld x 8 18 = 0 := by unfold fld; omega
  simp [scalarMajor1f, f0, f4]

theorem ifence : Statement (.ifence) := by
  obtain ⟨x, e⟩ : ∃ x, x = place 2080374787 [] := ⟨_, rfl⟩
  refine scalar x rfl (e ▸ rfl) ?_
  simp only [place_nil] at e
  rw [major1f (by omega)]
  have f0 : fld x 0 8 = 3 := by unfold fld; omega
  have f4 : fld x 8 18 = 0 := by unfold fld; omega
  simp [scalarMajor1f, f0, f4]

theorem cflush (sa : BitVec 6) (sb : BitVec 6) : Statement (.cflush sa sb) := by
  have h_sa := sa.isLt
  have h_sb := sb.isLt
  obtain ⟨x, e⟩ : ∃ x, x = place 2080374788 [(sa.toNat, 14), (sb.toNat, 8)] := ⟨_, rfl⟩
  refine scalar x rfl (e ▸ rfl) ?_
  simp only [place_cons, place_nil] at e
  rw [major1f (by omega)]
  have f0 : fld x 0 8 = 4 := by unfold fld; omega
  have f2 : fld x 20 6 = 0 := by unfold fld; omega
  have f5 : bits x 14 6 = sa := bits_eq (by omega)
  have f6 : bits x 8 6 = sb := bits_eq (by omega)
  simp [scalarMajor1f, f0, f2, f5, f6]

theorem cycl (sd : BitVec 6) : Statement (.cycl sd) := by
  have h_sd := sd.isLt
  obtain ⟨x, e⟩ : ∃ x, x = place 2080374789 [(sd.toNat, 20)] := ⟨_, rfl⟩
  refine scalar x rfl (e ▸ rfl) ?_
  simp only [place_cons, place_nil] at e
  rw [major1f (by omega)]
  have f0 : fld x 0 8 = 5 := by unfold fld; omega
  have f3 : fld x 8 12 = 0 := by unfold fld; omega
  have f5 : bits x 20 6 = sd := bits_eq (by omega)
  simp [scalarMajor1f, f0, f3, f5]

theorem phint (sa : BitVec 6) (sb : BitVec 6) : Statement (.phint sa sb) := by
  have h_sa := sa.isLt
  have h_sb := sb.isLt
  obtain ⟨x, e⟩ : ∃ x, x = place 2080374790 [(sa.toNat, 14), (sb.toNat, 8)] := ⟨_, rfl⟩
  refine scalar x rfl (e ▸ rfl) ?_
  simp only [place_cons, place_nil] at e
  rw [major1f (by omega)]
  have f0 : fld x 0 8 = 6 := by unfold fld; omega
  have f2 : fld x 20 6 = 0 := by unfold fld; omega
  have f5 : bits x 14 6 = sa := bits_eq (by omega)
  have f6 : bits x 8 6 = sb := bits_eq (by omega)
  simp [scalarMajor1f, f0, f2, f5, f6]

theorem ldacq (sd : BitVec 6) (sa : BitVec 6) (s : BitVec 3) (w : BitVec 1) (off : BitVec 10) : Statement (.ldacq sd sa s w off) := by
  have h_sd := sd.isLt
  have h_sa := sa.isLt
  have h_s := s.isLt
  have h_w := w.isLt
  have h_off := off.isLt
  obtain ⟨x, e⟩ : ∃ x, x = place 2147483648 [(sd.toNat, 20), (sa.toNat, 14), (s.toNat, 11), (w.toNat, 10), (off.toNat, 0)] := ⟨_, rfl⟩
  refine scalar x rfl (e ▸ rfl) ?_
  simp only [place_cons, place_nil] at e
  rw [major20 (by omega)]
  have f0 : bits x 0 10 = off := bits_eq (by omega)
  have f1 : bits x 10 1 = w := bits_eq (by omega)
  have f2 : bits x 11 3 = s := bits_eq (by omega)
  have f3 : bits x 14 6 = sa := bits_eq (by omega)
  have f4 : bits x 20 6 = sd := bits_eq (by omega)
  simp [scalarMajor20, f0, f1, f2, f3, f4]

theorem strel (sd : BitVec 6) (sa : BitVec 6) (s : BitVec 3) (w : BitVec 1) (off : BitVec 10) : Statement (.strel sd sa s w off) := by
  have h_sd := sd.isLt
  have h_sa := sa.isLt
  have h_s := s.isLt
  have h_w := w.isLt
  have h_off := off.isLt
  obtain ⟨x, e⟩ : ∃ x, x = place 2214592512 [(sd.toNat, 20), (sa.toNat, 14), (s.toNat, 11), (w.toNat, 10), (off.toNat, 0)] := ⟨_, rfl⟩
  refine scalar x rfl (e ▸ rfl) ?_
  simp only [place_cons, place_nil] at e
  rw [major21 (by omega)]
  have f0 : bits x 0 10 = off := bits_eq (by omega)
  have f1 : bits x 10 1 = w := bits_eq (by omega)
  have f2 : bits x 11 3 = s := bits_eq (by omega)
  have f3 : bits x 14 6 = sa := bits_eq (by omega)
  have f4 : bits x 20 6 = sd := bits_eq (by omega)
  simp [scalarMajor21, f0, f1, f2, f3, f4]

theorem fence (k : BitVec 2) (s : BitVec 3) : Statement (.fence k s) := by
  have h_k := k.isLt
  have h_s := s.isLt
  obtain ⟨x, e⟩ : ∃ x, x = place 2281701376 [(k.toNat, 23), (s.toNat, 20)] := ⟨_, rfl⟩
  refine scalar x rfl (e ▸ rfl) ?_
  simp only [place_cons, place_nil] at e
  rw [major22 (by omega)]
  have f0 : fld x 0 8 = 0 := by unfold fld; omega
  have f1 : fld x 25 1 = 0 := by unfold fld; omega
  have f2 : fld x 8 12 = 0 := by unfold fld; omega
  have f4 : bits x 20 3 = s := bits_eq (by omega)
  have f5 : bits x 23 2 = k := bits_eq (by omega)
  simp [scalarMajor22, f0, f1, f2, f4, f5]

theorem relflush : Statement (.relflush) := by
  obtain ⟨x, e⟩ : ∃ x, x = place 2281701377 [] := ⟨_, rfl⟩
  refine scalar x rfl (e ▸ rfl) ?_
  simp only [place_nil] at e
  rw [major22 (by omega)]
  have f0 : fld x 0 8 = 1 := by unfold fld; omega
  have f3 : fld x 8 18 = 0 := by unfold fld; omega
  simp [scalarMajor22, f0, f3]

theorem xcopy (sd : BitVec 6) (sa : BitVec 6) (sb : BitVec 6) (r : BitVec 2) (m : BitVec 2) : Statement (.xcopy sd sa sb r m) := by
  have h_sd := sd.isLt
  have h_sa := sa.isLt
  have h_sb := sb.isLt
  have h_r := r.isLt
  have h_m := m.isLt
  obtain ⟨x, e⟩ : ∃ x, x = place 2348810240 [(sd.toNat, 20), (sa.toNat, 14), (sb.toNat, 8), (r.toNat, 6), (m.toNat, 4)] := ⟨_, rfl⟩
  refine scalar x rfl (e ▸ rfl) ?_
  simp only [place_cons, place_nil] at e
  rw [major23 (by omega)]
  have f0 : fld x 0 4 = 0 := by unfold fld; omega
  have f1 : bits x 14 6 = sa := bits_eq (by omega)
  have f2 : bits x 20 6 = sd := bits_eq (by omega)
  have f3 : bits x 4 2 = m := bits_eq (by omega)
  have f4 : bits x 6 2 = r := bits_eq (by omega)
  have f5 : bits x 8 6 = sb := bits_eq (by omega)
  simp [scalarMajor23, f0, f1, f2, f3, f4, f5]

theorem xseal (sd : BitVec 6) : Statement (.xseal sd) := by
  have h_sd := sd.isLt
  obtain ⟨x, e⟩ : ∃ x, x = place 2415919104 [(sd.toNat, 20)] := ⟨_, rfl⟩
  refine scalar x rfl (e ▸ rfl) ?_
  simp only [place_cons, place_nil] at e
  rw [major24 (by omega)]
  have f0 : fld x 0 4 = 0 := by unfold fld; omega
  have f3 : fld x 4 4 = 0 := by unfold fld; omega
  have f4 : fld x 8 12 = 0 := by unfold fld; omega
  have f5 : bits x 20 6 = sd := bits_eq (by omega)
  simp [scalarMajor24, f0, f3, f4, f5]

theorem xwait (n : BitVec 4) : Statement (.xwait n) := by
  have h_n := n.isLt
  obtain ⟨x, e⟩ : ∃ x, x = place 2415919120 [(n.toNat, 8)] := ⟨_, rfl⟩
  refine scalar x rfl (e ▸ rfl) ?_
  simp only [place_cons, place_nil] at e
  rw [major24 (by omega)]
  have f0 : fld x 0 4 = 0 := by unfold fld; omega
  have f1 : fld x 12 14 = 0 := by unfold fld; omega
  have f3 : fld x 4 4 = 1 := by unfold fld; omega
  have f5 : bits x 8 4 = n := bits_eq (by omega)
  simp [scalarMajor24, f0, f1, f3, f5]

theorem xpoll (sd : BitVec 6) (n : BitVec 4) : Statement (.xpoll sd n) := by
  have h_sd := sd.isLt
  have h_n := n.isLt
  obtain ⟨x, e⟩ : ∃ x, x = place 2415919136 [(sd.toNat, 20), (n.toNat, 8)] := ⟨_, rfl⟩
  refine scalar x rfl (e ▸ rfl) ?_
  simp only [place_cons, place_nil] at e
  rw [major24 (by omega)]
  have f0 : fld x 0 4 = 0 := by unfold fld; omega
  have f2 : fld x 12 8 = 0 := by unfold fld; omega
  have f3 : fld x 4 4 = 2 := by unfold fld; omega
  have f5 : bits x 20 6 = sd := bits_eq (by omega)
  have f6 : bits x 8 4 = n := bits_eq (by omega)
  simp [scalarMajor24, f0, f2, f3, f5, f6]

theorem tfill (t : BitVec 6) (sa : BitVec 6) (sb : BitVec 6) (c : BitVec 4) : Statement (.tfill t sa sb c) := by
  have h_t := t.isLt
  have h_sa := sa.isLt
  have h_sb := sb.isLt
  have h_c := c.isLt
  obtain ⟨x, e⟩ : ∃ x, x = place 2483027968 [(t.toNat, 20), (sa.toNat, 14), (sb.toNat, 8), (c.toNat, 0)] := ⟨_, rfl⟩
  refine scalar x rfl (e ▸ rfl) ?_
  simp only [place_cons, place_nil] at e
  rw [major25 (by omega)]
  have f2 : fld x 4 4 = 0 := by unfold fld; omega
  have f4 : bits x 0 4 = c := bits_eq (by omega)
  have f5 : bits x 14 6 = sa := bits_eq (by omega)
  have f6 : bits x 20 6 = t := bits_eq (by omega)
  have f7 : bits x 8 6 = sb := bits_eq (by omega)
  simp [scalarMajor25, f2, f4, f5, f6, f7]

theorem tfillOb (t : BitVec 6) (sa : BitVec 6) (sb : BitVec 6) (c : BitVec 4) : Statement (.tfillOb t sa sb c) := by
  have h_t := t.isLt
  have h_sa := sa.isLt
  have h_sb := sb.isLt
  have h_c := c.isLt
  obtain ⟨x, e⟩ : ∃ x, x = place 2483028032 [(t.toNat, 20), (sa.toNat, 14), (sb.toNat, 8), (c.toNat, 0)] := ⟨_, rfl⟩
  refine scalar x rfl (e ▸ rfl) ?_
  simp only [place_cons, place_nil] at e
  rw [major25 (by omega)]
  have f2 : fld x 4 4 = 4 := by unfold fld; omega
  have f4 : bits x 0 4 = c := bits_eq (by omega)
  have f5 : bits x 14 6 = sa := bits_eq (by omega)
  have f6 : bits x 20 6 = t := bits_eq (by omega)
  have f7 : bits x 8 6 = sb := bits_eq (by omega)
  simp [scalarMajor25, f2, f4, f5, f6, f7]

theorem tdrain (t : BitVec 6) (sa : BitVec 6) (sb : BitVec 6) (c : BitVec 4) : Statement (.tdrain t sa sb c) := by
  have h_t := t.isLt
  have h_sa := sa.isLt
  have h_sb := sb.isLt
  have h_c := c.isLt
  obtain ⟨x, e⟩ : ∃ x, x = place 2483027984 [(t.toNat, 20), (sa.toNat, 14), (sb.toNat, 8), (c.toNat, 0)] := ⟨_, rfl⟩
  refine scalar x rfl (e ▸ rfl) ?_
  simp only [place_cons, place_nil] at e
  rw [major25 (by omega)]
  have f2 : fld x 4 4 = 1 := by unfold fld; omega
  have f4 : bits x 0 4 = c := bits_eq (by omega)
  have f5 : bits x 14 6 = sa := bits_eq (by omega)
  have f6 : bits x 20 6 = t := bits_eq (by omega)
  have f7 : bits x 8 6 = sb := bits_eq (by omega)
  simp [scalarMajor25, f2, f4, f5, f6, f7]

theorem tstate (sd : BitVec 6) (t : BitVec 6) : Statement (.tstate sd t) := by
  have h_sd := sd.isLt
  have h_t := t.isLt
  obtain ⟨x, e⟩ : ∃ x, x = place 2483028000 [(sd.toNat, 20), (t.toNat, 8)] := ⟨_, rfl⟩
  refine scalar x rfl (e ▸ rfl) ?_
  simp only [place_cons, place_nil] at e
  rw [major25 (by omega)]
  have f0 : fld x 0 4 = 0 := by unfold fld; omega
  have f1 : fld x 14 6 = 0 := by unfold fld; omega
  have f2 : fld x 4 4 = 2 := by unfold fld; omega
  have f4 : bits x 20 6 = sd := bits_eq (by omega)
  have f5 : bits x 8 6 = t := bits_eq (by omega)
  simp [scalarMajor25, f0, f1, f2, f4, f5]

theorem tfree (t : BitVec 6) : Statement (.tfree t) := by
  have h_t := t.isLt
  obtain ⟨x, e⟩ : ∃ x, x = place 2483028016 [(t.toNat, 20)] := ⟨_, rfl⟩
  refine scalar x rfl (e ▸ rfl) ?_
  simp only [place_cons, place_nil] at e
  rw [major25 (by omega)]
  have f0 : fld x 0 4 = 0 := by unfold fld; omega
  have f2 : fld x 4 4 = 3 := by unfold fld; omega
  have f3 : fld x 8 12 = 0 := by unfold fld; omega
  have f4 : bits x 20 6 = t := bits_eq (by omega)
  simp [scalarMajor25, f0, f2, f3, f4]

theorem capinit (sa : BitVec 6) (sb : BitVec 6) : Statement (.capinit sa sb) := by
  have h_sa := sa.isLt
  have h_sb := sb.isLt
  obtain ⟨x, e⟩ : ∃ x, x = place 2550136832 [(sa.toNat, 14), (sb.toNat, 8)] := ⟨_, rfl⟩
  refine scalar x rfl (e ▸ rfl) ?_
  simp only [place_cons, place_nil] at e
  rw [major26 (by omega)]
  have f0 : fld x 0 4 = 0 := by unfold fld; omega
  have f1 : fld x 20 6 = 0 := by unfold fld; omega
  have f2 : fld x 4 4 = 0 := by unfold fld; omega
  have f5 : bits x 14 6 = sa := bits_eq (by omega)
  have f6 : bits x 8 6 = sb := bits_eq (by omega)
  simp [scalarMajor26, f0, f1, f2, f5, f6]

theorem capin (sa : BitVec 6) : Statement (.capin sa) := by
  have h_sa := sa.isLt
  obtain ⟨x, e⟩ : ∃ x, x = place 2550136848 [(sa.toNat, 14)] := ⟨_, rfl⟩
  refine scalar x rfl (e ▸ rfl) ?_
  simp only [place_cons, place_nil] at e
  rw [major26 (by omega)]
  have f0 : fld x 0 4 = 0 := by unfold fld; omega
  have f1 : fld x 20 6 = 0 := by unfold fld; omega
  have f2 : fld x 4 4 = 1 := by unfold fld; omega
  have f4 : fld x 8 6 = 0 := by unfold fld; omega
  have f5 : bits x 14 6 = sa := bits_eq (by omega)
  simp [scalarMajor26, f0, f1, f2, f4, f5]

theorem capstep : Statement (.capstep) := by
  obtain ⟨x, e⟩ : ∃ x, x = place 2550136864 [] := ⟨_, rfl⟩
  refine scalar x rfl (e ▸ rfl) ?_
  simp only [place_nil] at e
  rw [major26 (by omega)]
  have f0 : fld x 0 4 = 0 := by unfold fld; omega
  have f2 : fld x 4 4 = 2 := by unfold fld; omega
  have f3 : fld x 8 18 = 0 := by unfold fld; omega
  simp [scalarMajor26, f0, f2, f3]

theorem capout : Statement (.capout) := by
  obtain ⟨x, e⟩ : ∃ x, x = place 2550136880 [] := ⟨_, rfl⟩
  refine scalar x rfl (e ▸ rfl) ?_
  simp only [place_nil] at e
  rw [major26 (by omega)]
  have f0 : fld x 0 4 = 0 := by unfold fld; omega
  have f2 : fld x 4 4 = 3 := by unfold fld; omega
  have f3 : fld x 8 18 = 0 := by unfold fld; omega
  simp [scalarMajor26, f0, f2, f3]

theorem capres (sd : BitVec 6) (sa : BitVec 6) : Statement (.capres sd sa) := by
  have h_sd := sd.isLt
  have h_sa := sa.isLt
  obtain ⟨x, e⟩ : ∃ x, x = place 2550136896 [(sd.toNat, 20), (sa.toNat, 14)] := ⟨_, rfl⟩
  refine scalar x rfl (e ▸ rfl) ?_
  simp only [place_cons, place_nil] at e
  rw [major26 (by omega)]
  have f0 : fld x 0 4 = 0 := by unfold fld; omega
  have f2 : fld x 4 4 = 4 := by unfold fld; omega
  have f4 : fld x 8 6 = 0 := by unfold fld; omega
  have f5 : bits x 14 6 = sa := bits_eq (by omega)
  have f6 : bits x 20 6 = sd := bits_eq (by omega)
  simp [scalarMajor26, f0, f2, f4, f5, f6]

theorem obres (k : BitVec 4) (sa : BitVec 6) (sb : BitVec 6) : Statement (.obres k sa sb) := by
  have h_k := k.isLt
  have h_sa := sa.isLt
  have h_sb := sb.isLt
  obtain ⟨x, e⟩ : ∃ x, x = place 2617245696 [(k.toNat, 20), (sa.toNat, 14), (sb.toNat, 8)] := ⟨_, rfl⟩
  refine scalar x rfl (e ▸ rfl) ?_
  simp only [place_cons, place_nil] at e
  rw [major27 (by omega)]
  have f0 : fld x 0 4 = 0 := by unfold fld; omega
  have f2 : fld x 24 2 = 0 := by unfold fld; omega
  have f3 : fld x 4 4 = 0 := by unfold fld; omega
  have f5 : bits x 14 6 = sa := bits_eq (by omega)
  have f6 : bits x 20 4 = k := bits_eq (by omega)
  have f7 : bits x 8 6 = sb := bits_eq (by omega)
  simp [scalarMajor27, f0, f2, f3, f5, f6, f7]

theorem obrel (k : BitVec 4) : Statement (.obrel k) := by
  have h_k := k.isLt
  obtain ⟨x, e⟩ : ∃ x, x = place 2617245712 [(k.toNat, 20)] := ⟨_, rfl⟩
  refine scalar x rfl (e ▸ rfl) ?_
  simp only [place_cons, place_nil] at e
  rw [major27 (by omega)]
  have f0 : fld x 0 4 = 0 := by unfold fld; omega
  have f2 : fld x 24 2 = 0 := by unfold fld; omega
  have f3 : fld x 4 4 = 1 := by unfold fld; omega
  have f4 : fld x 8 12 = 0 := by unfold fld; omega
  have f5 : bits x 20 4 = k := bits_eq (by omega)
  simp [scalarMajor27, f0, f2, f3, f4, f5]

theorem obfmt (k : BitVec 4) (sb : BitVec 6) : Statement (.obfmt k sb) := by
  have h_k := k.isLt
  have h_sb := sb.isLt
  obtain ⟨x, e⟩ : ∃ x, x = place 2617245728 [(k.toNat, 20), (sb.toNat, 8)] := ⟨_, rfl⟩
  refine scalar x rfl (e ▸ rfl) ?_
  simp only [place_cons, place_nil] at e
  rw [major27 (by omega)]
  have f0 : fld x 0 4 = 0 := by unfold fld; omega
  have f1 : fld x 14 6 = 0 := by unfold fld; omega
  have f2 : fld x 24 2 = 0 := by unfold fld; omega
  have f3 : fld x 4 4 = 2 := by unfold fld; omega
  have f5 : bits x 20 4 = k := bits_eq (by omega)
  have f6 : bits x 8 6 = sb := bits_eq (by omega)
  simp [scalarMajor27, f0, f1, f2, f3, f5, f6]

theorem mma (sd : BitVec 6) (sa : BitVec 6) (k : BitVec 6) (c : BitVec 4) : Statement (.mma sd sa k c) := by
  have h_sd := sd.isLt
  have h_sa := sa.isLt
  have h_k := k.isLt
  have h_c := c.isLt
  obtain ⟨x, e⟩ : ∃ x, x = place 2684354560 [(sd.toNat, 20), (sa.toNat, 14), (k.toNat, 8), (c.toNat, 0)] := ⟨_, rfl⟩
  refine scalar x rfl (e ▸ rfl) ?_
  simp only [place_cons, place_nil] at e
  rw [major28 (by omega)]
  have f0 : fld x 4 4 = 0 := by unfold fld; omega
  have f1 : bits x 0 4 = c := bits_eq (by omega)
  have f2 : bits x 14 6 = sa := bits_eq (by omega)
  have f3 : bits x 20 6 = sd := bits_eq (by omega)
  have f4 : bits x 8 6 = k := bits_eq (by omega)
  simp [scalarMajor28, f0, f1, f2, f3, f4]

theorem mmaBm (sd : BitVec 6) (sa : BitVec 6) (k : BitVec 6) (c : BitVec 4) : Statement (.mmaBm sd sa k c) := by
  have h_sd := sd.isLt
  have h_sa := sa.isLt
  have h_k := k.isLt
  have h_c := c.isLt
  obtain ⟨x, e⟩ : ∃ x, x = place 2684354576 [(sd.toNat, 20), (sa.toNat, 14), (k.toNat, 8), (c.toNat, 0)] := ⟨_, rfl⟩
  refine scalar x rfl (e ▸ rfl) ?_
  simp only [place_cons, place_nil] at e
  rw [major28 (by omega)]
  have f0 : fld x 4 4 = 1 := by unfold fld; omega
  have f1 : bits x 0 4 = c := bits_eq (by omega)
  have f2 : bits x 14 6 = sa := bits_eq (by omega)
  have f3 : bits x 20 6 = sd := bits_eq (by omega)
  have f4 : bits x 8 6 = k := bits_eq (by omega)
  simp [scalarMajor28, f0, f1, f2, f3, f4]

theorem mmaPair (sd : BitVec 6) (sa : BitVec 6) (k : BitVec 6) (c : BitVec 4) : Statement (.mmaPair sd sa k c) := by
  have h_sd := sd.isLt
  have h_sa := sa.isLt
  have h_k := k.isLt
  have h_c := c.isLt
  obtain ⟨x, e⟩ : ∃ x, x = place 2684354592 [(sd.toNat, 20), (sa.toNat, 14), (k.toNat, 8), (c.toNat, 0)] := ⟨_, rfl⟩
  refine scalar x rfl (e ▸ rfl) ?_
  simp only [place_cons, place_nil] at e
  rw [major28 (by omega)]
  have f0 : fld x 4 4 = 2 := by unfold fld; omega
  have f1 : bits x 0 4 = c := bits_eq (by omega)
  have f2 : bits x 14 6 = sa := bits_eq (by omega)
  have f3 : bits x 20 6 = sd := bits_eq (by omega)
  have f4 : bits x 8 6 = k := bits_eq (by omega)
  simp [scalarMajor28, f0, f1, f2, f3, f4]

theorem mmaPairBm (sd : BitVec 6) (sa : BitVec 6) (k : BitVec 6) (c : BitVec 4) : Statement (.mmaPairBm sd sa k c) := by
  have h_sd := sd.isLt
  have h_sa := sa.isLt
  have h_k := k.isLt
  have h_c := c.isLt
  obtain ⟨x, e⟩ : ∃ x, x = place 2684354608 [(sd.toNat, 20), (sa.toNat, 14), (k.toNat, 8), (c.toNat, 0)] := ⟨_, rfl⟩
  refine scalar x rfl (e ▸ rfl) ?_
  simp only [place_cons, place_nil] at e
  rw [major28 (by omega)]
  have f0 : fld x 4 4 = 3 := by unfold fld; omega
  have f1 : bits x 0 4 = c := bits_eq (by omega)
  have f2 : bits x 14 6 = sa := bits_eq (by omega)
  have f3 : bits x 20 6 = sd := bits_eq (by omega)
  have f4 : bits x 8 6 = k := bits_eq (by omega)
  simp [scalarMajor28, f0, f1, f2, f3, f4]

theorem mzero (sd : BitVec 6) (c : BitVec 4) : Statement (.mzero sd c) := by
  have h_sd := sd.isLt
  have h_c := c.isLt
  obtain ⟨x, e⟩ : ∃ x, x = place 2751463424 [(sd.toNat, 20), (c.toNat, 0)] := ⟨_, rfl⟩
  refine scalar x rfl (e ▸ rfl) ?_
  simp only [place_cons, place_nil] at e
  rw [major29 (by omega)]
  have f2 : fld x 4 4 = 0 := by unfold fld; omega
  have f3 : fld x 8 12 = 0 := by unfold fld; omega
  have f4 : bits x 0 4 = c := bits_eq (by omega)
  have f5 : bits x 20 6 = sd := bits_eq (by omega)
  simp [scalarMajor29, f2, f3, f4, f5]

theorem maccLd (sd : BitVec 6) (sa : BitVec 6) (sb : BitVec 6) (c : BitVec 4) : Statement (.maccLd sd sa sb c) := by
  have h_sd := sd.isLt
  have h_sa := sa.isLt
  have h_sb := sb.isLt
  have h_c := c.isLt
  obtain ⟨x, e⟩ : ∃ x, x = place 2751463440 [(sd.toNat, 20), (sa.toNat, 14), (sb.toNat, 8), (c.toNat, 0)] := ⟨_, rfl⟩
  refine scalar x rfl (e ▸ rfl) ?_
  simp only [place_cons, place_nil] at e
  rw [major29 (by omega)]
  have f2 : fld x 4 4 = 1 := by unfold fld; omega
  have f4 : bits x 0 4 = c := bits_eq (by omega)
  have f5 : bits x 14 6 = sa := bits_eq (by omega)
  have f6 : bits x 20 6 = sd := bits_eq (by omega)
  have f7 : bits x 8 6 = sb := bits_eq (by omega)
  simp [scalarMajor29, f2, f4, f5, f6, f7]

theorem maccSt (sd : BitVec 6) (sa : BitVec 6) (sb : BitVec 6) (c : BitVec 4) : Statement (.maccSt sd sa sb c) := by
  have h_sd := sd.isLt
  have h_sa := sa.isLt
  have h_sb := sb.isLt
  have h_c := c.isLt
  obtain ⟨x, e⟩ : ∃ x, x = place 2751463456 [(sd.toNat, 20), (sa.toNat, 14), (sb.toNat, 8), (c.toNat, 0)] := ⟨_, rfl⟩
  refine scalar x rfl (e ▸ rfl) ?_
  simp only [place_cons, place_nil] at e
  rw [major29 (by omega)]
  have f2 : fld x 4 4 = 2 := by unfold fld; omega
  have f4 : bits x 0 4 = c := bits_eq (by omega)
  have f5 : bits x 14 6 = sa := bits_eq (by omega)
  have f6 : bits x 20 6 = sd := bits_eq (by omega)
  have f7 : bits x 8 6 = sb := bits_eq (by omega)
  simp [scalarMajor29, f2, f4, f5, f6, f7]

theorem mwait (sd : BitVec 6) : Statement (.mwait sd) := by
  have h_sd := sd.isLt
  obtain ⟨x, e⟩ : ∃ x, x = place 2751463472 [(sd.toNat, 20)] := ⟨_, rfl⟩
  refine scalar x rfl (e ▸ rfl) ?_
  simp only [place_cons, place_nil] at e
  rw [major29 (by omega)]
  have f0 : fld x 0 4 = 0 := by unfold fld; omega
  have f2 : fld x 4 4 = 3 := by unfold fld; omega
  have f3 : fld x 8 12 = 0 := by unfold fld; omega
  have f4 : bits x 20 6 = sd := bits_eq (by omega)
  simp [scalarMajor29, f0, f2, f3, f4]

theorem mstat (sd : BitVec 6) (k : BitVec 6) : Statement (.mstat sd k) := by
  have h_sd := sd.isLt
  have h_k := k.isLt
  obtain ⟨x, e⟩ : ∃ x, x = place 2751463488 [(sd.toNat, 20), (k.toNat, 8)] := ⟨_, rfl⟩
  refine scalar x rfl (e ▸ rfl) ?_
  simp only [place_cons, place_nil] at e
  rw [major29 (by omega)]
  have f0 : fld x 0 4 = 0 := by unfold fld; omega
  have f1 : fld x 14 6 = 0 := by unfold fld; omega
  have f2 : fld x 4 4 = 4 := by unfold fld; omega
  have f4 : bits x 20 6 = sd := bits_eq (by omega)
  have f5 : bits x 8 6 = k := bits_eq (by omega)
  simp [scalarMajor29, f0, f1, f2, f4, f5]

theorem dcfg (sa : BitVec 6) (c : BitVec 4) : Statement (.dcfg sa c) := by
  have h_sa := sa.isLt
  have h_c := c.isLt
  obtain ⟨x, e⟩ : ∃ x, x = place 2818572288 [(sa.toNat, 14), (c.toNat, 0)] := ⟨_, rfl⟩
  refine scalar x rfl (e ▸ rfl) ?_
  simp only [place_cons, place_nil] at e
  rw [major2a (by omega)]
  have f0 : fld x 20 6 = 0 := by unfold fld; omega
  have f1 : fld x 4 4 = 0 := by unfold fld; omega
  have f2 : fld x 8 6 = 0 := by unfold fld; omega
  have f3 : bits x 0 4 = c := bits_eq (by omega)
  have f4 : bits x 14 6 = sa := bits_eq (by omega)
  simp [scalarMajor2a, f0, f1, f2, f3, f4]

theorem dload (sa : BitVec 6) (sb : BitVec 6) (c : BitVec 4) : Statement (.dload sa sb c) := by
  have h_sa := sa.isLt
  have h_sb := sb.isLt
  have h_c := c.isLt
  obtain ⟨x, e⟩ : ∃ x, x = place 2818572304 [(sa.toNat, 14), (sb.toNat, 8), (c.toNat, 0)] := ⟨_, rfl⟩
  refine scalar x rfl (e ▸ rfl) ?_
  simp only [place_cons, place_nil] at e
  rw [major2a (by omega)]
  have f0 : fld x 20 6 = 0 := by unfold fld; omega
  have f1 : fld x 4 4 = 1 := by unfold fld; omega
  have f3 : bits x 0 4 = c := bits_eq (by omega)
  have f4 : bits x 14 6 = sa := bits_eq (by omega)
  have f5 : bits x 8 6 = sb := bits_eq (by omega)
  simp [scalarMajor2a, f0, f1, f3, f4, f5]

theorem dloadPairs (sa : BitVec 6) (c : BitVec 4) : Statement (.dloadPairs sa c) := by
  have h_sa := sa.isLt
  have h_c := c.isLt
  obtain ⟨x, e⟩ : ∃ x, x = place 2818572320 [(sa.toNat, 14), (c.toNat, 0)] := ⟨_, rfl⟩
  refine scalar x rfl (e ▸ rfl) ?_
  simp only [place_cons, place_nil] at e
  rw [major2a (by omega)]
  have f0 : fld x 20 6 = 0 := by unfold fld; omega
  have f1 : fld x 4 4 = 2 := by unfold fld; omega
  have f2 : fld x 8 6 = 0 := by unfold fld; omega
  have f3 : bits x 0 4 = c := bits_eq (by omega)
  have f4 : bits x 14 6 = sa := bits_eq (by omega)
  simp [scalarMajor2a, f0, f1, f2, f3, f4]

theorem dstream (sa : BitVec 6) (sb : BitVec 6) (c : BitVec 4) : Statement (.dstream sa sb c) := by
  have h_sa := sa.isLt
  have h_sb := sb.isLt
  have h_c := c.isLt
  obtain ⟨x, e⟩ : ∃ x, x = place 2818572336 [(sa.toNat, 14), (sb.toNat, 8), (c.toNat, 0)] := ⟨_, rfl⟩
  refine scalar x rfl (e ▸ rfl) ?_
  simp only [place_cons, place_nil] at e
  rw [major2a (by omega)]
  have f0 : fld x 20 6 = 0 := by unfold fld; omega
  have f1 : fld x 4 4 = 3 := by unfold fld; omega
  have f3 : bits x 0 4 = c := bits_eq (by omega)
  have f4 : bits x 14 6 = sa := bits_eq (by omega)
  have f5 : bits x 8 6 = sb := bits_eq (by omega)
  simp [scalarMajor2a, f0, f1, f3, f4, f5]

theorem dbias (sa : BitVec 6) (sb : BitVec 6) (c : BitVec 4) : Statement (.dbias sa sb c) := by
  have h_sa := sa.isLt
  have h_sb := sb.isLt
  have h_c := c.isLt
  obtain ⟨x, e⟩ : ∃ x, x = place 2818572352 [(sa.toNat, 14), (sb.toNat, 8), (c.toNat, 0)] := ⟨_, rfl⟩
  refine scalar x rfl (e ▸ rfl) ?_
  simp only [place_cons, place_nil] at e
  rw [major2a (by omega)]
  have f0 : fld x 20 6 = 0 := by unfold fld; omega
  have f1 : fld x 4 4 = 4 := by unfold fld; omega
  have f3 : bits x 0 4 = c := bits_eq (by omega)
  have f4 : bits x 14 6 = sa := bits_eq (by omega)
  have f5 : bits x 8 6 = sb := bits_eq (by omega)
  simp [scalarMajor2a, f0, f1, f3, f4, f5]

theorem dclamp (sa : BitVec 6) (c : BitVec 4) : Statement (.dclamp sa c) := by
  have h_sa := sa.isLt
  have h_c := c.isLt
  obtain ⟨x, e⟩ : ∃ x, x = place 2818572368 [(sa.toNat, 14), (c.toNat, 0)] := ⟨_, rfl⟩
  refine scalar x rfl (e ▸ rfl) ?_
  simp only [place_cons, place_nil] at e
  rw [major2a (by omega)]
  have f0 : fld x 20 6 = 0 := by unfold fld; omega
  have f1 : fld x 4 4 = 5 := by unfold fld; omega
  have f2 : fld x 8 6 = 0 := by unfold fld; omega
  have f3 : bits x 0 4 = c := bits_eq (by omega)
  have f4 : bits x 14 6 = sa := bits_eq (by omega)
  simp [scalarMajor2a, f0, f1, f2, f3, f4]

theorem dinit (sa : BitVec 6) (c : BitVec 4) : Statement (.dinit sa c) := by
  have h_sa := sa.isLt
  have h_c := c.isLt
  obtain ⟨x, e⟩ : ∃ x, x = place 2818572384 [(sa.toNat, 14), (c.toNat, 0)] := ⟨_, rfl⟩
  refine scalar x rfl (e ▸ rfl) ?_
  simp only [place_cons, place_nil] at e
  rw [major2a (by omega)]
  have f0 : fld x 20 6 = 0 := by unfold fld; omega
  have f1 : fld x 4 4 = 6 := by unfold fld; omega
  have f2 : fld x 8 6 = 0 := by unfold fld; omega
  have f3 : bits x 0 4 = c := bits_eq (by omega)
  have f4 : bits x 14 6 = sa := bits_eq (by omega)
  simp [scalarMajor2a, f0, f1, f2, f3, f4]

theorem dlink (sa : BitVec 6) (c : BitVec 4) : Statement (.dlink sa c) := by
  have h_sa := sa.isLt
  have h_c := c.isLt
  obtain ⟨x, e⟩ : ∃ x, x = place 2885681152 [(sa.toNat, 14), (c.toNat, 0)] := ⟨_, rfl⟩
  refine scalar x rfl (e ▸ rfl) ?_
  simp only [place_cons, place_nil] at e
  rw [major2b (by omega)]
  have f3 : fld x 20 6 = 0 := by unfold fld; omega
  have f4 : fld x 4 4 = 0 := by unfold fld; omega
  have f5 : fld x 8 6 = 0 := by unfold fld; omega
  have f6 : bits x 0 4 = c := bits_eq (by omega)
  have f7 : bits x 14 6 = sa := bits_eq (by omega)
  simp [scalarMajor2b, f3, f4, f5, f6, f7]

theorem dsweep (sa : BitVec 6) (c : BitVec 4) : Statement (.dsweep sa c) := by
  have h_sa := sa.isLt
  have h_c := c.isLt
  obtain ⟨x, e⟩ : ∃ x, x = place 2885681168 [(sa.toNat, 14), (c.toNat, 0)] := ⟨_, rfl⟩
  refine scalar x rfl (e ▸ rfl) ?_
  simp only [place_cons, place_nil] at e
  rw [major2b (by omega)]
  have f3 : fld x 20 6 = 0 := by unfold fld; omega
  have f4 : fld x 4 4 = 1 := by unfold fld; omega
  have f5 : fld x 8 6 = 0 := by unfold fld; omega
  have f6 : bits x 0 4 = c := bits_eq (by omega)
  have f7 : bits x 14 6 = sa := bits_eq (by omega)
  simp [scalarMajor2b, f3, f4, f5, f6, f7]

theorem dread (sa : BitVec 6) (k : BitVec 6) (c : BitVec 4) : Statement (.dread sa k c) := by
  have h_sa := sa.isLt
  have h_k := k.isLt
  have h_c := c.isLt
  obtain ⟨x, e⟩ : ∃ x, x = place 2885681184 [(sa.toNat, 14), (k.toNat, 8), (c.toNat, 0)] := ⟨_, rfl⟩
  refine scalar x rfl (e ▸ rfl) ?_
  simp only [place_cons, place_nil] at e
  rw [major2b (by omega)]
  have f3 : fld x 20 6 = 0 := by unfold fld; omega
  have f4 : fld x 4 4 = 2 := by unfold fld; omega
  have f6 : bits x 0 4 = c := bits_eq (by omega)
  have f7 : bits x 14 6 = sa := bits_eq (by omega)
  have f8 : bits x 8 6 = k := bits_eq (by omega)
  simp [scalarMajor2b, f3, f4, f6, f7, f8]

theorem dclr (k : BitVec 6) (c : BitVec 4) : Statement (.dclr k c) := by
  have h_k := k.isLt
  have h_c := c.isLt
  obtain ⟨x, e⟩ : ∃ x, x = place 2885681200 [(k.toNat, 8), (c.toNat, 0)] := ⟨_, rfl⟩
  refine scalar x rfl (e ▸ rfl) ?_
  simp only [place_cons, place_nil] at e
  rw [major2b (by omega)]
  have f1 : fld x 14 12 = 0 := by unfold fld; omega
  have f4 : fld x 4 4 = 3 := by unfold fld; omega
  have f6 : bits x 0 4 = c := bits_eq (by omega)
  have f7 : bits x 8 6 = k := bits_eq (by omega)
  simp [scalarMajor2b, f1, f4, f6, f7]

theorem dmon (sd : BitVec 6) (k : BitVec 6) : Statement (.dmon sd k) := by
  have h_sd := sd.isLt
  have h_k := k.isLt
  obtain ⟨x, e⟩ : ∃ x, x = place 2885681216 [(sd.toNat, 20), (k.toNat, 8)] := ⟨_, rfl⟩
  refine scalar x rfl (e ▸ rfl) ?_
  simp only [place_cons, place_nil] at e
  rw [major2b (by omega)]
  have f0 : fld x 0 4 = 0 := by unfold fld; omega
  have f2 : fld x 14 6 = 0 := by unfold fld; omega
  have f4 : fld x 4 4 = 4 := by unfold fld; omega
  have f6 : bits x 20 6 = sd := bits_eq (by omega)
  have f7 : bits x 8 6 = k := bits_eq (by omega)
  simp [scalarMajor2b, f0, f2, f4, f6, f7]

theorem dmonClr (sd : BitVec 6) (k : BitVec 6) : Statement (.dmonClr sd k) := by
  have h_sd := sd.isLt
  have h_k := k.isLt
  obtain ⟨x, e⟩ : ∃ x, x = place 2885681232 [(sd.toNat, 20), (k.toNat, 8)] := ⟨_, rfl⟩
  refine scalar x rfl (e ▸ rfl) ?_
  simp only [place_cons, place_nil] at e
  rw [major2b (by omega)]
  have f0 : fld x 0 4 = 0 := by unfold fld; omega
  have f2 : fld x 14 6 = 0 := by unfold fld; omega
  have f4 : fld x 4 4 = 5 := by unfold fld; omega
  have f6 : bits x 20 6 = sd := bits_eq (by omega)
  have f7 : bits x 8 6 = k := bits_eq (by omega)
  simp [scalarMajor2b, f0, f2, f4, f6, f7]

theorem remit (sd : BitVec 6) (sa : BitVec 6) (sb : BitVec 6) : Statement (.remit sd sa sb) := by
  have h_sd := sd.isLt
  have h_sa := sa.isLt
  have h_sb := sb.isLt
  obtain ⟨x, e⟩ : ∃ x, x = place 2952790016 [(sd.toNat, 20), (sa.toNat, 14), (sb.toNat, 8)] := ⟨_, rfl⟩
  refine scalar x rfl (e ▸ rfl) ?_
  simp only [place_cons, place_nil] at e
  rw [major2c (by omega)]
  have f0 : fld x 0 4 = 0 := by unfold fld; omega
  have f2 : fld x 4 4 = 0 := by unfold fld; omega
  have f4 : bits x 14 6 = sa := bits_eq (by omega)
  have f5 : bits x 20 6 = sd := bits_eq (by omega)
  have f6 : bits x 8 6 = sb := bits_eq (by omega)
  simp [scalarMajor2c, f0, f2, f4, f5, f6]

theorem remitW (sa : BitVec 6) (sb : BitVec 6) : Statement (.remitW sa sb) := by
  have h_sa := sa.isLt
  have h_sb := sb.isLt
  obtain ⟨x, e⟩ : ∃ x, x = place 2952790032 [(sa.toNat, 14), (sb.toNat, 8)] := ⟨_, rfl⟩
  refine scalar x rfl (e ▸ rfl) ?_
  simp only [place_cons, place_nil] at e
  rw [major2c (by omega)]
  have f0 : fld x 0 4 = 0 := by unfold fld; omega
  have f1 : fld x 20 6 = 0 := by unfold fld; omega
  have f2 : fld x 4 4 = 1 := by unfold fld; omega
  have f4 : bits x 14 6 = sa := bits_eq (by omega)
  have f5 : bits x 8 6 = sb := bits_eq (by omega)
  simp [scalarMajor2c, f0, f1, f2, f4, f5]

theorem remitj (sd : BitVec 6) (sa : BitVec 6) (sb : BitVec 6) : Statement (.remitj sd sa sb) := by
  have h_sd := sd.isLt
  have h_sa := sa.isLt
  have h_sb := sb.isLt
  obtain ⟨x, e⟩ : ∃ x, x = place 2952790048 [(sd.toNat, 20), (sa.toNat, 14), (sb.toNat, 8)] := ⟨_, rfl⟩
  refine scalar x rfl (e ▸ rfl) ?_
  simp only [place_cons, place_nil] at e
  rw [major2c (by omega)]
  have f0 : fld x 0 4 = 0 := by unfold fld; omega
  have f2 : fld x 4 4 = 2 := by unfold fld; omega
  have f4 : bits x 14 6 = sa := bits_eq (by omega)
  have f5 : bits x 20 6 = sd := bits_eq (by omega)
  have f6 : bits x 8 6 = sb := bits_eq (by omega)
  simp [scalarMajor2c, f0, f2, f4, f5, f6]

theorem rdone : Statement (.rdone) := by
  obtain ⟨x, e⟩ : ∃ x, x = place 2952790064 [] := ⟨_, rfl⟩
  refine scalar x rfl (e ▸ rfl) ?_
  simp only [place_nil] at e
  rw [major2c (by omega)]
  have f0 : fld x 0 4 = 0 := by unfold fld; omega
  have f2 : fld x 4 4 = 3 := by unfold fld; omega
  have f3 : fld x 8 18 = 0 := by unfold fld; omega
  simp [scalarMajor2c, f0, f2, f3]

theorem gquery (sd : BitVec 6) (n : BitVec 6) : Statement (.gquery sd n) := by
  have h_sd := sd.isLt
  have h_n := n.isLt
  obtain ⟨x, e⟩ : ∃ x, x = place 3019898880 [(sd.toNat, 20), (n.toNat, 8)] := ⟨_, rfl⟩
  refine scalar x rfl (e ▸ rfl) ?_
  simp only [place_cons, place_nil] at e
  rw [major2d (by omega)]
  have f0 : fld x 0 4 = 0 := by unfold fld; omega
  have f1 : fld x 14 6 = 0 := by unfold fld; omega
  have f2 : fld x 4 4 = 0 := by unfold fld; omega
  have f3 : bits x 20 6 = sd := bits_eq (by omega)
  have f4 : bits x 8 6 = n := bits_eq (by omega)
  simp [scalarMajor2d, f0, f1, f2, f3, f4]

theorem gcount (sd : BitVec 6) (n : BitVec 6) : Statement (.gcount sd n) := by
  have h_sd := sd.isLt
  have h_n := n.isLt
  obtain ⟨x, e⟩ : ∃ x, x = place 3019898896 [(sd.toNat, 20), (n.toNat, 8)] := ⟨_, rfl⟩
  refine scalar x rfl (e ▸ rfl) ?_
  simp only [place_cons, place_nil] at e
  rw [major2d (by omega)]
  have f0 : fld x 0 4 = 0 := by unfold fld; omega
  have f1 : fld x 14 6 = 0 := by unfold fld; omega
  have f2 : fld x 4 4 = 1 := by unfold fld; omega
  have f3 : bits x 20 6 = sd := bits_eq (by omega)
  have f4 : bits x 8 6 = n := bits_eq (by omega)
  simp [scalarMajor2d, f0, f1, f2, f3, f4]

theorem vadd (f : LaneFields) : Statement (.vadd f) := lane 0x01 f rfl rfl (fun _ => rfl)

theorem vsub (f : LaneFields) : Statement (.vsub f) := lane 0x02 f rfl rfl (fun _ => rfl)

theorem vmul (f : LaneFields) : Statement (.vmul f) := lane 0x03 f rfl rfl (fun _ => rfl)

theorem vmulh (f : LaneFields) : Statement (.vmulh f) := lane 0x04 f rfl rfl (fun _ => rfl)

theorem vmad (f : LaneFields) : Statement (.vmad f) := lane 0x05 f rfl rfl (fun _ => rfl)

theorem vmin (f : LaneFields) : Statement (.vmin f) := lane 0x06 f rfl rfl (fun _ => rfl)

theorem vmax (f : LaneFields) : Statement (.vmax f) := lane 0x07 f rfl rfl (fun _ => rfl)

theorem vabs (f : LaneFields) : Statement (.vabs f) := lane 0x08 f rfl rfl (fun _ => rfl)

theorem vand (f : LaneFields) : Statement (.vand f) := lane 0x09 f rfl rfl (fun _ => rfl)

theorem vor (f : LaneFields) : Statement (.vor f) := lane 0x0a f rfl rfl (fun _ => rfl)

theorem vxor (f : LaneFields) : Statement (.vxor f) := lane 0x0b f rfl rfl (fun _ => rfl)

theorem vnot (f : LaneFields) : Statement (.vnot f) := lane 0x0c f rfl rfl (fun _ => rfl)

theorem vshl (f : LaneFields) : Statement (.vshl f) := lane 0x0d f rfl rfl (fun _ => rfl)

theorem vshr (f : LaneFields) : Statement (.vshr f) := lane 0x0e f rfl rfl (fun _ => rfl)

theorem vsra (f : LaneFields) : Statement (.vsra f) := lane 0x0f f rfl rfl (fun _ => rfl)

theorem vclz (f : LaneFields) : Statement (.vclz f) := lane 0x10 f rfl rfl (fun _ => rfl)

theorem vpopc (f : LaneFields) : Statement (.vpopc f) := lane 0x11 f rfl rfl (fun _ => rfl)

theorem vbfx (f : LaneFields) : Statement (.vbfx f) := lane 0x12 f rfl rfl (fun _ => rfl)

theorem vbfi (f : LaneFields) : Statement (.vbfi f) := lane 0x13 f rfl rfl (fun _ => rfl)

theorem vsel (f : LaneFields) : Statement (.vsel f) := lane 0x14 f rfl rfl (fun _ => rfl)

theorem vcmp (f : LaneFields) : Statement (.vcmp f) := lane 0x15 f rfl rfl (fun _ => rfl)

theorem vmov (f : LaneFields) : Statement (.vmov f) := lane 0x16 f rfl rfl (fun _ => rfl)

theorem vli (f : LaneFields) : Statement (.vli f) := lane 0x17 f rfl rfl (fun _ => rfl)

theorem vfadd (f : LaneFields) : Statement (.vfadd f) := lane 0x20 f rfl rfl (fun _ => rfl)

theorem vfsub (f : LaneFields) : Statement (.vfsub f) := lane 0x21 f rfl rfl (fun _ => rfl)

theorem vfmul (f : LaneFields) : Statement (.vfmul f) := lane 0x22 f rfl rfl (fun _ => rfl)

theorem vfma (f : LaneFields) : Statement (.vfma f) := lane 0x23 f rfl rfl (fun _ => rfl)

theorem vfmin (f : LaneFields) : Statement (.vfmin f) := lane 0x24 f rfl rfl (fun _ => rfl)

theorem vfmax (f : LaneFields) : Statement (.vfmax f) := lane 0x25 f rfl rfl (fun _ => rfl)

theorem vfcmp (f : LaneFields) : Statement (.vfcmp f) := lane 0x26 f rfl rfl (fun _ => rfl)

theorem vfclass (f : LaneFields) : Statement (.vfclass f) := lane 0x27 f rfl rfl (fun _ => rfl)

theorem vrcp (f : LaneFields) : Statement (.vrcp f) := lane 0x28 f rfl rfl (fun _ => rfl)

theorem vrsqrt (f : LaneFields) : Statement (.vrsqrt f) := lane 0x29 f rfl rfl (fun _ => rfl)

theorem vexp2 (f : LaneFields) : Statement (.vexp2 f) := lane 0x2a f rfl rfl (fun _ => rfl)

theorem vlog2 (f : LaneFields) : Statement (.vlog2 f) := lane 0x2b f rfl rfl (fun _ => rfl)

theorem vtanh (f : LaneFields) : Statement (.vtanh f) := lane 0x2c f rfl rfl (fun _ => rfl)

theorem vcvt (f : LaneFields) : Statement (.vcvt f) := lane 0x40 f rfl rfl (fun _ => rfl)

theorem vpack (f : LaneFields) : Statement (.vpack f) := lane 0x41 f rfl rfl (fun _ => rfl)

theorem vunpack (f : LaneFields) : Statement (.vunpack f) := lane 0x42 f rfl rfl (fun _ => rfl)

theorem vmxq (f : LaneFields) : Statement (.vmxq f) := lane 0x43 f rfl rfl (fun _ => rfl)

theorem vmxdq (f : LaneFields) : Statement (.vmxdq f) := lane 0x44 f rfl rfl (fun _ => rfl)

theorem vspq (f : LaneFields) : Statement (.vspq f) := lane 0x45 f rfl rfl (fun _ => rfl)

theorem vperm (f : LaneFields) : Statement (.vperm f) := lane 0x50 f rfl rfl (fun _ => rfl)

theorem vshfl (f : LaneFields) : Statement (.vshfl f) := lane 0x51 f rfl rfl (fun _ => rfl)

theorem vred (f : LaneFields) : Statement (.vred f) := lane 0x52 f rfl rfl (fun _ => rfl)

theorem vscan (f : LaneFields) : Statement (.vscan f) := lane 0x53 f rfl rfl (fun _ => rfl)

theorem vballot (f : LaneFields) : Statement (.vballot f) := lane 0x54 f rfl rfl (fun _ => rfl)

theorem vbcast (f : LaneFields) : Statement (.vbcast f) := lane 0x55 f rfl rfl (fun _ => rfl)

theorem vcompact (f : LaneFields) : Statement (.vcompact f) := lane 0x56 f rfl rfl (fun _ => rfl)

theorem pand (f : LaneFields) : Statement (.pand f) := lane 0x60 f rfl rfl (fun _ => rfl)

theorem por (f : LaneFields) : Statement (.por f) := lane 0x61 f rfl rfl (fun _ => rfl)

theorem pnot (f : LaneFields) : Statement (.pnot f) := lane 0x62 f rfl rfl (fun _ => rfl)

theorem pmov (f : LaneFields) : Statement (.pmov f) := lane 0x63 f rfl rfl (fun hw => by
  have hm : f.mod = 0 := by
    have h : (Instr.pmov f).check = none := hw
    simp only [Instr.check, laneParts, checkLane, Option.or_eq_none_iff] at h
    have g := h.1
    simp only [checkMod] at g
    simpa [laneUse, need] using g
  simp [laneOfOpcode, hm])

theorem pmovV (f : LaneFields) : Statement (.pmovV f) := lane 0x63 f rfl rfl (fun hw => by
  have hm : f.mod = 1 := by
    have h : (Instr.pmovV f).check = none := hw
    simp only [Instr.check, laneParts, checkLane, Option.or_eq_none_iff] at h
    have g := h.1
    simp only [checkMod] at g
    simpa [laneUse, need] using g
  simp [laneOfOpcode, hm])

theorem pmovI (f : LaneFields) : Statement (.pmovI f) := lane 0x63 f rfl rfl (fun hw => by
  have hm : f.mod = 2 := by
    have h : (Instr.pmovI f).check = none := hw
    simp only [Instr.check, laneParts, checkLane, Option.or_eq_none_iff] at h
    have g := h.1
    simp only [checkMod] at g
    simpa [laneUse, need] using g
  simp [laneOfOpcode, hm])

theorem vrand (f : LaneFields) : Statement (.vrand f) := lane 0x68 f rfl rfl (fun _ => rfl)

theorem vrandf (f : LaneFields) : Statement (.vrandf f) := lane 0x69 f rfl rfl (fun _ => rfl)

theorem vld (f : LaneFields) : Statement (.vld f) := lane 0x70 f rfl rfl (fun _ => rfl)

theorem vst (f : LaneFields) : Statement (.vst f) := lane 0x71 f rfl rfl (fun _ => rfl)

theorem vlds (f : LaneFields) : Statement (.vlds f) := lane 0x72 f rfl rfl (fun _ => rfl)

theorem vsts (f : LaneFields) : Statement (.vsts f) := lane 0x73 f rfl rfl (fun _ => rfl)

theorem vldt (f : LaneFields) : Statement (.vldt f) := lane 0x74 f rfl rfl (fun _ => rfl)

theorem vatom (f : LaneFields) : Statement (.vatom f) := lane 0x80 f rfl rfl (fun _ => rfl)

theorem vredM (f : LaneFields) : Statement (.vredM f) := lane 0x81 f rfl rfl (fun _ => rfl)

theorem vldacq (f : LaneFields) : Statement (.vldacq f) := lane 0x82 f rfl rfl (fun _ => rfl)

theorem vstrel (f : LaneFields) : Statement (.vstrel f) := lane 0x83 f rfl rfl (fun _ => rfl)

theorem mpost (f : LaneFields) : Statement (.mpost f) := lane 0x90 f rfl rfl (fun _ => rfl)

theorem qfetch (rs2 : BitVec 5) (rs1 : BitVec 5) (rd : BitVec 5) : Statement (.qfetch rs2 rs1 rd) := by
  have h_rs2 := rs2.isLt
  have h_rs1 := rs1.isLt
  have h_rd := rd.isLt
  obtain ⟨x, ex⟩ : ∃ x, x = 11 + rd.toNat * 2 ^ 7 + rs1.toNat * 2 ^ 15 + rs2.toNat * 2 ^ 20 := ⟨_, rfl⟩
  refine front x rfl (ex ▸ rfl) ?_
  have fm : fld x 0 7 = 11 := by unfold fld; omega
  have fg : fld x 12 3 = 0 := by unfold fld; omega
  have fz : fld x 25 7 = 0 := by unfold fld; omega
  have b_rs2 : bits x 20 5 = rs2 := bits_eq (by omega)
  have b_rs1 : bits x 15 5 = rs1 := bits_eq (by omega)
  have b_rd : bits x 7 5 = rd := bits_eq (by omega)
  simp [decodeFrontNat, fm, fg, fz, b_rs2, b_rs1, b_rd]

theorem fbfx (rs2 : BitVec 5) (rs1 : BitVec 5) (rd : BitVec 5) : Statement (.fbfx rs2 rs1 rd) := by
  have h_rs2 := rs2.isLt
  have h_rs1 := rs1.isLt
  have h_rd := rd.isLt
  obtain ⟨x, ex⟩ : ∃ x, x = 4107 + rd.toNat * 2 ^ 7 + rs1.toNat * 2 ^ 15 + rs2.toNat * 2 ^ 20 := ⟨_, rfl⟩
  refine front x rfl (ex ▸ rfl) ?_
  have fm : fld x 0 7 = 11 := by unfold fld; omega
  have fg : fld x 12 3 = 1 := by unfold fld; omega
  have fz : fld x 25 7 = 0 := by unfold fld; omega
  have b_rs2 : bits x 20 5 = rs2 := bits_eq (by omega)
  have b_rs1 : bits x 15 5 = rs1 := bits_eq (by omega)
  have b_rd : bits x 7 5 = rd := bits_eq (by omega)
  simp [decodeFrontNat, fm, fg, fz, b_rs2, b_rs1, b_rd]

theorem sigwait (p : BitVec 1) (e : BitVec 1) (rs2 : BitVec 5) (rs1 : BitVec 5) (rd : BitVec 5) : Statement (.sigwait p e rs2 rs1 rd) := by
  have h_p := p.isLt
  have h_e := e.isLt
  have h_rs2 := rs2.isLt
  have h_rs1 := rs1.isLt
  have h_rd := rd.isLt
  obtain ⟨x, ex⟩ : ∃ x, x = 8203 + rd.toNat * 2 ^ 7 + rs1.toNat * 2 ^ 15 + rs2.toNat * 2 ^ 20 + e.toNat * 2 ^ 25 + p.toNat * 2 ^ 26 := ⟨_, rfl⟩
  refine front x rfl (ex ▸ rfl) ?_
  have fm : fld x 0 7 = 11 := by unfold fld; omega
  have fg : fld x 12 3 = 2 := by unfold fld; omega
  have fz : fld x 27 5 = 0 := by unfold fld; omega
  have b_p : bits x 26 1 = p := bits_eq (by omega)
  have b_e : bits x 25 1 = e := bits_eq (by omega)
  have b_rs2 : bits x 20 5 = rs2 := bits_eq (by omega)
  have b_rs1 : bits x 15 5 = rs1 := bits_eq (by omega)
  have b_rd : bits x 7 5 = rd := bits_eq (by omega)
  simp [decodeFrontNat, fm, fg, fz, b_p, b_e, b_rs2, b_rs1, b_rd]

theorem dispatch (rs2 : BitVec 5) (rs1 : BitVec 5) (rd : BitVec 5) : Statement (.dispatch rs2 rs1 rd) := by
  have h_rs2 := rs2.isLt
  have h_rs1 := rs1.isLt
  have h_rd := rd.isLt
  obtain ⟨x, ex⟩ : ∃ x, x = 12299 + rd.toNat * 2 ^ 7 + rs1.toNat * 2 ^ 15 + rs2.toNat * 2 ^ 20 := ⟨_, rfl⟩
  refine front x rfl (ex ▸ rfl) ?_
  have fm : fld x 0 7 = 11 := by unfold fld; omega
  have fg : fld x 12 3 = 3 := by unfold fld; omega
  have fz : fld x 25 7 = 0 := by unfold fld; omega
  have b_rs2 : bits x 20 5 = rs2 := bits_eq (by omega)
  have b_rs1 : bits x 15 5 = rs1 := bits_eq (by omega)
  have b_rd : bits x 7 5 = rd := bits_eq (by omega)
  simp [decodeFrontNat, fm, fg, fz, b_rs2, b_rs1, b_rd]

theorem pcancel : Statement (.pcancel) := by
  obtain ⟨x, ex⟩ : ∃ x, x = 16395 := ⟨_, rfl⟩
  refine front x rfl (ex ▸ rfl) ?_
  have fm : fld x 0 7 = 11 := by unfold fld; omega
  have fg : fld x 12 3 = 4 := by unfold fld; omega
  have fz : fld x 25 7 = 0 := by unfold fld; omega
  have fy : fld x 15 10 = 0 := by unfold fld; omega
  have fv : fld x 7 5 = 0 := by unfold fld; omega
  simp [decodeFrontNat, fm, fg, fz, fy, fv]

theorem prepeat : Statement (.prepeat) := by
  obtain ⟨x, ex⟩ : ∃ x, x = 20491 := ⟨_, rfl⟩
  refine front x rfl (ex ▸ rfl) ?_
  have fm : fld x 0 7 = 11 := by unfold fld; omega
  have fg : fld x 12 3 = 5 := by unfold fld; omega
  have fz : fld x 25 7 = 0 := by unfold fld; omega
  have fy : fld x 15 10 = 0 := by unfold fld; omega
  have fv : fld x 7 5 = 0 := by unfold fld; omega
  simp [decodeFrontNat, fm, fg, fz, fy, fv]

theorem burstStart : ∀ core slot path, Statement (.burstStart core slot path) := fun _ _ _ => wordless rfl

theorem burstCommit : ∀ core slot path, Statement (.burstCommit core slot path) := fun _ _ _ => wordless rfl

theorem trapDelivery : ∀ core slot path, Statement (.trapDelivery core slot path) := fun _ _ _ => wordless rfl

theorem claimDeadlock : ∀ block, Statement (.claimDeadlock block) := fun _ => wordless rfl

theorem l1Eviction : ∀ core sector, Statement (.l1Eviction core sector) := fun _ _ => wordless rfl

theorem copyComplete : ∀ core op, Statement (.copyComplete core op) := fun _ _ => wordless rfl

theorem fillComplete : ∀ core op, Statement (.fillComplete core op) := fun _ _ => wordless rfl

theorem drainComplete : ∀ core op, Statement (.drainComplete core op) := fun _ _ => wordless rfl

theorem matrixOpStart : ∀ core, Statement (.matrixOpStart core) := fun _ => wordless rfl

theorem matrixOpComplete : ∀ core, Statement (.matrixOpComplete core) := fun _ => wordless rfl

theorem duneCommandComplete : ∀ core, Statement (.duneCommandComplete core) := fun _ => wordless rfl

theorem colourPhaseBegin : ∀ core, Statement (.colourPhaseBegin core) := fun _ => wordless rfl

theorem colourPhaseEnd : ∀ core, Statement (.colourPhaseEnd core) := fun _ => wordless rfl

theorem witnessWindowClose : ∀ core, Statement (.witnessWindowClose core) := fun _ => wordless rfl

theorem generatorSelfTest : ∀ core, Statement (.generatorSelfTest core) := fun _ => wordless rfl

theorem horizonPublication : ∀ core entry, Statement (.horizonPublication core entry) := fun _ _ => wordless rfl

theorem horizonReset : ∀ core entry, Statement (.horizonReset core entry) := fun _ _ => wordless rfl

theorem horizonTimeout : ∀ core, Statement (.horizonTimeout core) := fun _ => wordless rfl

theorem calibrationComplete : ∀ core passed, Statement (.calibrationComplete core passed) := fun _ _ => wordless rfl

theorem orderedUpdateArrival : ∀ core slot, Statement (.orderedUpdateArrival core slot) := fun _ _ => wordless rfl

theorem orderedUpdateFold : ∀ addr, Statement (.orderedUpdateFold addr) := fun _ => wordless rfl

theorem portResend : ∀ core slot, Statement (.portResend core slot) := fun _ _ => wordless rfl

theorem orphanReport : ∀ core slot, Statement (.orphanReport core slot) := fun _ _ => wordless rfl

theorem releaseNotice : ∀ core slot, Statement (.releaseNotice core slot) := fun _ _ => wordless rfl

theorem pageWalkComplete : ∀ core page, Statement (.pageWalkComplete core page) := fun _ _ => wordless rfl

theorem pageServiceReply : ∀ ctx record, Statement (.pageServiceReply ctx record) := fun _ _ => wordless rfl

theorem distributorTurn : ∀ die, Statement (.distributorTurn die) := fun _ => wordless rfl

theorem blockEnd : ∀ block, Statement (.blockEnd block) := fun _ => wordless rfl

theorem launchComplete : ∀ launch, Statement (.launchComplete launch) := fun _ => wordless rfl

theorem preemptionRequest : ∀ core, Statement (.preemptionRequest core) := fun _ => wordless rfl

theorem forcedSaveBound : ∀ core slot, Statement (.forcedSaveBound core slot) := fun _ _ => wordless rfl

theorem blockSaveComplete : ∀ block, Statement (.blockSaveComplete block) := fun _ => wordless rfl

theorem blockResume : ∀ block, Statement (.blockResume block) := fun _ => wordless rfl

theorem watchdogReport : ∀ die ctx, Statement (.watchdogReport die ctx) := fun _ _ => wordless rfl

theorem graphRunStart : ∀ slot, Statement (.graphRunStart slot) := fun _ => wordless rfl

theorem launcherCycle : ∀ die, Statement (.launcherCycle die) := fun _ => wordless rfl

theorem launcherAgeTimeout : ∀ slot node, Statement (.launcherAgeTimeout slot node) := fun _ _ => wordless rfl

theorem poolStall : ∀ slot, Statement (.poolStall slot) := fun _ => wordless rfl

theorem graphRunEnd : ∀ slot, Statement (.graphRunEnd slot) := fun _ => wordless rfl

theorem timerFire : ∀ die, Statement (.timerFire die) := fun _ => wordless rfl

theorem mappingInterval : ∀ die, Statement (.mappingInterval die) := fun _ => wordless rfl

theorem queueMap : ∀ die, Statement (.queueMap die) := fun _ => wordless rfl

theorem queueMappingAck : ∀ ctx record, Statement (.queueMappingAck ctx record) := fun _ _ => wordless rfl

theorem prologueInstructionLimit : ∀ die hart, Statement (.prologueInstructionLimit die hart) := fun _ _ => wordless rfl

theorem prologueCycleLimit : ∀ die hart, Statement (.prologueCycleLimit die hart) := fun _ _ => wordless rfl

theorem prologueReturn : ∀ die hart, Statement (.prologueReturn die hart) := fun _ _ => wordless rfl

theorem nopCommand : ∀ queue command, Statement (.nopCommand queue command) := fun _ _ => wordless rfl

theorem launchCommand : ∀ queue command, Statement (.launchCommand queue command) := fun _ _ => wordless rfl

theorem uploadCommand : ∀ queue command, Statement (.uploadCommand queue command) := fun _ _ => wordless rfl

theorem triggerCommand : ∀ queue command, Statement (.triggerCommand queue command) := fun _ _ => wordless rfl

theorem signalCommand : ∀ queue command, Statement (.signalCommand queue command) := fun _ _ => wordless rfl

theorem waitCommand : ∀ queue command, Statement (.waitCommand queue command) := fun _ _ => wordless rfl

theorem timerArm : ∀ queue command, Statement (.timerArm queue command) := fun _ _ => wordless rfl

theorem timerOff : ∀ queue command, Statement (.timerOff queue command) := fun _ _ => wordless rfl

theorem collectiveCommand : ∀ queue command, Statement (.collectiveCommand queue command) := fun _ _ => wordless rfl

theorem msgSend : ∀ queue command, Statement (.msgSend queue command) := fun _ _ => wordless rfl

theorem msgRecv : ∀ queue command, Statement (.msgRecv queue command) := fun _ _ => wordless rfl

theorem doorbell : ∀ value, Statement (.doorbell value) := fun _ => wordless rfl

theorem triggerWrite : ∀ slot value, Statement (.triggerWrite slot value) := fun _ _ => wordless rfl

theorem deviceEnable : Statement (.deviceEnable) := wordless rfl

theorem warmReset : Statement (.warmReset) := wordless rfl

theorem pwrSetWrite : ∀ value, Statement (.pwrSetWrite value) := fun _ => wordless rfl

theorem registerWrite : ∀ offset value, Statement (.registerWrite offset value) := fun _ _ => wordless rfl

theorem functionLevelReset : Statement (.functionLevelReset) := wordless rfl

theorem coldReset : Statement (.coldReset) := wordless rfl

theorem hostMemoryWrite : ∀ offset bytes, Statement (.hostMemoryWrite offset bytes) := fun _ _ => wordless rfl

theorem hostMemoryRead : ∀ offset count, Statement (.hostMemoryRead offset count) := fun _ _ => wordless rfl

theorem netinDataFrame : ∀ port frame, Statement (.netinDataFrame port frame) := fun _ _ => wordless rfl

theorem netinAckFrame : ∀ port frame, Statement (.netinAckFrame port frame) := fun _ _ => wordless rfl

theorem collectiveContributionFrame : ∀ port frame, Statement (.collectiveContributionFrame port frame) := fun _ _ => wordless rfl

theorem collectiveResultFrame : ∀ port frame, Statement (.collectiveResultFrame port frame) := fun _ _ => wordless rfl

theorem backlogFullFrame : ∀ port frame, Statement (.backlogFullFrame port frame) := fun _ _ => wordless rfl

theorem backlogOpenFrame : ∀ port frame, Statement (.backlogOpenFrame port frame) := fun _ _ => wordless rfl

theorem fragmentRetry : ∀ message offset, Statement (.fragmentRetry message offset) := fun _ _ => wordless rfl

theorem remoteCompletionTimeout : ∀ request, Statement (.remoteCompletionTimeout request) := fun _ => wordless rfl

theorem netinPortFailure : ∀ port, Statement (.netinPortFailure port) := fun _ => wordless rfl

theorem ucieLinkFailure : ∀ edge, Statement (.ucieLinkFailure edge) := fun _ => wordless rfl

theorem thermalThrottle : ∀ die temperature, Statement (.thermalThrottle die temperature) := fun _ _ => wordless rfl

theorem thermalCritical : ∀ die temperature, Statement (.thermalCritical die temperature) := fun _ _ => wordless rfl

theorem sramScrub : ∀ sector corrected, Statement (.sramScrub sector corrected) := fun _ _ => wordless rfl

theorem hbmScrub : ∀ sector corrected, Statement (.hbmScrub sector corrected) := fun _ _ => wordless rfl

theorem bankFailure : ∀ stack bank, Statement (.bankFailure stack bank) := fun _ _ => wordless rfl

theorem restripeRegion : ∀ stack, Statement (.restripeRegion stack) := fun _ => wordless rfl

theorem sampleTick : ∀ core quad, Statement (.sampleTick core quad) := fun _ _ => wordless rfl

theorem recordingCheckpoint : ∀ handle, Statement (.recordingCheckpoint handle) := fun _ => wordless rfl

theorem ctxInstall : ∀ tag addr, Statement (.ctxInstall tag addr) := fun _ _ => wordless rfl

theorem ctxRemove : ∀ tag ctx, Statement (.ctxRemove tag ctx) := fun _ _ => wordless rfl

theorem invalidate : ∀ tag ctx base bytes, Statement (.invalidate tag ctx base bytes) := fun _ _ _ _ => wordless rfl

theorem arrayClear : ∀ tag die core, Statement (.arrayClear tag die core) := fun _ _ _ => wordless rfl

theorem arrayRetire : ∀ tag die core, Statement (.arrayRetire tag die core) := fun _ _ _ => wordless rfl

theorem healthRead : ∀ tag die core, Statement (.healthRead tag die core) := fun _ _ _ => wordless rfl

theorem bankRepair : ∀ tag stack bank, Statement (.bankRepair tag stack bank) := fun _ _ _ => wordless rfl

theorem trailRead : ∀ tag die first count, Statement (.trailRead tag die first count) := fun _ _ _ _ => wordless rfl

theorem saveMove : ∀ tag ctx source, Statement (.saveMove tag ctx source) := fun _ _ _ => wordless rfl

theorem watchdogAct : ∀ tag ctx action, Statement (.watchdogAct tag ctx action) := fun _ _ _ => wordless rfl

theorem fwUpdate : ∀ tag addr bytes, Statement (.fwUpdate tag addr bytes) := fun _ _ _ => wordless rfl

theorem sampleStart : ∀ tag ctx die core buffer bytes n, Statement (.sampleStart tag ctx die core buffer bytes n) := fun _ _ _ _ _ _ _ => wordless rfl

theorem grant : ∀ tag ctx, Statement (.grant tag ctx) := fun _ _ => wordless rfl

theorem revoke : ∀ tag ctx, Statement (.revoke tag ctx) := fun _ _ => wordless rfl

theorem dbgHalt : ∀ tag target, Statement (.dbgHalt tag target) := fun _ _ => wordless rfl

theorem dbgResume : ∀ tag target, Statement (.dbgResume tag target) := fun _ _ => wordless rfl

theorem dbgRead : ∀ tag caravan item buffer, Statement (.dbgRead tag caravan item buffer) := fun _ _ _ _ => wordless rfl

theorem dbgWrite : ∀ tag caravan item buffer, Statement (.dbgWrite tag caravan item buffer) := fun _ _ _ _ => wordless rfl

theorem dbgCommit : ∀ tag caravan, Statement (.dbgCommit tag caravan) := fun _ _ => wordless rfl

theorem dbgMatch : ∀ tag core entry word0 word1, Statement (.dbgMatch tag core entry word0 word1) := fun _ _ _ _ _ => wordless rfl

theorem dbgStopAtRecording : ∀ tag handle k, Statement (.dbgStopAtRecording tag handle k) := fun _ _ _ => wordless rfl

theorem dbgStopAt : ∀ tag handle checkpoint caravan count, Statement (.dbgStopAt tag handle checkpoint caravan count) := fun _ _ _ _ _ => wordless rfl

theorem dbgBack : ∀ tag caravan, Statement (.dbgBack tag caravan) := fun _ _ => wordless rfl

theorem spdmGetVersion : Statement (.spdmGetVersion) := wordless rfl

theorem spdmGetCapabilities : Statement (.spdmGetCapabilities) := wordless rfl

theorem spdmNegotiateAlgorithms : Statement (.spdmNegotiateAlgorithms) := wordless rfl

theorem spdmGetDigests : Statement (.spdmGetDigests) := wordless rfl

theorem spdmGetCertificate : ∀ certSlot offset count, Statement (.spdmGetCertificate certSlot offset count) := fun _ _ _ => wordless rfl

theorem spdmChallenge : ∀ certSlot nonce, Statement (.spdmChallenge certSlot nonce) := fun _ _ => wordless rfl

theorem spdmGetMeasurements : ∀ index signed, Statement (.spdmGetMeasurements index signed) := fun _ _ => wordless rfl

theorem reservedScalarWord : ∀ word, Statement (.reservedScalarWord word) := fun _ => wordless rfl

theorem reservedLaneOpcode : ∀ word, Statement (.reservedLaneOpcode word) := fun _ => wordless rfl

theorem unknownQueueOpcode : ∀ queue command, Statement (.unknownQueueOpcode queue command) := fun _ _ => wordless rfl

theorem unknownMailboxCommand : ∀ tag command, Statement (.unknownMailboxCommand tag command) := fun _ _ => wordless rfl

theorem netinRemoteRequest : ∀ request, Statement (.netinRemoteRequest request) := fun _ => wordless rfl

theorem reservedKindFrame : ∀ port frame, Statement (.reservedKindFrame port frame) := fun _ _ => wordless rfl

theorem netinPortRestore : ∀ port, Statement (.netinPortRestore port) := fun _ => wordless rfl

theorem stackCacheSpill : ∀ core slot, Statement (.stackCacheSpill core slot) := fun _ _ => wordless rfl

theorem prologueException : ∀ die hart cause, Statement (.prologueException die hart cause) := fun _ _ _ => wordless rfl

end Sys2Proof.Laws.RoundTrip
end

