-- ==== Sys2Proof/Tests/World.lean ====
section
/-!
SUPPORT. Small states for the tests and for the witnesses of the statements, and what makes their paths run.
-/

namespace Sys2Proof.Tests

open Sys2Proof Sys2Proof.Machine

/-- One block of one caravan with one path, in focus, every resource of core 0 claimed. -/
def world : State := { State.reset.placeBlock with focus := .path 0 0 0 }

/-- The path in focus of that world. -/
def worldMe : Me :=
  { core := 0, slot := 0, p := 0, key := 0, car := Tab.getD world.caravans 0 default,
    path := Tab.getD (Tab.getD world.caravans 0 default).paths 0 default, blk := Tab.getD world.blocks 0 default }

/-- The path in focus of a state, or of that world. -/
def meOf (s : State) : Me := s.me?.getD worldMe

/-- That world with its caravan, its path, its block or its core changed. -/
def inCar (f : Caravan → Caravan) : State := world.modCaravan 0 f
def inPath (f : Path → Path) : State := world.modPath 0 0 f
def inBlock (f : Block → Block) : State := { world with blocks := Tab.modify world.blocks 0 f }
def inCore (f : Core → Core) : State := world.modCore 0 f

/-- That world with a scalar register set. -/
def withReg (n : Nat) (v : Word) : State := inCar (fun c => c.setSreg n v)

/-- Whether a state's path in focus executes an instruction. -/
def runsB (s : State) (i : Instr) : Bool :=
  match s.me? with
  | none => false
  | some m => !m.car.halted && decide (m.car.savePoint = none) && decide (m.path.pending = none) && !s.goalReached m.key 1
      && decide (i.check = none) && m.handlerAllows i && m.bodyAllows i

theorem runs_of {s : State} {i : Instr} (h : runsB s i = true) : s.Runs (meOf s) i := by
  unfold runsB at h
  unfold meOf
  split at h
  · simp at h
  · rename_i m hm
    simp only [Bool.and_eq_true, Bool.not_eq_true', decide_eq_true_eq] at h
    obtain ⟨⟨⟨⟨⟨⟨h1, h2⟩, h3⟩, h4⟩, h5⟩, h6⟩, h7⟩ := h
    rw [hm]
    exact ⟨hm, h1, h2, h3, h4, h5, h6, h7⟩

/-- Whether a path may access bytes in one way. -/
def mapsB (s : State) (m : Me) (va : Word) (n : Nat) (k : Access) (t : Translation) : Bool :=
  decide (va.toNat % n = 0) && canonical va && decide (Tab.get? (s.core m.core).tlb (pageOf va) = some t)
    && decide (t.ctx = m.blk.ctx) && decide (permission t k = none) && decide (t.package = none) && decide (t.base % 65536 = 0)
    && decide (s.stackOwner m.blk.ctx m.key va.toNat = none) && decide (m.path.fences = [])

theorem maps_of {s : State} {m : Me} {va : Word} {n : Nat} {k : Access} {t : Translation} (h : mapsB s m va n k t = true) :
    s.Maps m va n k t := by
  unfold mapsB at h
  simp only [Bool.and_eq_true, decide_eq_true_eq] at h
  obtain ⟨⟨⟨⟨⟨⟨⟨⟨h1, h2⟩, h3⟩, h4⟩, h5⟩, h6⟩, h7⟩, h8⟩, h9⟩ := h
  exact ⟨h1, h2, h3, h4, h5, h6, h7, h8, h9⟩

/-- Whether such bytes can be read. -/
def reachB (s : State) (m : Me) (va : Word) (n : Nat) (t : Translation) : Bool :=
  mapsB s m va n .read t && !m.blk.hasFreed va.toNat n
    && ((Tab.get? s.contexts m.blk.ctx).toList.all (fun c => !c.saves (physical t va) n))
    && decide ((s.core m.core).l1Lines.length < 256) && (List.range n).all (fun i => !s.unsettled (physical t va + i))
    && !s.l1Poisoned m.core (physical t va) n && !s.poisoned (physical t va) n && s.monitor.replay.isNone

theorem reach_of {s : State} {m : Me} {va : Word} {n : Nat} {t : Translation} (h : reachB s m va n t = true) :
    s.Reach m va n t := by
  unfold reachB at h
  simp only [Bool.and_eq_true, Bool.not_eq_true', List.all_eq_true, List.mem_range, Option.isNone_iff_eq_none,
    decide_eq_true_eq] at h
  obtain ⟨⟨⟨⟨⟨⟨⟨h1, h2⟩, h7⟩, h8⟩, h3⟩, h4⟩, h5⟩, h6⟩ := h
  exact ⟨maps_of h1, h2, fun c hc => h7 c (by simp [hc]), .inr h8, h3, ⟨h4, h5⟩, h6⟩

/-- The page of that world's code and data. -/
def page : Translation :=
  { ctx := 0, size := 65536, base := 0x10000, readable := true, writable := true, executable := true, package := none, localDie := none }

/-- Whether a lane word executes. -/
def laneRunsB (s : State) (b : Burst) (i : Instr) (f : LaneFields) : Bool :=
  match s.me? with
  | none => false
  | some m => decide (m.path.burst = some b) && !b.issued && decide (i.check = none) && (highestRegs i f).all (fun r => r < m.car.lbud)
      && (!atCommit i || (decide (b.entry.len ≤ b.pos) && decide (b.entry.rep = 0)))
      && (latchesOf i f).all (fun k => (Tab.get? b.latches k).isSome)
      && (queuesOf i f).all (fun q => (queueHead m.car b q).isSome && !siblingPops m q)

theorem lane_runs_of {s : State} {b : Burst} {i : Instr} {f : LaneFields} (h : laneRunsB s b i f = true) :
    s.LaneRuns (meOf s) b i f := by
  unfold laneRunsB at h
  unfold meOf
  split at h
  · simp at h
  · rename_i m hm
    simp only [Bool.and_eq_true, Bool.or_eq_true, Bool.not_eq_true', decide_eq_true_eq, List.all_eq_true] at h
    obtain ⟨⟨⟨⟨⟨⟨h1, h2⟩, h3⟩, h4⟩, h5⟩, h6⟩, h7⟩ := h
    rw [hm]
    refine ⟨⟨⟨hm, h1, h2⟩, h3, h4, fun h => ?_⟩, h6, h7⟩
    rcases h5 with h5 | h5
    · rw [h] at h5; simp at h5
    · exact h5

/-- A burst of one word, at its start, whose lane registers that world's caravan holds. -/
def burst : Burst := burstOf { rep := 0, len := 0, start := 0x10000, lrun := 0 }

/-- Whether bytes that the core was to write have been written. -/
def putDone : Put → Bool
  | .done _ => true
  | _ => false

/-- That world with that burst running, or with another. -/
def lanes (b : Burst := burst) : State := inPath (fun x => { x with burst := some b, laneq := [b.entry] })

end Sys2Proof.Tests
end

