-- ==== Sys2Proof/Tests/Slice0.lean ====
section
/-!
SUPPORT. Tests: ill-formed instructions that the checks refuse, words written out from the encodings of the spec, numbers and
steps whose results are the spec's own examples or are worked out by hand from its rules.
-/

namespace Sys2Proof.Tests

open Sys2Proof Sys2Proof.Machine

/-! ### Ill-formed instructions, one for each check (R61 to R73, R91, R92, R125, R384) -/

theorem refuses_conditions : (Instr.cmp 1 2 3 10).check = some .reservedFunction ∧ (Instr.cmpImm 1 2 10 0).check = some .reservedField
    ∧ (Instr.bc 15 1 0).check = some .reservedField := by decide

theorem refuses_memory_widths : (Instr.ld 1 2 7 0).check = some .reservedField ∧ (Instr.st 1 2 4 0).check = some .reservedField
    ∧ (Instr.ald 0 1 2 5).check = some .reservedFunction ∧ (Instr.aldx 0 0 1 2 5).check = some .reservedFunction
    ∧ (Instr.aldx 6 0 1 2 0).check = some .reservedField := by decide

theorem refuses_loops_and_joins : (Instr.lpset 1 2 0).check = some .reservedField ∧ (Instr.lpset 1 2 8192).check = some .reservedField
    ∧ (Instr.brd 0 0 4 0).check = some .reservedField := by decide

theorem refuses_pool_and_frames : (Instr.rgive 0).check = some .reservedField ∧ (Instr.rgive 31).check = some .reservedField
    ∧ (Instr.rclaim 0).check = some .reservedField ∧ (Instr.enter 0).check = some .reservedField
    ∧ (Instr.leave 0).check = some .reservedField := by decide

theorem refuses_selectors : (Instr.mfk 1 5).check = some .reservedField ∧ (Instr.mtk 1 0x60).check = some .reservedField := by decide

theorem refuses_scopes : (Instr.ldacq 1 2 0 0 0).check = some .reservedField ∧ (Instr.strel 1 2 6 0 0).check = some .reservedField
    ∧ (Instr.fence 1 0).check = some .reservedField ∧ (Instr.fence 3 1).check = some .reservedField
    ∧ (Instr.fence 0 6).check = some .reservedField := by decide

theorem refuses_engine_fields : (Instr.xcopy 1 2 3 0 0).check = some .reservedFunction ∧ (Instr.mma 0 1 16 0).check = some .badHandle
    ∧ (Instr.mmaBm 0 1 16 0).check = some .badHandle ∧ (Instr.mmaPair 0 1 16 0).check = some .badHandle
    ∧ (Instr.mmaPairBm 0 1 63 0).check = some .badHandle ∧ (Instr.mstat 1 5).check = some .reservedField
    ∧ (Instr.dread 1 3 0).check = some .reservedField ∧ (Instr.dclr 0 0).check = some .reservedField
    ∧ (Instr.dmon 1 17).check = some .reservedField ∧ (Instr.dmonClr 1 17).check = some .reservedField
    ∧ (Instr.gcount 1 6).check = some .reservedField := by decide

/-- A lane word of INT32 with its sources and destination. -/
def fields (d a b : BitVec 9) : LaneFields := { mod := 0x90, d := d, nw := 0, a := a, b := b, c := 0, pred := 0, neg := 0, ctl := 0, imm := 0 }

theorem refuses_lane_modifiers : (Instr.vadd { fields 1 2 3 with mod := 0 }).check = some .reservedField
    ∧ (Instr.vmin { fields 1 2 3 with mod := 0x91 }).check = some .reservedField
    ∧ (Instr.vfadd { fields 1 2 3 with mod := 0x04 }).check = some .reservedField
    ∧ (Instr.vst { fields 0 2 3 with mod := 0x04 }).check = some .reservedField
    ∧ (Instr.vld { fields 1 2 0 with mod := 6 }).check = some .reservedField
    ∧ (Instr.vldacq { fields 2 2 0 with mod := 2 }).check = some .reservedField
    ∧ (Instr.vatom { fields 1 2 3 with mod := 0x61 }).check = some .reservedField
    ∧ (Instr.vatom { fields 1 2 3 with mod := 0x60, imm := 0x100000 }).check = some .reservedField
    ∧ (Instr.vredM { fields 0 2 3 with mod := 0x61 }).check = some .reservedField
    ∧ (Instr.vredM { fields 0 2 3 with mod := 0x40, imm := 0x10000000 }).check = some .badPlace
    ∧ (Instr.vred { fields 1 2 0 with mod := 0x06 }).check = some .reservedField
    ∧ (Instr.vballot { fields 1 2 0 with mod := 2 }).check = some .reservedField
    ∧ (Instr.pmov { fields 1 2 0 with mod := 1 }).check = some .reservedField
    ∧ (Instr.pmovV { fields 1 2 0 with mod := 0 }).check = some .reservedField
    ∧ (Instr.pmovI { fields 1 0 0 with mod := 1 }).check = some .reservedField
    ∧ (Instr.vrand { fields 1 0 0 with mod := 1 }).check = some .reservedField := by decide

theorem refuses_lane_operands : (Instr.vadd { fields 1 2 3 with imm := 2 }).check = some .reservedField
    ∧ (Instr.vadd (fields 256 2 3)).check = some .reservedField ∧ (Instr.vadd { fields 1 2 3 with nw := 1 }).check = some .reservedField
    ∧ (Instr.vadd { fields 1 2 4 with mod := 0xa0 }).check = some .badRegister
    ∧ (Instr.vadd { fields 2 256 4 with mod := 0xa0 }).check = some .reservedField
    ∧ (Instr.vadd (fields 1 281 3)).check = some .reservedField ∧ (Instr.vadd { fields 1 2 3 with c := 1 }).check = some .reservedField
    ∧ (Instr.pand { fields 8 2 3 with mod := 0 }).check = some .reservedField
    ∧ (Instr.vld { fields 1 3 0 with mod := 0 }).check = some .badRegister
    ∧ (Instr.vatom { fields 1 2 3 with mod := 0x60, c := 1 }).check = some .reservedField
    ∧ (Instr.mpost { fields 0 254 3 with mod := 0 }).check = some .reservedField
    ∧ (Instr.mpost { fields 0 2 256 with mod := 0 }).check = some .reservedField := by decide

theorem refuses_lane_entries : (Instr.vldt { fields 1 2 0 with mod := 0 }).check = some .reservedField
    ∧ (Instr.vst { fields 0 2 3 with mod := 0, ctl := 16 }).check = some .reservedField
    ∧ (Instr.vadd { fields 1 2 3 with ctl := 1 }).check = some .reservedField
    ∧ (Instr.vcmp { fields 1 2 3 with imm := 10 }).check = some .reservedField
    ∧ (Instr.vfcmp { fields 1 2 3 with mod := 0, imm := 8 }).check = some .reservedField
    ∧ (Instr.vcvt { fields 1 2 0 with imm := 5 }).check = some .reservedField
    ∧ (Instr.vpack { fields 1 2 3 with mod := 0x10, imm := 1 }).check = some .reservedField
    ∧ (Instr.vunpack { fields 1 2 0 with mod := 0x10, imm := 2 }).check = some .reservedField
    ∧ (Instr.mpost { fields 0 2 3 with mod := 0, pred := 1 }).check = some .reservedField := by decide

theorem admits_words : (Instr.add 1 2 3).WellFormed ∧ (Instr.vadd (fields 1 2 3)).WellFormed ∧ (Instr.sigwait 0 1 12 11 10).WellFormed := by
  decide

/-! ### Words written out from their encodings (R61 to R73, R340) -/

theorem decodes_integers : decodeOf .scalar 0x0c51bffd = some (.addImm 5 6 (-3)) ∧ decodeOf .scalar 0x04720922 = some (.cmp 7 8 9 2) := by
  decide

theorem decodes_control : decodeOf .scalar 0x60420028 = some (.lrun 4 2 0x28) ∧ decodeOf .scalar 0x51802008 = some (.brd 3 0 4 8)
    ∧ decodeOf .scalar 0x7c000000 = some .nop := by decide

theorem decodes_ordering : decodeOf .scalar 0x84519c01 = some (.strel 5 6 3 1 1) ∧ decodeOf .scalar 0x88300000 = some (.fence 0 3)
    ∧ decodeOf .scalar 0x8ca2cc60 = some (.xcopy 10 11 12 1 2) := by decide

theorem decodes_engines : decodeOf .scalar 0xa0520211 = some (.mmaBm 5 8 2 1) ∧ decodeOf .scalar 0xac01c012 = some (.dsweep 7 2) := by decide

theorem decodes_records : decodeOf .scalar 0xb0528600 = some (.remit 5 10 6) ∧ decodeOf .scalar 0xb0750920 = some (.remitj 7 20 9)
    ∧ decodeOf .scalar 0xb0000030 = some .rdone ∧ decodeOf .scalar 0xb4800300 = some (.gquery 8 3) := by decide

theorem decodes_lanes : decodeOf .lane 0x2308052030a03b8000000000 = some (.vfma ⟨8, 0xa, 0, 0x101, 0x10a, 7, 3, 1, 0, 0⟩)
    ∧ decodeOf .lane (leNat [0xff, 0xff, 0, 0, 0, 0, 0, 0x20, 1, 2, 0, 0x52]) = some (.vred ⟨0, 4, 0, 9, 0, 0, 0, 0, 0, 0xffff⟩) := by
  decide

theorem decodes_lane_memory : decodeOf .lane (leNat [0x10, 0, 0, 0, 0, 0, 0x70, 0x40, 0, 3, 0x60, 0x80])
      = some (.vatom ⟨0x60, 6, 0, 2, 7, 0, 0, 0, 0, 0x10⟩)
    ∧ decodeOf .lane (leNat [3, 7, 0, 0, 0, 0, 0x70, 0x81, 2, 0, 0, 0x90]) = some (.mpost ⟨0, 0, 0, 20, 23, 0, 0, 0, 0, 0x703⟩) := by
  decide

theorem decodes_front : decodeOf .front 0x02c5a50b = some (.sigwait 0 1 12 11 10) ∧ decodeOf .front 0x00c5b50b = some (.dispatch 12 11 10)
    ∧ decodeOf .front 0x0000400b = some .pcancel ∧ decodeOf .front 0x0000500b = some .prepeat ∧ decodeOf .front 0x0000600b = none := by decide

theorem rejects_words : decodeOf .scalar 0 = none ∧ decodeOf .lane 0 = none := by decide

/-! ### Numbers: the examples of the spec -/

/-- R34: the test vector of the keyed counter generator. -/
theorem test_generator : generatorGood = true := by decide

/-- R90: −7 by 2 gives −3 and −1, and 7 by 0 all ones and 7. -/
def divides : State := inCar (fun c => ((c.setSreg 4 (-7)).setSreg 5 2).setSreg 6 7)

/-- What a scalar instruction leaves in a register of that path's caravan. -/
def leaves (s : State) (i : Instr) (n : Nat) : Option Word :=
  match exec i s with
  | .next t => (t.caravan? 0).map (fun c => c.sreg n)
  | _ => none

theorem test_div : leaves divides (.div 7 4 5) 7 = some (-3) ∧ leaves divides (.divU 7 6 0) 7 = some 0xffffffffffffffff := by decide

theorem test_rem : leaves divides (.rem 7 4 5) 7 = some (-1) ∧ leaves divides (.remU 7 6 0) 7 = some 7 := by decide

/-- R94: the constant 0x123456789abcdef0 takes four words. -/
theorem test_li_lui : leaves world (.li 5 1) 5 = some 1 ∧ leaves (withReg 5 1) (.lui 5 0x23456) 5 = some 0x123456
    ∧ leaves (withReg 5 0x123456) (.lui 5 0x789ab) 5 = some 0x123456789ab
    ∧ leaves (withReg 5 0x123456789ab) (.lui 5 0xcdef0) 5 = some 0x123456789abcdef0 := by decide

/-- R38: a write of s0 is discarded. -/
theorem test_write_s0 : leaves world (.li 0 5) 0 = some 0 := by decide

/-- R12: a sum wraps. -/
theorem test_add_wraps : leaves (withReg 4 (-1)) (.addImm 4 4 1) 4 = some 0 := by decide

/-- R98: `call` leaves SPC + 4 in s63. -/
theorem test_call : leaves world (.call 5) 63 = some 0x10004 := by decide

/-- What a scalar instruction makes of the SPC. -/
def goesTo (s : State) (i : Instr) : Option Word :=
  match exec i s with
  | .next t => (t.me?).map (fun m => m.path.spc)
  | _ => none

theorem test_br_back : goesTo world (.br (-1)) = some 0xfffc := by decide

/-- R97: `lpend` of a counter of 1 falls through, and of 2 goes back. -/
theorem test_lpend : goesTo (withReg 4 1) (.lpend 4 (-2)) = some 0x10004 ∧ goesTo (withReg 4 2) (.lpend 4 (-2)) = some 0xfff8 := by decide

/-- What a scalar instruction leaves as the pending or taken trap's cause register, where its caravan has a handler. -/
def causeOf (s : State) (i : Instr) : Option Word :=
  match exec i s with
  | .next t => (t.caravan? 0).map (fun c => c.trapcause)
  | _ => none

/-- R117, R379: a software trap is taken by the handler with its code and cause. -/
theorem test_trap : causeOf (inCar (fun c => { c with trapvec := 0x10100 })) (.trap 5) = some 0x53f := by
  decide

/-- R98: a jump to an address that is no multiple of 4 raises MISALIGNED, cause 1. -/
theorem test_jmp_misaligned :
    causeOf (inCar (fun c => { c.setSreg 4 2 with trapvec := 0x10100 })) (.jmp 4)
      = some (BitVec.ofNat 64 (codeMisaligned + 0x100)) := by decide

/-! ### A lane word -/

/-- What a lane word leaves in a register of its burst, in a lane. -/
def laneLeaves (s : State) (i : Instr) (r l : Nat) : Option LaneWord :=
  match exec i s with
  | .next t => (t.me?).bind (fun m => m.path.burst.bind (fun b => Tab.get? b.regs (32 * r + l)))
  | _ => none

/-- That world's burst with lane registers set, in every lane. -/
def loaded (xs : List (Nat × LaneWord)) : State :=
  lanes { burst with regs := xs.foldl (fun t x => (List.range 32).foldl (fun u l => Tab.set u (32 * x.1 + l) x.2) t) [] }

/-- R126: a saturating sum of the largest signed integer and 1. -/
theorem test_vadd_sat : laneLeaves (loaded [(2, 0x7fffffff), (3, 1)]) (.vadd { fields 1 2 3 with mod := 0x91 }) 1 31 = some 0x7fffffff := by
  decide

/-- R127: 1.0 + 2.0 is 3.0 in FP32. -/
theorem test_vfadd : laneLeaves (loaded [(2, 0x3f800000), (3, 0x40000000)]) (.vfadd { fields 1 2 3 with mod := 0 }) 1 0 = some 0x40400000 := by
  decide

/-- R131: the class of −0 is bit 3. -/
theorem test_vfclass : laneLeaves (loaded [(2, 0x80000000)]) (.vfclass { fields 1 2 0 with mod := 0 }) 1 5 = some 8 := by decide

/-! ### The base instruction set of a front-end core -/

/-- A front-end core that runs firmware, with a register set. -/
def firmware (n : Nat) (v : Word) : State :=
  State.reset.modHart 0 0 (fun x => { x with pc := 0x100, xregs := [(n, v)] })

/-- `addi a0, a1, -1` and `c.addi a0, 1`. -/
theorem test_rv_addi : (((rvRun 0 0 0xfff58513 (firmware 11 5)).die 0).hart 0).reg 10 = 4
    ∧ (((rvRun 0 0 0x0505 (firmware 10 5)).die 0).hart 0).reg 10 = 6 ∧ (((rvRun 0 0 0x0505 (firmware 10 5)).die 0).hart 0).pc = 0x102 := by
  decide

/-- A prologue's store elsewhere than its packet copy and stack is refused (R346), and one to the copy changes it. -/
def prologue : State :=
  let d : Dispatch := { die := 0, ctx := 0, original := 0, copy := 0, dies := 1, completion := .nothing, copyAt := 0x1000, stackTop := 0x3000,
                        returnTo := 0x5000, stack := [], iteration := 0, marked := false, launches := 0, hart := some 0, instructions := 0,
                        started := 0, launch := none }
  (State.reset.modDie 0 (fun x => { x with dispatches := [(1, d)] })).modHart 0 0 (fun x =>
    { x with machineMode := false, dispatch := some 1, pc := 0x2000, xregs := [(10, 0x1000), (11, 0x7f)] })

/-- `sb a1, 3(a0)`. -/
theorem test_prologue_store : ((((rvRun 0 0 0x00b501a3 prologue).die 0).dispatches.map (fun d => d.2.copy.toNat))) = [0x7f000000] := by decide +kernel

/-- `sb a1, 64(a0)`: the operation is over. -/
theorem test_prologue_store_elsewhere : (((rvRun 0 0 0x04b50023 prologue).die 0).dispatches) = [] := by decide

/-! ### Words placed for the next step -/

/-- Whether the step after a word is placed answers a next state. -/
def runsNext (bits w : Nat) : Bool :=
  match step (State.reset.withFetchWord bits w) with
  | .next _ => true
  | _ => false

theorem test_place_scalar : runsNext 32 0x0c51bffd = true := by decide
theorem test_place_lane : runsNext 96 0x2308052030a03b8000000000 = true := by decide
theorem test_place_front : runsNext 32 0x0000400b = true := by decide

end Sys2Proof.Tests
end

