-- ==== Sys2Proof/Tests/Witness1.lean ====
section
/-!
SUPPORT. Witnesses for the statements about the machine as a whole, the scalar stream and traps: for each, a concrete state and operands
that meet its hypotheses together, every clause at a boundary of its range where it has one.
-/

namespace Sys2Proof.Tests

open Sys2Proof Sys2Proof.Machine

/-- Every instruction whose fields are legal runs in that world: the hypothesis of every completion of the scalar stream. -/
theorem witness_runs (i : Instr) (h : i.check = none) : world.Runs worldMe i := by
  refine ⟨rfl, rfl, rfl, rfl, rfl, h, rfl, rfl⟩

theorem witness_ScalarDivision : worldMe.reg 5 = 0 ∧ (meOf (withReg 5 (-1))).reg 5 ≠ 0
    ∧ (let s := inCar (fun c => (c.setSreg 4 (BitVec.ofInt 64 (-2 ^ 63))).setSreg 5 (-1))
      runsB s (.div 6 4 5) = true ∧ (meOf s).reg 4 = BitVec.ofInt 64 (-2 ^ 63) ∧ (meOf s).reg 5 = -1) := by decide

theorem witness_ScalarBits : holdsCode 9 0 1 = some false ∧ (Instr.cmp 1 2 3 9).check = none ∧ holdsCode 0 1 1 = some true := by decide

theorem witness_ScalarImmediates : holdsCode 9 (worldMe.reg 2) ((-1 : BitVec 10).signExtend 64) = some false
    ∧ (Instr.cmpImm 1 2 9 (-1)).check = none := by decide

theorem witness_DecodeEncode : (Instr.addImm 63 63 0x3fff).WellFormed ∧ encode (.addImm 63 63 0x3fff) = some (.scalar, 0x0fffffff) := by
  decide

/-- A scalar word placed where the next step fetches it. -/
def placed : State := State.reset.withFetchWord 32 0x0c51bffd

theorem witness_StepKeepsInv : memWf placed.mem = true ∧ placed.writes = [] ∧ (match step placed with
    | .next _ => true
    | _ => false) = true := by decide

/-- The turn of that step, and the code that it fetches. -/
def placedTurn : State := placed.turned [] (.path 0 0 0)

theorem placed_code : placedTurn.CodeAt (meOf placedTurn) (meOf placedTurn).path.spc 4 0x0c51bffd page := by
  refine ⟨?_, ?_, ?_, ?_, ?_, ?_, ?_, ?_, ?_⟩ <;> decide

theorem witness_StepRunsScalar : placed.agenda = [.path 0 0 0] ∧ placed.stopped = false ∧ placedTurn.me?.isSome = true
    ∧ (placedTurn.between (meOf placedTurn)).isNone = true ∧ (meOf placedTurn).path.spc.toNat % 4 = 0
    ∧ decodeOf .scalar 0x0c51bffd = some (.addImm 5 6 0x3ffd)
    ∧ Tab.get? (placedTurn.core 0).scode (codeKey (meOf placedTurn) page (meOf placedTurn).path.spc) = none
    ∧ (let s := placedTurn.modCore 0 (fun c => { c with scode := [(codeKey (meOf placedTurn) page 0x10000, 0x0c51bffd)] })
      Tab.get? (s.core 0).scode (codeKey (meOf s) page 0x10000) = some (BitVec.ofNat 32 0x0c51bffd)) := by decide

/-- A lane word placed where the next step fetches it. -/
def lanePlaced : State := (State.reset.withFetchWord 96 0x2308052030a03b8000000000).turned [] (.path 0 0 0)

theorem witness_StepRunsLane : (State.reset.withFetchWord 96 0x2308052030a03b8000000000).agenda = [.lane 0 0 0]
    ∧ lanePlaced.stopped = false ∧ (meOf lanePlaced).path.burst.map (fun b => (b.entry.start, b.pos, b.issued)) = some (0x10000, 0, false)
    ∧ lanePlaced.homeNat (physical page 0x10000) 12 = 0x2308052030a03b8000000000
    ∧ (decodeOf .lane 0x2308052030a03b8000000000).isSome ∧ (lanePlaced.core 0).lcode = [] := by decide

/-- A context whose tables map the first GiB to itself. -/
def tables (s : State) : State :=
  { s with contexts := Tab.modify s.contexts 0 (fun c => { c with root := 0x3000 }),
           mem := [(0x3000, 1), (0x3001, 0x40), (0x4000, 0x1f)] }

/-- That page of a gibibyte, as an access at an address finds it. -/
def gib (va : Nat) : Translation :=
  { ctx := 0, size := 65536, base := va / 65536 * 65536, readable := true, writable := true, executable := true, package := none,
    localDie := none }

theorem witness_StepRunsFront : (let s := State.reset.withFetchWord 32 0x0000400b
      s.agenda = [.hart 0 0] ∧ s.stopped = false ∧ ((s.die 0).hart 0).machineMode = true ∧ ((s.die 0).hart 0).dispatch = none ∧ 0x0000400b % 2 ^ 7 = 0x0b
      ∧ leNat ((List.range 4).map (fun k => Tab.getD (s.die 0).localMem ((((s.die 0).hart 0).pc.toNat + k) % 2 ^ 18) (0 : Byte))) = 0x0000400b)
    ∧ (let s := ({ tables world with mem := [(0x3000, 1), (0x3001, 0x40), (0x4000, 0x1f), (0x10000, 0x0b), (0x10001, 0x40)] } : State).modHart 0 0
        (fun x => { x with machineMode := false, pc := 0x10000 })
      (match s.walkServe 0 0x10000 .fetch with
        | .leaf t v => decide (t = gib 0x10000) && t.package.isNone && !v.poisoned (physical t 0x10000) 4
          && decide (leNat ((List.range 4).map (fun k => v.homeByte (physical t 0x10000 + k))) = 0x0000400b)
        | _ => false) = true
      ∧ (s.prologueOf 0 0).isNone = true ∧ (0x10000 : Word).toNat % 65536 + 4 ≤ 65536) := by decide

/-- A queue table whose queue 0 is enabled with sixteen entries, in context 0, and a command that it holds. -/
def queues (c : Command) : State :=
  { tables world with
    mem := [(0x3000, 1), (0x3001, 0x40), (0x4000, 0x1f), (0x200000, 1), (0x200001, 0x40), (0x200010, 0x10)],
    bar := { State.reset.bar with qtab := 0x200000, enabled := true, featEn := 1 },
    queues := [(0, { head := 0, tail := 1, mapped := some 0, held := some c, open_ := [] })] }

/-- A NOP command. -/
def nopCommand : Command := { w0 := 0, w1 := 0, w2 := 0, w3 := 0, w4 := 0, w5 := 0, w6 := 0, w7 := 0 }

theorem witness_StepRunsRows : (let s := { queues nopCommand with agenda := [.queue 0] }
      s.stopped = false ∧ s.queueLive 0 = true ∧ (s.queue 0).mapped.isSome ∧ (s.queue 0).held = some nopCommand)
    ∧ isCommand 0 nopCommand (.nopCommand 0 nopCommand) ∧ commandQueue (.doorbell 0) = none
    ∧ (match exec (.doorbell 0) State.reset with
      | .next _ => true
      | _ => false) = true
    ∧ (match exec (.timerFire 0) { State.reset with focus := .idle } with
      | .next _ => true
      | _ => false) = true
    ∧ isMailbox (.doorbell 0) = false ∧ isMailbox (.ctxRemove 1 1) = true ∧ State.reset.mailWaiting = []
    ∧ State.reset.mailHeld (.ctxRemove 1 1) = false
    ∧ ({ State.reset with clearing := [(0, 7)] } : State).mailHeld (.ctxRemove 1 1) = true := by
  refine ⟨by decide, rfl, by decide, by decide, by decide, rfl, rfl, rfl, rfl, rfl⟩

theorem witness_HomeMemory : memWf [(0, 1), (2 ^ 48, 255)] = true ∧ memWf [] = true ∧ memWf world.mem = true := by decide

/-- A store of two bytes that straddle two sectors, and that world with it in its path's queue. -/
def straddling : StoreEntry := { place := .mem, addr := 0x1003f, bytes := [1, 2] }
def stores : State := inPath (fun x => { x with storeq := [straddling] })

theorem witness_StorePerformed : (∃ c x, stores.caravan? 0 = some c ∧ Tab.get? c.paths 0 = some x ∧ x.storeq = [straddling])
    ∧ stores.roomFor 0 0x1003f ∧ ∃ c x, (inPath (fun x => { x with storeq := [{ straddling with after := 1 }] })).caravan? 0 = some c
      ∧ Tab.get? c.paths 0 = some x ∧ x.storeq = [{ straddling with after := 1 }] :=
  ⟨⟨_, _, rfl, rfl, rfl⟩, .inr (by decide), _, _, rfl, rfl, rfl⟩

theorem witness_Retire : ∃ c x, world.caravan? worldMe.key = some c ∧ Tab.get? c.paths worldMe.p = some x := ⟨_, _, rfl, rfl⟩

/-! ### Loads and stores -/

/-- That world with an address in its page in s5. -/
def data (a : Word := 0x10010) : State := withReg 5 a

theorem witness_Load : runsB data (.ld 6 5 3 0) = true ∧ reachB data (meOf data) 0x10010 8 page = true
    ∧ reachB data (meOf data) 0x1ffff 1 page = true ∧ ((meOf data).reg 5 + (1 : Word) * 1).toNat % 2 ≠ 0 := by decide

theorem witness_Store : mapsB data (meOf data) 0x10010 8 .write page = true ∧ (meOf data).car.capsule = none
    ∧ (meOf data).path.relScope = 0 ∧ inStack (meOf data).car (meOf data).blk.stackBytes 0x10010 8 = false
    ∧ inStack worldMe.car worldMe.blk.stackBytes 0x40000 8 = true ∧ inStack worldMe.car worldMe.blk.stackBytes 0x40ff8 8 = true
    ∧ (let s := world.modCore 0 (fun c => { c with tlb := Tab.set c.tlb 4 { page with base := 0x40000 } })
      mapsB s (meOf s) 0x40ff8 8 .write { page with base := 0x40000 } = true)
    ∧ worldMe.car.stklim.toNat = 0x40000 := by decide

/-- That world with a queue entry in an operand queue. -/
def queued (n : Nat) (e : List LaneWord) : State := inCar (fun c => { c with queues := [(0, List.replicate n e)] })

theorem witness_QueueLoads : (∀ l < 32, (worldMe.path.em &&& ~~~ worldMe.car.xm).getLsbD l = true)
    ∧ (List.range 32).all (fun l => reachB data (meOf data) (0x10010 + BitVec.ofNat 64 l * 4) 4 page) = true
    ∧ (data.core 0).l1Lines.length + 32 ≤ 256 ∧ (Tab.getD worldMe.car.queues 0 []).length < 8 ∧ 8 ≤ (Tab.getD (meOf (queued 8 [])).car.queues 0 []).length
    ∧ (Instr.ald 0 5 6 4).check = none ∧ (Instr.aldx 5 0 5 6 0).check = none := by decide

/-! ### Control flow and lanes -/

/-- That world inside a match handler. -/
def handled : State := inPath (fun x => { x with handler := some { matched := 0x12000, count := 63 } })

theorem witness_Branches : holdsCode 0 (worldMe.reg 5) 0 = some true ∧ holdsCode 1 (worldMe.reg 5) 0 = some false
    ∧ (worldMe.reg 5).toNat % 4 = 0 ∧ ((meOf (withReg 5 2)).reg 5).toNat % 4 ≠ 0 ∧ worldMe.path.handler = none
    ∧ ((meOf (withReg 63 2)).reg 63).toNat % 4 ≠ 0 ∧ (meOf handled).path.handler = some { matched := 0x12000, count := 63 }
    ∧ runsB handled .ret = true ∧ worldMe.reg 5 = 0 ∧ (meOf (withReg 5 1)).reg 5 = 1 ∧ (Instr.lpset 4 5 0x1fff).check = none := by decide

/-- That world with lanes 0 to 15 in p1, and one whose stack pointer and limit leave room for a record. -/
def split : State := inCar (fun c => { c with preds := [(1, 0xffff)] })

/-- That world divided at a join: path 0 is in focus. -/
def divided (x : Path → Path) : State :=
  inCar (fun c => { c with split := some 0x10020, paths := [(0, x (Path.start 0x10020)), (1, Path.start 0x10040)] })

theorem witness_Divide : runsB split (.brd 1 0 4 8) = true ∧ (meOf split).path.drained = true
    ∧ ((meOf split).lanesOn &&& (meOf split).chosen 1 0) = 0xffff ∧ (meOf split).lanesOn = 0xffffffff
    ∧ (meOf split).car.split = none ∧ (meOf split).p = 0 ∧ (meOf (lanes)).path.drained = false
    ∧ (worldMe.lanesOn &&& worldMe.chosen 0 0) = worldMe.lanesOn ∧ (worldMe.lanesOn &&& worldMe.chosen 0 1) = 0
    ∧ (meOf (divided id)).car.split.isSome ∧ (meOf (divided id)).car.depth < 31
    ∧ (meOf (divided id)).car.stklim.toNat + (meOf (divided id)).car.recordBytes + 32 ≤ ((meOf (divided id)).car.sreg 61).toNat
    ∧ (let full : State := divided (fun x => { x with recs := List.replicate 31 (.split 0 0 0 false) })
      31 ≤ (meOf full).car.depth)
    ∧ (let low : State := (divided id).modCaravan 0 (fun c => c.setSreg 61 0x40010)
      ((meOf low).car.sreg 61).toNat < (meOf low).car.stklim.toNat + (meOf low).car.recordBytes + 32 ∧ (meOf low).car.depth < 31) := by
  decide

/-- That world with its stack's page cached. -/
def stacked : State := world.modCore 0 (fun c => { c with tlb := Tab.set c.tlb 4 { page with base := 0x40000 } })

theorem witness_Records : ∀ n ∈ [32, 160], putDone (stacked.recordPut (meOf stacked) n) = true := by decide +kernel

/-- That world with a record of a division on its path. -/
def recorded (r : DivRec) : State := inPath (fun x => { x with recs := [r] })

theorem witness_Rejoin : worldMe.path.drained = true ∧ worldMe.path.recs = [] ∧ worldMe.car.split = none
    ∧ (let s := recorded (.split 0x10040 0xff 0x10000 false)
      runsB s .join = true ∧ (meOf s).path.recs = [.split 0x10040 0xff 0x10000 false] ∧ (meOf s).path.spc = 0x10000)
    ∧ (meOf (recorded (.split 0x10040 0xff 0x10000 true))).path.drained = true
    ∧ (meOf (recorded (.split 0x10040 0xff 0x10004 true))).path.spc ≠ 0x10004
    ∧ (meOf (recorded (.callv 1 0 [] 0))).path.recs = [.callv 1 0 [] 0]
    ∧ (meOf (divided id)).car.paths = [(0, (meOf (divided id)).path), (1, Path.start 0x10040)]
    ∧ runsB (divided id) .done = true := by decide

theorem witness_Merge :
    (let y : Path := { Path.start 0x10020 with token := some true }
      let s := inCar (fun c => { c with split := some 0x10020, paths := [(0, Path.start 0x10020), (1, y)] })
      runsB s .join = true ∧ (meOf s).path.recs = [] ∧ (meOf s).car.split = some (meOf s).path.spc ∧ (meOf s).p = 0
      ∧ (meOf s).car.paths = [(0, (meOf s).path), (1, y)])
    ∧ runsB (divided id) .join = true ∧ (meOf (divided id)).car.split = some (meOf (divided id)).path.spc
    ∧ (Path.start 0x10040).spc ≠ (meOf (divided id)).path.spc := by decide

/-- That world with a callable target at 0x10104, its header before it, and an entry that names it in every lane. -/
def calls : State :=
  { (queued 1 (List.replicate 32 0x104)).modCaravan 0 (fun c => c.setSreg 5 0x10000) with
    mem := [(0x10101, 0x80), (0x10103, 0xfc)] }

theorem witness_CallV : (meOf calls).path.drained = true ∧ siblingPops (meOf calls) 0 = false
    ∧ Tab.getD (meOf calls).car.queues 0 [] = [List.replicate 32 0x104] ∧ (meOf calls).lanesOn = 0xffffffff
    ∧ calls.homeNat (physical page 0x10100) 4 = 0x3f * 2 ^ 26 + 2 * 2 ^ 14 ∧ 8 * 2 ≤ (meOf calls).car.lbud
    ∧ calls.poisoned (physical page 0x10100) 4 = false
    ∧ (meOf calls).car.depth < 31
    ∧ (meOf calls).car.stklim.toNat + (meOf calls).car.recordBytes + 160 ≤ ((meOf calls).car.sreg 61).toNat
    ∧ (let s := calls.modPath 0 0 (fun x => { x with em := 0 })
      (meOf s).lanesOn = 0 ∧ runsB s (.callv 5 0) = true) := by decide

theorem witness_LaneControl : (worldMe.reg 4).toNat ≤ 255 ∧ worldMe.path.laneq.length < 4
    ∧ (let e : LaneEntry := { rep := 0, len := 0, start := 0, lrun := 0 }
      4 ≤ (meOf (inPath (fun x => { x with laneq := [e, e, e, e] }))).path.laneq.length)
    ∧ 255 < ((meOf (withReg 4 256)).reg 4).toNat ∧ (meOf lanes).path.drained = false ∧ worldMe.path.drained = true
    ∧ 3 * 64 + 63 < worldMe.car.lbud ∧ (meOf (inCar (fun c => { c with lbud := 248 }))).car.lbud ≤ 3 * 64 + 56 := by decide

/-! ### Control registers, system instructions, traps -/

theorem witness_Controls : worldMe.path.drained = true ∧ (meOf lanes).path.drained = false ∧ (Instr.mfk 1 0x5f).check = none
    ∧ (Instr.mtk 1 0x5f).check = none ∧ runsB lanes (.mtk 1 0x00) = true := by decide

theorem witness_System : ¬ (worldMe.blk.pk.debug = true) ∧ ¬ (worldMe.blk.pk.preempt = true)
    ∧ (let s := { inBlock (fun b => { b with pk := { b.pk with preempt := true, phintReq := true, debug := true } }) with
          contexts := Tab.modify world.contexts 0 (fun c => { c with debug := true }) }.modCore 0 (fun c => { c with request := some 0 })
      (meOf s).blk.pk.preempt = true ∧ (meOf s).blk.pk.phintReq = true ∧ (meOf s).blk.halves.any (fun h => (s.core h.core).request.isSome) = true
      ∧ (meOf s).blk.pk.debug = true ∧ (Tab.get? s.contexts 0).map Context.debug = some true) := by decide

theorem witness_Flush : (worldMe.reg 5).toNat = 0 ∧ ((meOf (withReg 5 64)).reg 5).toNat ≠ 0 ∧ canonical 0x1003f = true
    ∧ world.peek 0 0 0x1003f = some 0x1003f := by decide

/-- That world with a handler installed. -/
def handler : State := inCar (fun c => { c with trapvec := 0x10100 })

/-- Which bytes a stack cache holds after a write does not rest on their values. -/
theorem set_keys {α : Type} (k : Nat) (v w : α) : ∀ t r : Tab α, t.map Prod.fst = r.map Prod.fst →
    (Tab.set t k v).map Prod.fst = (Tab.set r k w).map Prod.fst
  | [], [], _ => rfl
  | [], _ :: _, h => by simp at h
  | _ :: _, [], h => by simp at h
  | (a, x) :: t, (b, y) :: r, h => by
    obtain ⟨rfl, h'⟩ : a = b ∧ t.map Prod.fst = r.map Prod.fst := by simpa using h
    simp only [Tab.set]
    split
    · simp [h']
    · split <;> simp [h', set_keys k v w t r h']

theorem stackWrite_lines (bs cs : List Byte) : ∀ (c d : Caravan) (at_ : Nat), bs.length = cs.length →
    c.stack.map Prod.fst = d.stack.map Prod.fst → (c.stackWrite at_ bs).stackLines = (d.stackWrite at_ cs).stackLines := by
  induction bs generalizing cs with
  | nil =>
    intro c d at_ h k
    obtain rfl : cs = [] := by simpa using h.symm
    simp only [Caravan.stackWrite, Caravan.stackLines]
    have lines (t : Tab Byte) : t.map (fun x => x.1 / 512) = (t.map Prod.fst).map (· / 512) := by simp
    rw [lines, k, ← lines]
  | cons b bs ih =>
    intro c d at_ h k
    cases cs with
    | nil => simp at h
    | cons e cs => exact ih cs _ _ _ (by simpa using h) (set_keys at_ b e _ _ k)

theorem witness_TrapToHandler : ∃ c x b, handler.caravan? 0 = some c ∧ Tab.get? c.paths 0 = some x ∧ Tab.get? handler.blocks c.block = some b
    ∧ c.capsule = none ∧ (∃ h, b.half? c.half = some h ∧ h.claims = []) ∧ inStack c b.stackBytes ((c.sreg 61).toNat - 64) 64 = true
    ∧ ((c.sreg 61).toNat - 64) % 65536 ≤ 65472
    ∧ (∀ bs : List Byte, bs.length = 64 → (c.stackWrite ((c.sreg 61).toNat - 64) bs).stackLines.length ≤ 4)
    ∧ c.trapvec ≠ 0 ∧ codeMisaligned ≠ codePoison ∧ codeMisaligned ≠ codeWatchdog ∧ c.depth = 0 ∧ c.split = none
    ∧ c.stklim.toNat + 64 ≤ (c.sreg 61).toNat := by
  refine ⟨_, _, _, rfl, rfl, rfl, by decide, ⟨_, rfl, by decide⟩, by decide, by decide, fun bs h => ?_, by decide, by decide, by decide, by decide,
    by decide, by decide⟩
  rw [stackWrite_lines bs (List.replicate 64 0) _ _ _ (by simpa using h) rfl]
  decide +kernel

theorem witness_TrapEndsCaravan : ∃ c x b, world.caravan? 0 = some c ∧ Tab.get? c.paths 0 = some x ∧ Tab.get? world.blocks c.block = some b
    ∧ c.capsule = none ∧ c.trapvec = 0 ∧ b.faulted = none ∧ c.engineFaults = [] := ⟨_, _, _, rfl, rfl, rfl, rfl, rfl, rfl, rfl⟩

theorem witness_TrapWaits : (∃ c x, world.caravan? 0 = some c ∧ Tab.get? c.paths 0 = some x ∧ x.drained = true)
    ∧ ∃ c x, lanes.caravan? 0 = some c ∧ Tab.get? c.paths 0 = some x ∧ x.drained = false :=
  ⟨⟨_, _, rfl, rfl, by decide⟩, ⟨_, _, rfl, rfl, by decide⟩⟩

/-! ### Groups, barriers, the pool, frames -/

/-- That world's group with a second member, and abandoned. -/
def groupOf (f : Group → Group) : State := inBlock (fun b => { b with groups := b.groups.map f })

theorem witness_Arrive : (let s := groupOf (fun g => { g with members := 3 })
      ∃ x, (meOf s).blk.groups[0]? = some x ∧ x.has 0 0 = true ∧ x.abandoned = false ∧ x.counted 0 0 = false
        ∧ (meOf s).car.arriving 0 = false ∧ (meOf s).path.arrived.contains 0 = false ∧ (meOf s).path.laneq = [] ∧ runsB s (.arrive 1 0) = true)
    ∧ (let s := (divided id).modPath 0 0 (fun x => { x with arrivals := [(0, 1)] })
      (meOf s).car.split.isSome = true ∧ (meOf s).car.arriving 0 = true ∧ (meOf s).path.arrived.contains 0 = false)
    ∧ (∃ x, worldMe.blk.groups[0]? = some x ∧ x.has 0 0 = true ∧ (x.arr ||| 1) = x.members)
    ∧ (∃ x, (meOf (groupOf (fun g => { g with abandoned := true }))).blk.groups[0]? = some x ∧ x.abandoned = true ∧ x.has 0 0 = true)
    ∧ (meOf (inPath (fun x => { x with arrived := [0] }))).path.arrived.contains 0 = true
    ∧ worldMe.blk.groups[255]? = none := by
  refine ⟨⟨_, rfl, ?_⟩, ?_, ⟨_, rfl, ?_⟩, ⟨_, rfl, ?_⟩, ?_, ?_⟩ <;> decide

theorem witness_Await : (∃ x, worldMe.blk.groups[0]? = some x ∧ x.has 0 0 = true ∧ x.abandoned = false
      ∧ x.phase = (worldMe.reg 1).getLsbD 0 ∧ x.phase ≠ ((meOf (withReg 1 1)).reg 1).getLsbD 0 ∧ (x.arr ||| 1) = x.members ∧ x.partnerArr = x.partner)
    ∧ worldMe.path.token = none ∧ worldMe.car.arriving 0 = false ∧ worldMe.path.arrived = []
    ∧ (meOf (inPath (fun x => { x with token := some false }))).path.token = some false
    ∧ (∃ x, (meOf (groupOf (fun g => { g with members := 3 }))).blk.groups[0]? = some x ∧ (x.arr ||| 1) ≠ x.members) := by
  refine ⟨⟨_, rfl, ?_⟩, ?_, ?_, ?_, ?_, ⟨_, rfl, ?_⟩⟩ <;> decide

theorem witness_CompletionBarriers : (worldMe.blk.barrier 15).pending = 0
    ∧ ((meOf (inBlock (fun b => { b with barriers := [(15, { b.barrier 15 with pending := 1 })] }))).blk.barrier 15).pending ≠ 0
    ∧ worldMe.car.engineFaults = []
    ∧ (let f : EngineFault := { barrier := 15, order := 3, code := 1, cause := 0, addr := 0 }
      let g : EngineFault := { barrier := 15, order := 4, code := 2, cause := 0, addr := 0 }
      let s := inCar (fun c => { c with engineFaults := [g, f] })
      f ∈ (meOf s).car.engineFaults ∧ (∀ x ∈ (meOf s).car.engineFaults, x.barrier = 15 → x ≠ f → f.order < x.order)
      ∧ runsB s (.cbwait 1 15) = true) := by decide

/-- That world's block with a pool of registers. -/
def pooled (n lbud : Nat) : State :=
  (inBlock (fun b => { b with pk := { b.pk with pool := true }, halves := b.halves.map (fun h => { h with pool := n }) })).modCaravan 0
    (fun c => { c with lbud := lbud })

theorem witness_RegisterPool : (∃ h, worldMe.blk.half? worldMe.car.half = some h) ∧ worldMe.car.lbud % 8 = 0 ∧ worldMe.blk.pk.pool = false
    ∧ (∃ h, (meOf (pooled 8 256)).blk.half? 0 = some h ∧ h.claims = [] ∧ 8 * 1 ≤ h.pool ∧ h.pool < 8 * 2)
    ∧ (meOf (pooled 8 256)).blk.pk.pool = true ∧ 8 * 30 + 16 ≤ (meOf (pooled 8 256)).car.lbud
    ∧ (meOf (pooled 8 16)).car.lbud < 8 * 1 + 16 ∧ (meOf (pooled 8 248)).car.lbud + 8 * 1 ≤ 256 ∧ (meOf (pooled 8 240)).car.lbud + 8 * 2 ≤ 256
    ∧ runsB (pooled 8 256) (.rgive 30) = true ∧ runsB (pooled 8 248) (.rclaim 1) = true ∧ (meOf (pooled 8 248)).path.token = none
    ∧ runsB ((pooled 8 248).modPath 0 0 (fun x => { x with token := some true })) (.rclaim 1) = true := by
  refine ⟨⟨_, rfl⟩, ?_, ?_, ⟨_, rfl, ?_⟩, ?_, ?_, ?_, ?_, ?_, ?_, ?_, ?_, ?_⟩ <;> decide

theorem witness_Frames : worldMe.reg 61 = 0x41000 ∧ (worldMe.reg 61 - 8).toNat % 65536 ≤ 65528 ∧ (stacked.core 0).l1Lines.length + 2 ≤ 256 ∧ worldMe.car.stklim.toNat + 16 * 1 ≤ (worldMe.reg 61).toNat
    ∧ inStack worldMe.car worldMe.blk.stackBytes (worldMe.reg 61 - 8).toNat 8 = true
    ∧ (List.range 8).all (fun i => mapsB stacked (meOf stacked) (0x40ff8 + BitVec.ofNat 64 i) 1 .write { page with base := 0x40000 }) = true
    ∧ (worldMe.reg 61).toNat < worldMe.car.stklim.toNat + 16 * 0x3fff
    ∧ (let s := stacked.modCaravan 0 (fun c => c.setSreg 61 0x40ff0)
      (List.range 8).all (fun i => reachB s (meOf s) (0x41000 - 8 + BitVec.ofNat 64 i) 1 { page with base := 0x40000 }) = true
      ∧ ((meOf s).reg 61).toNat + 16 * 1 ≤ (meOf s).car.stkbase.toNat ∧ runsB s (.leave 1) = true)
    ∧ worldMe.car.stkbase.toNat < (worldMe.reg 61).toNat + 16 * 1 := by decide

end Sys2Proof.Tests
end

