-- ==== Sys2Proof/Tests/Witness2.lean ====
section
/-!
SUPPORT. Witnesses for the statements about ordering, the engines and the records: for each, a concrete state and operands that meet
its hypotheses together.
-/

namespace Sys2Proof.Tests

open Sys2Proof Sys2Proof.Machine

/-! ### Ordering -/

/-- A release of core 1 at package scope. -/
def release : ReleaseRecord := { size := 8, core := 1, block := 1, scope := 4, sectors := [0x400] }

theorem witness_Fences : worldMe.slot < 64 ∧ worldMe.path.drained = true ∧ (meOf lanes).path.drained = false ∧ (meOf lanes).path.laneq ≠ []
    ∧ worldMe.path.laneq = [] ∧ (Instr.fence 0 5).check = none ∧ (Instr.fence 2 1).check = none ∧ (Instr.fence 1 1).check = none
    ∧ runsB lanes (.fence 0 5) = true ∧ runsB lanes .relflush = true ∧ 2 ≤ (5 : BitVec 3).toNat
    ∧ (meOf (inPath (fun x => { x with loaded := [(0x10010, (8, [(0x10010, release)]))] }))).path.loaded = [(0x10010, (8, [(0x10010, release)]))]
    ∧ release.core ≠ 0 ∧ inScope release.scope release.core release.block 0 0 = true ∧ inScope 4 release.core release.block 0 0 = true := by
  decide

theorem witness_AcquireLoad : reachB data (meOf data) 0x10010 8 page = true ∧ runsB data (.ldacq 6 5 5 1 0) = true
    ∧ inStack (meOf data).car (meOf data).blk.stackBytes 0x10010 8 = false ∧ (meOf data).slot < 64 ∧ (meOf data).car.capsule = none
    ∧ data.releases = [] ∧ data.owes 0x10010 8 = false ∧ waitingStores (meOf data).path.storeq = [] ∧ 0x10010 + 8 ≤ hbmBytes
    ∧ data.cellsIn 0x10000 64 = [] ∧ (Instr.ldacq 6 5 1 0 0).check = none ∧ (2 ≤ (1 : BitVec 3).toNat || 1 < (meOf data).blk.halves.length) = false
    ∧ (0x10012 : Word).toNat % 4 ≠ 0 := by decide

theorem witness_ReleaseStore : mapsB data (meOf data) 0x10010 8 .write page = true ∧ data.monitor.replay.isNone = true
    ∧ inStack (meOf data).car (meOf data).blk.stackBytes 0x10010 8 = false ∧ (meOf data).path.drained = true
    ∧ runsB data (.strel 6 5 5 1 0) = true
    ∧ (let s := data.modPath 0 0 (fun x => { x with burst := some burst, laneq := [burst.entry] })
      (meOf s).path.drained = false ∧ (meOf s).path.laneq ≠ [] ∧ runsB s (.strel 6 5 5 1 0) = true ∧ mapsB s (meOf s) 0x10010 8 .write page = true) := by decide

theorem witness_AcquirePulls : inScope release.scope release.core release.block 0 0 = true
    ∧ inScope 4 release.core release.block 0 0 = true ∧ release.core ≠ 0 ∧ world.cells = [] ∧ 0x10010 < 0x10017 + 1 ∧ 0x10017 < 0x10010 + release.size := by
  decide

/-! ### Copies and tiles -/

/-- That world with s5 at a record of 32 bytes, its memory as given. -/
def recordAt (mem : List Host.Cell) : State := { data 0x10020 with mem := mem }

/-- A record of one run of 64 bytes, with tile 1 of 64 bytes at offset 0 in word 3 where it is a fill. -/
def lineRecord (w3 : Nat) : CopyRecord := { len0 := 64, n1 := 1, n2 := 1, words := fun k => [64, 1, 1, w3].getD k 0 }

/-- The states that hold that record, and that run. -/
def copies : State := recordAt [(0x10020, 64), (0x10024, 1), (0x10028, 1)]
def fills : State := recordAt [(0x10020, 64), (0x10024, 1), (0x10028, 1), (0x1002e, 8)]

theorem witness_Copy : reachB copies (meOf copies) 0x10020 32 page = true
    ∧ (∀ k < 8, (lineRecord 0).words k = copies.seen (meOf copies) page 0x10020 32 / 2 ^ (32 * k) % 2 ^ 32)
    ∧ (let w : CopyRecord := { lineRecord 0 with n1 := 1, n2 := 1 }
      1 ≤ w.len0 ∧ w.len0 ≤ 2 ^ 24 ∧ w.len0 * w.n1 * w.n2 ≤ 2 ^ 32 ∧ w.len0 = w.words 0 ∧ w.words 3 = 0)
    ∧ runsB copies (.xcopy 6 7 5 0 1) = true ∧ runsB copies (.xcopy 6 7 5 2 3) = true
    ∧ ((copies.core 0).copies.filter (fun o => !o.done)).length < 64
    ∧ ((0 : Word).toNat < 2 ^ 20 ∧ (0 : Int) + 0 + 64 ≤ 4096 * (meOf copies).blk.pk.scratch) := by decide

/-- A copy of that caravan in the engine. -/
def copyOp : CopyOp :=
  { kind := .copy, order := 7, issuer := 0, caravan := 0, block := 0, ctx := 0, bar := none, srcPlace := .mem, dstPlace := .mem, src := 0x10100,
    dst := 0x10200, len0 := 4, n1 := 1, n2 := 1, srcS1 := 0, srcS2 := 0, dstS1 := 0, dstS2 := 0, failed := none, done := false }

theorem witness_CopyFull : 64 ≤ (({ copies.core 0 with copies := List.replicate 64 copyOp } : Core).copies.filter (fun o => !o.done)).length := by
  decide

/-- That world with copies in its caravan's batch 0. -/
def batch (os : List CopyOp) : State :=
  (inCore (fun c => { c with copies := os })).modCaravan 0 (fun c => { c with batches := [(0, os.map CopyOp.order)] })

theorem witness_Batches :
    (∃ o ∈ ((batch [copyOp]).core 0).copies, o.done = false ∧ (Tab.getD (meOf (batch [copyOp])).car.batches 0 []).contains o.order = true)
    ∧ (let s := batch [{ copyOp with done := true }]
      ∀ o ∈ (s.core 0).copies, o.done = true ∧ o.failed = none)
    ∧ (let s := batch [{ copyOp with done := true, failed := some (codePageFault, 2, 0x10100) }]
      (∀ o ∈ (s.core 0).copies, o.done = true) ∧ runsB s (.xwait 0) = true)
    ∧ (meOf (batch [copyOp])).car.sealCount % 16 = 0 ∧ runsB (batch []) (.xseal 1) = true ∧ (worldMe.car.sealCount % 16 = 0) := by
  refine ⟨⟨copyOp, ?_⟩, ?_, ?_, ?_, ?_, ?_⟩ <;> decide

theorem witness_TileFill : reachB fills (meOf fills) 0x10020 32 page = true
    ∧ (∀ k < 8, (lineRecord (2 ^ 19)).words k = fills.seen (meOf fills) page 0x10020 32 / 2 ^ (32 * k) % 2 ^ 32)
    ∧ 64 * 1 * 1 = tileBytes (2 ^ 19 / 2 ^ 19) ∧ 2 ^ 19 % 2 ^ 19 % 64 = 0 ∧ tileBytes 0 = 524288
    ∧ ((fills.core 0).tile 63).state = 0 ∧ tileBytes 1 ≤ 4096 * (meOf fills).blk.pk.scratch ∧ tileBytes 1 ≤ 4096 * (meOf fills).blk.pk.ob
    ∧ ((meOf fills).blk.barrier 15).pending < 65535 ∧ runsB fills (.tfill 63 7 5 15) = true ∧ runsB fills (.tfillOb 63 7 5 15) = true
    ∧ (((fills.modCore 0 (fun c => { c with tiles := [(63, { c.tile 63 with state := 2 })] })).core 0).tile 63).state ≠ 0 := by decide

/-- The copy record's state with tile 63 of 64 bytes in a state, of this block or another's. -/
def tiled (state block : Nat) : State :=
  copies.modCore 0 (fun c => { c with tiles := [(63, { c.tile 63 with state := state, block := block, length := 1, offset := 0 })] })

theorem witness_Tiles : 64 * 1 * 1 ≠ ({ (tiled 2 0).core 0 with tiles := [(63, { (copies.core 0).tile 63 with state := 2, length := 2 })] }.tile 63).bytes ∧ ((tiled 2 0).core 0).tile 63 = { (copies.core 0).tile 63 with state := 2, block := 0, length := 1, offset := 0 }
    ∧ (((tiled 2 1).core 0).tile 63).block ≠ (meOf (tiled 2 1)).car.block ∧ (((tiled 1 0).core 0).tile 63).state = 1
    ∧ (((tiled 3 0).core 0).tile 63).state = 3 ∧ (((tiled 2 0).core 0).tile 63).block = (meOf (tiled 2 0)).car.block
    ∧ reachB (tiled 2 0) (meOf (tiled 2 0)) 0x10020 32 page = true
    ∧ (∀ k < 8, (lineRecord 0).words k = (tiled 2 0).seen (meOf (tiled 2 0)) page 0x10020 32 / 2 ^ (32 * k) % 2 ^ 32)
    ∧ 64 * 1 * 1 = (((tiled 2 0).core 0).tile 63).bytes ∧ runsB (tiled 2 0) (.tdrain 63 7 5 15) = true
    ∧ runsB (tiled 1 0) (.tdrain 63 7 5 15) = true ∧ ((meOf (tiled 2 0)).blk.barrier 15).pending < 65535 := by decide

/-! ### Capsules -/

/-- That world with s5 at a cell on which a `capinit` was performed, and whose first bytes are given. -/
def cells (mem : List Host.Cell) : State := { data 0x10200 with mem := mem, cells := [0x10200] }

/-- A cell that the caravan holds. -/
def heldCell : List Host.Cell := [(0x10200, 1), (0x10209, 0x40), (0x1020d, 0x40)]

theorem cell_of (mem : List Host.Cell) : (cells mem).Cell (meOf (cells mem)) 0x10200 0x10200 := by
  refine ⟨by decide, by decide, ⟨page, rfl, rfl, rfl, by decide, rfl, rfl, by decide⟩, ⟨fun i _ => rfl, ?_⟩, ?_, rfl, ?_, rfl, rfl, show (0 : Nat) < 64 by decide, by decide⟩
  · rfl
  · exact fun _ _ => rfl
  · intro r hr
    simp [show (cells mem).releases = [] from rfl] at hr

theorem witness_CapsuleEntry : (cells []).waitersOf 0x10200 = [] ∧ (cells []).tagOf 0 < 2 ^ 32 ∧ (meOf (cells [])).p < 2
    ∧ ((cells []).cellHeader 0x10200).state = cellFree ∧ ((cells heldCell).cellHeader 0x10200).state = cellHeld
    ∧ (meOf (cells [])).reg 6 = 0 ∧ (meOf (cells [])).path.drained = true ∧ runsB (cells []) (.capinit 5 6) = true
    ∧ runsB (cells []) (.capin 5) = true ∧ runsB (cells heldCell) (.capin 5) = true ∧ runsB (cells []) (.capres 1 5) = true := by decide

/-- The caravan as that cell's holder. -/
def holder : State :=
  (cells heldCell).modCaravan 0 (fun c => { c with capsule := some { path := 0, cell := 0x10200, generation := 0, step := 0, count := 0, guardLine := none, buffer := [],
                                                                     adopter := none, descheduled := false } })

theorem witness_CapsuleSteps : (∃ r, (meOf holder).car.capsule = some r ∧ r.cell = 0x10200 ∧ r.buffer = [] ∧ r.adopter = none)
    ∧ holder.poisoned 0x10200 512 = false ∧ (∀ i < 512, holder.unsettled (0x10200 + i) = false) ∧ (meOf holder).path.fences = []
    ∧ holder.monitor.replay.isNone = true
    ∧ (let h := holder.cellHeader 0x10200
      h.state = cellHeld ∧ h.holder = holder.tagOf 0 ∧ h.generation = 0 ∧ h.step = 0 ∧ h.behalf = h.holder)
    ∧ holder.waitersOf 0x10200 = [] ∧ runsB holder .capstep = true ∧ runsB holder .capout = true
    ∧ (({ holder with mem := [] } : State).cellHeader 0x10200).state ≠ cellHeld ∧ runsB { holder with mem := [] } .capstep = true := by
  refine ⟨⟨_, rfl, ?_⟩, ?_, fun i _ => rfl, ?_, ?_, ?_, ?_, ?_, ?_, ?_, ?_⟩ <;> decide

/-! ### The matrix engine and the dune array -/

/-- A reservation record of 4 KiB of E5M2 elements. -/
def reservation : ObRecord := recordFrom 0 4096 3

theorem witness_Reservations : (reservation.fmt ∈ [3, 4, 5, 6] ∧ reservation.blkLen ≤ 2)
    ∧ reservation.base + reservation.bytes ≤ 4096 * worldMe.blk.pk.ob ∧ reservation.blkLen = 0 ∧ reservation.bmpEn = false
    ∧ reservation.base % 64 = 0 ∧ reservation.length % 64 = 0 ∧ reservation.scaleOff % 64 = 0 ∧ reservation.bmpOff % 64 = 0
    ∧ ¬ ((recordFrom 0 4096 0).fmt ∈ [3, 4, 5, 6] ∧ (recordFrom 0 4096 0).blkLen ≤ 2)
    ∧ Tab.get? (world.core 0).mat.records 0 = none
    ∧ Tab.get? ((inCore (fun c => { c with mat := { c.mat with records := [(0, reservation)] } })).core 0).mat.records 0 = some reservation := by
  decide

/-- Four members, one in each quadrant. -/
def quartet : BitVec 64 := 1 + 2 ^ 16 + 2 ^ 32 + 2 ^ 48

/-- That world with that group, a record, an operation word in s5 and, for a pair, a second core. -/
def matrices (pair : Bool) : State :=
  let s := groupOf (fun g => { g with members := quartet, partner := if pair then quartet else 0 })
  let t : State := { s with blocks := Tab.modify s.blocks 0 (fun b =>
    { b with halves := if pair then b.halves ++ b.halves else b.halves }) }
  (t.modCore 0 (fun c => { c with mat := { c.mat with records := [(0, reservation), (1, { reservation with bmpEn := true })] } })).modCaravan 0 (fun c =>
    c.setSreg 5 0x300000000)

theorem witness_MatrixMultiply : (∃ g, (meOf (matrices false)).blk.groups[0]? = some g ∧ g.members = quartet ∧ g.partner = 0)
    ∧ (∃ g, (meOf (matrices true)).blk.groups[0]? = some g ∧ g.members = quartet ∧ g.partner = quartet)
    ∧ (∀ q < 4, ((List.range 16).countP (fun n => quartet.getLsbD (16 * q + n))) = 1) ∧ 1 < (meOf (matrices true)).blk.halves.length
    ∧ ((meOf (matrices false)).reg 5).toNat / 2 ^ 32 % 2 ^ 4 = 3 ∧ aFormatOk reservation.fmt reservation.blkLen = true ∧ bFormatOk 3 0 = true
    ∧ (chunkEnds reservation 0 false).all (· ≤ reservation.bytes) = true ∧ (63 : BitVec 6).toNat < worldMe.blk.pk.acc
    ∧ (chunkEnds { reservation with bmpEn := true } 0 true).all (· ≤ reservation.bytes) = true
    ∧ runsB (matrices false) (.mma 63 5 0 15) = true ∧ runsB (matrices true) (.mmaPairBm 63 5 1 15) = true
    ∧ (meOf (matrices false)).path.fences = [] ∧ ((meOf (matrices false)).blk.barrier 15).pending < 65535
    ∧ ((matrices false).core 0).mat.queue.length < 16 := by
  refine ⟨⟨_, rfl, ?_⟩, ⟨_, rfl, ?_⟩, ?_, ?_, ?_, ?_, ?_, ?_, ?_, ?_, ?_, ?_, ?_, ?_, ?_⟩ <;> decide

/-- A matrix operation of that caravan, and its outcomes. -/
def matrixOp : MatrixOp :=
  { form := .zero, order := 5, issuer := 0, caravan := 0, block := 0, ctx := 0, bar := 0, tile := 0, group := 0, seq := 0, chunk := 0, bfmt := 0, bblk := 0,
    record := reservation, path := 0, bursts := 0, addr := 0, stride := 0, passed := 0, cycles := 0, poison := false, abort := false, fault := none }

theorem witness_MatrixQueue : (63 : BitVec 6).toNat < worldMe.blk.pk.acc ∧ (worldMe.reg 5).toNat % 4 = 0 ∧ ((meOf (data 2)).reg 5).toNat % 4 ≠ 0
    ∧ (meOf (inBlock (fun b => { b with pk := { b.pk with acc := 0 } }))).blk.pk.acc ≤ (0 : BitVec 6).toNat
    ∧ matrixOp ∈ ((inCore (fun c => { c with mat := { c.mat with queue := [matrixOp] } })).core 0).mat.queue ∧ matrixOp.caravan = worldMe.car.uid
    ∧ (world.core 0).mat.queue = [] ∧ (world.core 0).mat.running.isNone = true ∧ worldMe.car.matrixOutcomes = []
    ∧ runsB (inCar (fun c => { c with matrixOutcomes := [⟨5, false, some (codePoison, 1, 0)⟩] })) (.mwait 1) = true := by decide

theorem witness_DuneCommands : worldMe.blk.pk.dune = true ∧ (worldMe.reg 5).toNat % 64 = 0 ∧ ((meOf data).reg 5).toNat % 64 ≠ 0
    ∧ (world.core 0).dune.issueStreamed = false ∧ (1024 + 1023 : Nat) / 2 ^ 10 % 2 ^ 11 = 1 ∧ 1023 + 1 ≤ 1024
    ∧ ((inCore (fun c => { c with dune := { c.dune with issueStreamed := true } })).core 0).dune.issueStreamed = true
    ∧ placeCore 0 (0x100 / 2 ^ 8 % 2 ^ 12) = some 1 ∧ (0x20100 : Nat) / 2 ^ 16 % 2 ^ 2 = 2 ∧ (1 : Nat) % 2 ^ 48 ≠ 0 ∧ world.healthOf 0 ≠ 1
    ∧ (world.core 0).dune.lost = false ∧ (world.core 0).dune.issueReplay = false ∧ worldMe.path.fences = [] ∧ (worldMe.blk.barrier 15).pending < 65535
    ∧ (world.core 0).dune.queue.length < 8 ∧ runsB world (.dsweep 5 15) = true := by decide

theorem witness_DuneConfigure : reachB data (meOf data) 0x10010 32 page = false ∧ reachB (data 0x10020) (meOf (data 0x10020)) 0x10020 32 page = true
    ∧ configOk ((data 0x10020).seen (meOf (data 0x10020)) page 0x10020 32) (4096 * worldMe.blk.pk.scratch) = true
    ∧ configOk ((recordAt [(0x10020, 4)]).seen (meOf (recordAt [(0x10020, 4)])) page 0x10020 32) (4096 * worldMe.blk.pk.scratch) = false
    ∧ runsB (data 0x10020) (.dcfg 5 15) = true ∧ (data 0x10020).healthOf 0 = 0 := by decide

theorem witness_DuneMonitor : worldMe.blk.pk.dune = true
    ∧ (meOf (inBlock (fun b => { b with pk := { b.pk with dune := false } }))).blk.pk.dune = false ∧ (Instr.dmon 1 16).check = none := by decide

/-! ### Records -/

/-- A stage graph of one node of one slot of 16 bytes at 0x20000, of depth 2, a join node or not. -/
def graph (join : Bool) : List Byte :=
  [1, 2] ++ List.replicate 62 0
    ++ [0, 0, 0, 0, 0, 0, if join then 8 else 0, 0, 0, 0, 0, 0, 0, 0, 0, 0, 0, 0, 2, 0, 0, 0, 1, 0, 0, 0, 3, 0, 0, 0, 0, 0] ++ List.replicate 32 0

/-- Its node in a run, with a pool as given. -/
def node (pool : Tab RecordSlot) : Node := { pool := pool, commits := 0, started := 0, reserve := 0, reserveBusy := false, waiters := [], served := [] }

/-- That world's block as one that a graph's launcher started, with the graph's run. -/
def records (join : Bool) (pool : Tab RecordSlot) (depth : Nat := 1) : State :=
  let s := tables (inBlock (fun b => { b with record := some { graph := 0, node := 0, depth := depth, held := [0], listAddr := 0, count := 1, reserved := false, freed := [] } }))
  let run : GraphRun := { begun := true, completions := [], nodes := [(0, node pool)], committed := 0, blocks := 1, partials := 0, fulls := 0,
                          faulted := none, seedFail := none, entries := [], dispatched := 0, home := 0 }
  let slot : GraphSlot := { stage := true, ctx := 0, desc := graph join, signal := 0, due := none, pending := none, run := some run }
  { s with graphs := [(0, slot)] }

/-- A slot of a pool in a state. -/
def slotOf (st : SlotState) : RecordSlot := { state := st, key := 0, depth := 1, count := 2, since := 0 }

theorem witness_inGraph (join : Bool) (pool : Tab RecordSlot) : ∃ r g x, (records join pool).inGraph (meOf (records join pool)) r g x
    ∧ Tab.get? x.nodes 0 = some (node pool) :=
  ⟨_, _, { begun := true, completions := [], nodes := [(0, node pool)], committed := 0, blocks := 1, partials := 0, fulls := 0, faulted := none, seedFail := none, entries := [], dispatched := 0, home := 0 }, ⟨rfl, rfl, rfl⟩, rfl⟩

theorem witness_Emit : worldMe.blk.record = none ∧ graphNodes (graph false) = 1 ∧ (graphNode (graph false) 0).join = false
    ∧ (graphNode (graph false) 0).size = 16 ∧ (graphNode (graph false) 0).slots = 1 ∧ graphDepth (graph false) = 2
    ∧ 59 + 16 / 8 - 1 ≤ 60 ∧ (node []).lowestFree 1 = some 0 ∧ (node [(0, slotOf .pending)]).lowestFree 1 = none
    ∧ graphDepth (graph false) < 2 + 1 ∧ 1 + 1 ≤ graphDepth (graph false) ∧ runsB (records false []) (.remit 1 59 0) = true
    ∧ runsB (records false []) (.remitW 59 0) = true ∧ (meOf (records false [])).path.drained = true ∧ (meOf (records false [])).path.fences = [] := by
  decide

theorem witness_EmitWrites : ∃ z, ((records false []).emitted (meOf (records false []))).writeSlot (meOf (records false [])).blk.ctx (graphNode (graph false) 0) 0 0 = .ok () z
    ∧ z.graphs = (records false []).graphs ∧ z.caravans = ((records false []).emitted (meOf (records false []))).caravans
    ∧ z.focus = (records false []).focus ∧ z.blocks = ((records false []).emitted (meOf (records false []))).blocks :=
  ⟨_, rfl, rfl, rfl, rfl, rfl⟩

theorem witness_EmitJoin : (graphNode (graph true) 0).join = true ∧ (node []).entry 0 = none ∧ (node []).lowestFree 1 = some 0
    ∧ (node [(0, slotOf .counting)]).entry 0 = some 0 ∧ ((node [(0, slotOf .counting)]).slot 0).state = .counting
    ∧ (let s := (records true []).modCaravan 0 (fun c => c.setSreg 6 0x100)
      ((meOf s).reg 6).toNat / 2 ^ 8 % 2 ^ 8 ≠ 0 ∧ runsB s (.remitj 1 2 6) = true) := by decide

theorem witness_EmitJoinWrites : ∃ z, ((records true []).emitted (meOf (records true []))).writeSlot (meOf (records true [])).blk.ctx (graphNode (graph true) 0) 0 0 = .ok () z
    ∧ z.graphs = (records true []).graphs ∧ z.caravans = ((records true []).emitted (meOf (records true []))).caravans
    ∧ z.focus = (records true []).focus ∧ z.blocks = ((records true []).emitted (meOf (records true []))).blocks :=
  ⟨_, rfl, rfl, rfl, rfl, rfl⟩

theorem witness_RecordQueries : (0 : BitVec 6).toNat < graphNodes (graph false) ∧ graphNodes (graph false) ≤ (1 : BitVec 6).toNat
    ∧ (meOf (records false [(0, slotOf .held)])).path.drained = true ∧ (node [(0, slotOf .held)]).waiters = []
    ∧ ((meOf (records false [(0, slotOf .held)])).blk.record.map (fun r => r.held)) = some [0]
    ∧ runsB (records false [(0, slotOf .held)]) .rdone = true ∧ (Instr.gcount 1 5).check = none := by decide

end Sys2Proof.Tests
end

