-- ==== Sys2Proof/Tests/Witness3.lean ====
section
/-!
SUPPORT. Witnesses for the statements about lane words, bursts and the events of the machine: for each, a concrete state and operands
that meet its hypotheses together.
-/

namespace Sys2Proof.Tests

open Sys2Proof Sys2Proof.Machine

/-! ### Lane words -/

/-- The fields of a lane word with destination 4 and three sources. -/
def lw (mod : BitVec 8) (imm : BitVec 32) (a : BitVec 9) (b : BitVec 9 := 0) (c : BitVec 9 := 0) : LaneFields :=
  { mod := mod, d := 4, nw := 0, a := a, b := b, c := c, pred := 0, neg := 0, ctl := 0, imm := imm }

theorem witness_LaneEffects : lanes.Issues (meOf lanes) burst ∧ burst.pos = 0 ∧ burst.entry.len = 0 ∧ burst.entry.rep = 0
    ∧ (lanes { burst with entry := { burst.entry with len := 255, rep := 255 } }).Issues
        (meOf (lanes { burst with entry := { burst.entry with len := 255, rep := 255 } })) { burst with entry := { burst.entry with len := 255, rep := 255 } } :=
  ⟨⟨rfl, rfl, rfl⟩, rfl, rfl, rfl, ⟨rfl, rfl, rfl⟩⟩

/-- That burst's world with a budget of 248 lane registers. -/
def small : State := lanes.modCaravan 0 (fun c => { c with lbud := 248 })

theorem witness_LaneStops : lanes.Issues (meOf lanes) burst ∧ (Instr.vadd (lw 0x30 0 6 7)).check.isSome = true
    ∧ (let f : LaneFields := { lw 0x90 0 6 7 with d := 248 }
      (Instr.vadd f).check = none ∧ ¬ (∀ r ∈ highestRegs (.vadd f) f, r < (meOf small).car.lbud))
    ∧ (let f := lw 0x49 0 6 7
      atCommit (.vatom f) = true ∧ (Instr.vatom f).check = none ∧ ¬ ((1 : Nat) ≤ 0))
    ∧ (let f := lw 0x90 0 0x107 7
      (Instr.vadd f).check = none ∧ latchesOf (.vadd f) f = [7] ∧ (Tab.get? burst.latches 7).isNone = true)
    ∧ (let f := lw 0x90 0 0x108 7
      (Instr.vadd f).check = none ∧ queuesOf (.vadd f) f = [0] ∧ (queueHead (meOf lanes).car burst 0).isNone = true)
    ∧ small.Issues (meOf small) burst := by
  refine ⟨⟨rfl, rfl, rfl⟩, ?_, ?_, ?_, ?_, ?_, ⟨rfl, rfl, rfl⟩⟩ <;> decide

/-- Words of each statement that run in that world, with their fields. -/
def laneWords : List (Instr × LaneFields) :=
  [(.vadd (lw 0x91 1 6 7), lw 0x91 1 6 7), (.vmad (lw 0xa0 0 6 8 10), lw 0xa0 0 6 8 10), (.vbfx (lw 0x90 0x3ff 6), lw 0x90 0x3ff 6), (.vcmp { lw 0xa0 9 6 8 with d := 7 }, { lw 0xa0 9 6 8 with d := 7 }),
   (.vfma (lw 0x2f 0 6 7 8), lw 0x2f 0 6 7 8), (.vfcmp { lw 0 7 6 7 with d := 1 }, { lw 0 7 6 7 with d := 1 }), (.vtanh (lw 1 0 6), lw 1 0 6), (.vfclass (lw 0x20 0 6), lw 0x20 0 6),
   (.vcvt (lw 0xa0 0 6), lw 0xa0 0 6), (.vpack (lw 0x11 8 6 7 8), lw 0x11 8 6 7 8), (.vmxq (lw 0x59 0 6), lw 0x59 0 6), (.vspq (lw 0x60 0 6 7), lw 0x60 0 6 7),
   (.vperm (lw 0 7 6 7), lw 0 7 6 7), (.vshfl (lw 0 0x3ff 6), lw 0 0x3ff 6), (.vred (lw 0xae 0xffffffff 6), lw 0xae 0xffffffff 6), (.vscan (lw 0x25 1 6), lw 0x25 1 6),
   (.vballot (lw 1 1 7), lw 1 1 7), (.vcompact (lw 1 1 6 7), lw 1 1 6 7), (.pmovI { lw 2 0xffffffff 0 with d := 7 }, { lw 2 0xffffffff 0 with d := 7 }),
   (.pand { lw 0 0 1 7 with d := 7 }, { lw 0 0 1 7 with d := 7 }), (.vrandf (lw 0 0 0), lw 0 0 0)]

theorem witness_LaneWords : laneWords.all (fun x => laneRunsB lanes burst x.1 x.2) = true := by decide

/-- A burst with registers 6 and 7, of which the first is minus one and the second zero, and latch 0 zero in every lane. -/
def signs : Burst :=
  { burst with regs := (List.range 64).map (fun k => (6 * 32 + k, if k < 32 then (0xffffffff : LaneWord) else 0)), latches := [(0, List.replicate 32 0)] }

theorem witness_LaneIntegers : (let f : LaneFields := { lw 0x90 9 6 7 with d := 7 }
      let x := (meOf (lanes signs)).laneOf signs (.vcmp f) f
      laneRunsB (lanes signs) signs (.vcmp f) f = true
      ∧ ∀ l < 32, holdsCode 9 ((x.ints 32 l).a.signExtend 64) ((x.ints 32 l).b.signExtend 64) = some (hasLane 0xffffffff l))
    ∧ (let f : LaneFields := { lw 0xa0 0 6 6 with d := 7 }
      let x := (meOf (lanes signs)).laneOf signs (.vcmp f) f
      laneRunsB (lanes signs) signs (.vcmp f) f = true
      ∧ ∀ l < 32, holdsCode 0 ((x.ints 64 l).a.signExtend 64) ((x.ints 64 l).b.signExtend 64) = some (hasLane 0xffffffff l)) := by
  dsimp only
  refine ⟨⟨?_, ?_⟩, ⟨?_, ?_⟩⟩ <;> decide +kernel

/-- A burst whose register 6 holds one code of each class of R131 in its first lanes. -/
def classes : Burst :=
  let codes : List LaneWord := [0xff800000, 0xbf800000, 0x80000001, 0x80000000, 0, 1, 0x3f800000, 0x7f800000, 0x7f800001, 0x7fc00000]
  { burst with regs := (List.range 32).map (fun l => (6 * 32 + l, codes.getD l 0)) }

theorem witness_LaneClass : (let f := lw 0 0 6
    let x := (meOf (lanes classes)).laneOf classes (.vfclass f) f
    let k (l : Nat) : Nat := if l < 10 then l else 4
    let fraction (l : Nat) := x.a l % 2 ^ 23
    let exponent (l : Nat) := x.a l / 2 ^ 23 % 2 ^ 8
    let negative (l : Nat) : Bool := x.a l / 2 ^ 31 % 2 == 1
    laneRunsB (lanes classes) classes (.vfclass f) f = true ∧ f.fmt = 0
    ∧ (∀ l < 32, exponent l = 255 → fraction l = 0 → (negative l = true → k l = 0) ∧ (¬ negative l = true → k l = 7))
    ∧ (∀ l < 32, exponent l = 255 → fraction l ≠ 0 → k l = if fraction l / 2 ^ 22 = 1 then 9 else 8)
    ∧ (∀ l < 32, exponent l = 0 → fraction l = 0 → (negative l = true → k l = 3) ∧ (¬ negative l = true → k l = 4))
    ∧ (∀ l < 32, exponent l = 0 → fraction l ≠ 0 → (negative l = true → k l = 2) ∧ (¬ negative l = true → k l = 5))
    ∧ (∀ l < 32, exponent l ≠ 0 → exponent l ≠ 255 → (negative l = true → k l = 1) ∧ (¬ negative l = true → k l = 6))) := by
  dsimp only
  refine ⟨?_, ?_, ?_, ?_, ?_, ?_, ?_⟩ <;> decide +kernel

theorem witness_Codes : decode (formatOf 5) 0 = .zero false ∧ decode (formatOf 0) 0x7f800001 = .nan ∧ decode (formatOf 0) 0x7f800000 = .inf false
    ∧ decode (formatOf 0) 0xff800000 = .inf true ∧ decode (formatOf 1) 0x7e00 = .nan ∧ formatBits 5 = 4 ∧ decode (formatOf 5) 15 ≠ .nan
    ∧ Machine.Dyadic.lt ⟨2, 0⟩ ⟨(1 : Nat), 1⟩ = false := by decide

/-- That burst's world with one lane active, registers of its burst as given. -/
def oneLane (regs : Tab LaneWord) : State × Burst :=
  let b : Burst := { burst with regs := regs }
  ((lanes b).modPath 0 0 (fun x => { x with em := 1 }), b)

/-- An address, or an offset, in register 6 and a value in 8. -/
def near (a v : LaneWord) : State × Burst := oneLane [(6 * 32, a), (8 * 32, v)]

theorem witness_LaneMemory : (let (s, b) := near 0x10010 5
      lanesOf ((meOf s).laneOf b (.vld (lw 3 0 6)) (lw 3 0 6)).active = [0] ∧ reachB s (meOf s) 0x10010 8 page = true
      ∧ laneRunsB s b (.vld (lw 3 0 6)) (lw 3 0 6) = true ∧ mapsB s (meOf s) 0x10010 8 .write page = true
      ∧ (let f : LaneFields := { lw 3 0 6 8 with d := 0 }
        laneRunsB s b (.vst f) f = true ∧ f.bound = none)
      ∧ (lw 2 2 6).mod.toNat % 32 = 2 ∧ laneRunsB s b (.vld (lw 2 2 6)) (lw 2 2 6) = true ∧ (0x10012 : Nat) % 4 ≠ 0)
    ∧ (let (s, b) := near 0xff8 5
      let f : LaneFields := { lw 3 0 6 8 with d := 0 }
      let g : LaneFields := { lw 3 0x80001 6 8 with d := 0 }
      laneRunsB s b (.vlds (lw 3 0 6)) (lw 3 0 6) = true ∧ laneRunsB s b (.vsts f) f = true ∧ laneRunsB s b (.vsts g) g = true
      ∧ 0xff8 + 8 ≤ (meOf s).blk.scratchBytes ∧ (0xff8 : Nat) % 8 = 0 ∧ g.imm.getLsbD 19 = true ∧ ¬ (1 < (meOf s).blk.halves.length)
      ∧ ((meOf s).blk.half? 0).isSome = true ∧ ((meOf s).blk.half? 0).map (fun h => chunkPoisoned h.scratchPoison 0xff8 8) = some false
      ∧ (0xff9 : Nat) % 8 ≠ 0 ∧ (meOf s).blk.scratchBytes < 2 ^ 32 - 8) := by decide

/-- That world with tile 63 in a state, one active lane at offset 56 of it. -/
def laneTile (state block : Nat) (buffer : Bool) : State × Burst :=
  let (s, b) := near 56 0
  (s.modCore 0 (fun c => { c with tiles := [(63, { c.tile 63 with state := state, block := block, length := 1, offset := 0, buffer := buffer })] }), b)

theorem witness_LaneTiles : (let f : LaneFields := { lw 3 0 6 with ctl := 0x7f }
    f.tile = some 63 ∧ (let (s, b) := laneTile 2 0 false
      laneRunsB s b (.vldt f) f = true ∧ ((s.core 0).tile 63).state = 2 ∧ ((s.core 0).tile 63).block = (meOf s).car.block
      ∧ 56 + 8 ≤ tileBytes ((s.core 0).tile 63).length ∧ tileBytes ((s.core 0).tile 63).length < 57 + 8)
    ∧ (let (s, b) := laneTile 1 0 false
      laneRunsB s b (.vldt f) f = true ∧ ((s.core 0).tile 63).state ≠ 2)
    ∧ (let (s, b) := laneTile 2 1 false
      laneRunsB s b (.vldt f) f = true ∧ ((s.core 0).tile 63).block ≠ (meOf s).car.block)
    ∧ (let (s, b) := laneTile 2 0 true
      laneRunsB s b (.vldt f) f = true ∧ ((s.core 0).tile 63).buffer = true ∧ (s.core 0).mat.obPoison = 0)) := by decide +kernel

/-- That world's lane store through bound register 15, of bounds −1 and 1, with an action. -/
def bounded (action : Word) (v : LaneWord) : State × Burst :=
  let (s, b) := near 0x10010 v
  (s.modCore 0 (fun c => { c with bndv := [(15, 0x1ffffffff)], bndc := [(15, 4 + action)] }), b)

/-- Whether a store with an action and a value meets the hypotheses. -/
def boundedOk (action : Word) (v : LaneWord) : Bool :=
  let f : LaneFields := { lw 2 0 6 8 with d := 0, ctl := 0x1f }
  let s := (bounded action v).1
  let b := (bounded action v).2
  laneRunsB s b (.vst f) f && mapsB s (meOf s) 0x10010 4 .write page && decide (f.bound = some 15) && decide (f.mod.toNat % 32 = 2)
    && (Tab.getD (s.core 0).bndc 15 0).getLsbD 2

theorem witness_LaneBounds : boundedOk 0 2 = true ∧ boundedOk 1 2 = true ∧ boundedOk 2 (-2) = true ∧ boundedOk 3 2 = true ∧ boundedOk 3 1 = true
    ∧ (1 : LaneWord).slt 2 = true ∧ (1 : LaneWord).slt 1 = false ∧ (-2 : LaneWord).slt (-1) = true := by decide

/-- That world's group with four members, one in each quadrant, and a burst. -/
def posting (posts : List Post) : State :=
  (((groupOf (fun g => { g with members := quartet })).modPath 0 0 (fun x => { x with burst := some burst, laneq := [burst.entry] })).modCore 0
    (fun c => { c with mat := { c.mat with posts := posts } }))

/-- A post of another sequence number. -/
def post (seq : Nat) : Post := { quad := 0, block := 0, caravan := 0, group := 0, seq := seq, data := 0 }

theorem witness_LaneDeferred : laneRunsB lanes burst (.vatom { lw 0x49 0 6 8 with mod := 0x60 }) { lw 0x49 0 6 8 with mod := 0x60 } = true
    ∧ (let f : LaneFields := { lw 0x62 0 6 with d := 4 }
      laneRunsB lanes burst (.vldacq f) f = true)
    ∧ (let f : LaneFields := { lw 0x63 0 6 8 with d := 0 }
      laneRunsB lanes burst (.vstrel f) f = true)
    ∧ (let f : LaneFields := { lw 0x60 0x10000000 6 8 with d := 0 }
      laneRunsB lanes burst (.vredM f) f = true ∧ f.imm.getLsbD 28 = true ∧ f.imm.getLsbD 21 = false ∧ (meOf lanes).blk.record.isNone = true)
    ∧ (let f : LaneFields := { lw 0x20 0x09000000 6 8 with d := 0 }
      laneRunsB lanes burst (.vredM f) f = true ∧ f.imm.getLsbD 28 = false ∧ ¬ f.imm.toNat / 2 ^ 24 % 2 ^ 4 < 9)
    ∧ (let s := ({ inBlock (fun b => { b with pk := { b.pk with det := true } }) with } : State).modPath 0 0 (fun x => { x with burst := some burst })
      let f : LaneFields := { lw 0x60 0 6 8 with d := 0 }
      laneRunsB s burst (.vredM f) f = true ∧ (meOf s).blk.pk.det = true)
    ∧ (let f : LaneFields := { lw 0 0 6 10 with d := 0 }
      laneRunsB (posting []) burst (.mpost f) f = true
      ∧ ((meOf (posting [])).blk.groups[0]?).map (fun g => g.has 0 0 && decide (g.members = quartet)) = some true
      ∧ (∀ k < 4, (List.range 16).countP (fun n => quartet.getLsbD (16 * k + n)) = 1)
      ∧ ((posting [post 0]).core 0).mat.posts = [post 0]
      ∧ (((posting ((List.range 8).map (fun n => post (n + 1)))).core 0).mat.posts.filter (fun p => p.quad = 0)).length = 8
      ∧ (let g : LaneFields := { lw 0 0xff 6 10 with d := 0 }
        laneRunsB (posting []) burst (.mpost g) g = true ∧ (meOf (posting [])).blk.groups[255]?.isNone = true)) := by decide +kernel

/-! ### Bursts and the events of a caravan -/

/-- A burst all of whose words have issued, and a world where it may commit. -/
def done : Burst := { burst with issued := true }

/-- That world with an entry queued. -/
def entry (e : LaneEntry) (mem : List Host.Cell) : State :=
  { tables (inPath (fun x => { x with laneq := [e] })) with mem := [(0x3000, 1), (0x3001, 0x40), (0x4000, 0x1f)] ++ mem }

theorem witness_BurstEvents : (let s := entry burst.entry []
      (s.at 0 0 0).me?.isSome = true ∧ (meOf s).path.laneq = [burst.entry] ∧ (meOf s).path.burst.isNone = true
      ∧ (s.at 0 0 0).laneSlotFree 0 0 = true ∧ (s.at 0 0 0).misplaced (meOf s) burst.entry = none
      ∧ (s.at 0 0 0).laneCandidates 0 0 = [(0, 0)] ∧ (meOf s).path.lanePasses = 0
      ∧ (let t := s.modPath 0 0 (fun x => { x with lanePasses := 64 })
        (t.at 0 0 0).laneCandidates 0 0 = [(0, 0)] ∧ (meOf t).path.lanePasses = 64 ∧ (t.at 0 0 0).misplaced (meOf t) burst.entry = none))
    ∧ (let e : LaneEntry := { burst.entry with rep := 1 }
      let s := entry e [(0x10006, 0x80), (0x10007, 0xc0), (0x10009, 2), (0x1000a, 0x60), (0x1000b, 0x80)]
      (s.at 0 0 0).misplaced (meOf s) e = some 0)
    ∧ (let s := lanes done
      (meOf s).path.burst.map (fun b => b.issued) = some true ∧ s.goalReached (meOf s).key 1 = false ∧ (meOf s).path.fences = []
      ∧ (meOf s).path.arrivals = [] ∧ done.deferred.isNone = true ∧ (meOf s).path.relScope = 0 ∧ (meOf s).car.halted = false
      ∧ (meOf s).car.savePoint = none)
    ∧ (let s := inPath (fun x => { x with pending := some { code := 1, cause := 0, addr := 0, pc := 0x10000, resume := 0x10000, removed := [] } })
      (meOf s).path.pending.isSome = true ∧ (meOf s).path.drained = true) := by decide

/-- A burst that ends in a `vatom` or a `vred.m` of one lane at 0x10010, in that world. -/
def deferred (atom : Bool) (va : Nat) : State × Burst :=
  let f : LaneFields := if atom then lw 0x60 0 6 8 else lw 0x20 0x09000000 6 8
  let b : Burst := { done with deferred := some (if atom then .vatom f else .vredM f), deferOps := [(31, va, 5, 7)] }
  (lanes b, b)

theorem witness_Atomics : (let (s, b) := deferred true 0x10010
      s.goalReached (meOf s).key 1 = false ∧ (meOf s).path.storeq = [] ∧ b.stores = [] ∧ (lw 0x60 0 6 8).imm.getLsbD 20 = false
      ∧ mapsB s (meOf s) 0x10010 4 .atomic page = true ∧ inStack (meOf s).car (meOf s).blk.stackBytes 0x10010 4 = false
      ∧ (∀ i < 4, s.unsettled (0x10010 + i) = false) ∧ s.poisoned 0x10010 4 = false ∧ s.monitor.replay.isNone = true
      ∧ (meOf s).blk.hasFreed 0x10010 4 = false ∧ s.cellsIn 0x10000 512 = [] ∧ s.graphs.isEmpty = true ∧ (0x10010 : Nat) + 4 ≤ 2 ^ 39)
    ∧ (let (s, _) := deferred false 0x10010
      isOrdered (lw 0x20 0x09000000 6 8) (meOf s).blk.pk.det = false ∧ formatBits 9 / 8 = 4 ∧ (meOf s).path.burst.isSome = true) := by decide

/-- A burst that ends in a word of one lane at 0x10010, in that world with an ordered port of so many updates. -/
def committing (i : Instr) (n : Nat) : State × Burst :=
  let b : Burst := { done with deferred := some i, deferOps := [(31, 0x10010, 5, 7)] }
  ((lanes b).modCore 0 (fun c => { c with ports := [(0, List.replicate n default)] }), b)

theorem witness_LaneOrdering : (∀ k ∈ [(0x02 : BitVec 8), 0x43], (let f := lw k 0 6
      let (s, _) := committing (.vldacq f) 0
      let n := if f.mod.toNat % 32 = 3 then 8 else 4
      s.goalReached (meOf s).key 1 = false ∧ (meOf s).path.storeq = [] ∧ reachB s (meOf s) 0x10010 n page = true
      ∧ inStack (meOf s).car (meOf s).blk.stackBytes 0x10010 n = false ∧ s.owes 0x10010 n = false ∧ s.cellsIn 0x10000 64 = []
      ∧ s.releases.isEmpty = true))
    ∧ (let (s, _) := committing (.vstrel (lw 0x63 0 6 8)) 0
      mapsB s (meOf s) 0x10010 8 .write page = true ∧ s.monitor.replay.isNone = true ∧ s.cellsIn 0x10000 64 = []
      ∧ inStack (meOf s).car (meOf s).blk.stackBytes 0x10010 8 = false) := by decide +kernel

theorem witness_OrderedEntry : (∀ n ∈ [255, 256], (let f : LaneFields := { lw 0x60 0x10000000 6 8 with d := 0 }
      let (s, _) := committing (.vredM f) n
      isOrdered f (meOf s).blk.pk.det = true ∧ f.imm.toNat / 2 ^ 24 % 2 ^ 4 = 0 ∧ f.imm.getLsbD 20 = false
      ∧ mapsB s (meOf s) 0x10010 4 .atomic page = true ∧ (Tab.getD (s.core 0).ports 0 []).length = n
      ∧ s.goalReached (meOf s).key 1 = false)) := by decide +kernel

/-- A dirty sector of the L1, and a byte of the caravan's own stack that its stack cache holds. -/
def dirty : State := world.modCore 0 (fun c => { c with l1 := [(0x400, { (default : L1Sector) with valid := 1, dirty := 1 })] })
def cached (a : Nat) : State := (tables world).modCaravan 0 (fun c => { c with stack := [(a, 7)] })

/-- That world's caravan waiting for registers that the pool does not hold. -/
def claiming : State := tables (inBlock (fun b => { b with halves := b.halves.map (fun h => { h with claims := [(0, 0, 8)] }) }))

theorem witness_CacheEvents : (Tab.get? (dirty.core 0).l1 0x400).isSome = true
    ∧ (∀ a ∈ [0x40ff8, 0x3fff8], (let s := cached a
      (s.caravan? 0).map (fun c => decide (c.stack = [(a, 7)]) && decide (c.paths.length = 1)) = some true
      ∧ (Tab.get? s.blocks 0).isSome = true))
    ∧ 0x3fff8 / 512 * 512 < worldMe.car.stklim.toNat ∧ worldMe.car.stklim.toNat ≤ 0x40ff8 / 512 * 512
    ∧ (let s := cached 0x40ff8
      (match s.choose.2.walkServe 0 0x40e00 .write with
        | .leaf t v => decide (t = gib 0x40e00) && decide (v.caravans = s.caravans) && decide ((v.core 0).l1Lines.length < 256)
          && !v.unsettled (physical t 0x40ff8)
        | _ => false) = true)
    ∧ (let s := claiming
      (Tab.get? s.blocks 0).map (fun b => s.claimDeadlock 0 b && decide (b.halves.flatMap (fun h => h.claims) = [(0, 0, 8)])) = some true) := by decide

/-- An ordered update of that world's caravan, in its core's port. -/
def update (n : Nat) (refused : Bool) : OrderedUpdate :=
  { launch := 7, bid := 0, car := 0, lane := n, seq := 0, addr := 0x10010, value := 0x3f800000, fsat := false, slice := 0, held := false, refused := refused }

/-- That update in its port, with the updates that its unit holds at its location. -/
def port (refused : Bool) (us : List OrderedUpdate) : State :=
  { world.modCore 0 (fun c => { c with ports := [(0, [update 16 refused])] }) with tracked := if us = [] then [] else [(0x10010, us)] }

/-- Updates of the lanes below. -/
def helds (n : Nat) : List OrderedUpdate := (List.range n).map (fun k => { update k false with held := true })

theorem witness_OrderedUpdates : (∀ r ∈ [false, true], ∀ n ∈ [1, 15, 16],
      (let s := port r (helds n)
      Tab.getD (s.core 0).ports 0 [] = [update 16 r] ∧ s.mayOffer [update 16 r] (update 16 r) = true
      ∧ Tab.get? s.tracked 0x10010 = some (helds n) ∧ (helds n).length = n
      ∧ (∀ v ∈ helds n, v.before (update 16 r) = true ∧ (update 16 r).before v = false)))
    ∧ Tab.get? (port false []).tracked 0x10010 = none
    ∧ ((port true []).tracked.filter (fun a => a.2.any (fun v => v.slice = 0))).length < 256
    ∧ (let s := { port false (helds 2) with cores := world.cores }
      update 0 false ∉ helds 2 ∧ s.foldable { update 0 false with held := true } = true
      ∧ (update 0 false).before (update 1 false) = true ∧ (update 0 false).before (update 0 false) = false) := by decide

theorem witness_CapsuleEvents : (let s := holder.modPath 0 0 (fun x => { x with pending := some { code := 1, cause := 0, addr := 0, pc := 0x10000, resume := 0x10000, removed := [] } })
      (s.caravan? 0).map (fun c => (c.capsule.map (fun r => !r.descheduled && decide (r.cell = 0x10200))).getD false
        && c.paths.any (fun x => x.2.pending.isSome)) = some true
      ∧ (∀ i < 512, s.unsettled (0x10200 + i) = false) ∧ s.poisoned 0x10200 512 = false ∧ s.waitersOf 0x10200 = [])
    ∧ (let s (n : Nat × Nat × Nat) : State := { world.modCore 0 (fun c => { c with notices := [(63, n)] }) with
        cells := [0x10200], mem := [(0x10200, 3), (0x10204, 1), (0x1020c, 5)] }
      (let h := (s (5, 1, 0x10200)).cellHeader 0x10200; h.state = cellDone ∧ h.generation = 1 ∧ h.behalf = 5)
      ∧ Tab.get? ((s (5, 1, 0x10200)).core 0).notices 63 = some (5, 1, 0x10200) ∧ (s (5, 1, 0x10200)).waitersOf 0x10200 = []) := by
  refine ⟨⟨?_, fun i _ => rfl, ?_, ?_⟩, ?_, ?_, ?_⟩ <;> decide

/-! ### The front end -/

/-- Whether an operand was found, and in which way a dispatch operation goes on. -/
def found {α : Type} (x : Found α) : Bool :=
  match x with
  | .ok _ _ => true
  | _ => false
def failed {α : Type} (x : Found α) : Bool :=
  match x with
  | .fail _ _ _ _ => true
  | _ => false
def begun (x : Begun) : Nat :=
  match x with
  | .going _ => 1
  | .ended _ _ => 2
  | .wait _ => 3

/-- A front-end core in focus, in a mode, with its registers, beside a mapped queue of one command and a packet at 0x20000 whose
register class is given. -/
def front (machine : Bool) (regs : Tab Word) (c : Command := nopCommand) : State :=
  let s := (queues c).modHart 0 0 (fun x => { x with machineMode := machine, xregs := regs })
  { s.modDie 0 (fun d => { d with queueSlots := [(0, 0)] }) with
    focus := .hart 0 0, queues := [(0, { head := 0, tail := 1, mapped := some 0, held := none, open_ := [] })],
    mem := s.mem ++ [] }

/-- That state with a packet at 0x20000: an entry address, and sixteen registers or none. -/
def packed (s : State) (regs : Byte) : State :=
  { s with mem := [(0x3000, 1), (0x3001, 0x40), (0x4000, 0x1f), (0x20002, 1), (0x20036, regs), (0x200000, 1), (0x200001, 0x40), (0x200010, 0x10)] }

theorem witness_FrontEnd : (let s := front true [(10, 63), (11, 64), (12, 0), (13, 32), (14, 2 ^ 47)]
      s.focus = .hart 0 0 ∧ ((s.die 0).hart 0).machineMode = true ∧ Tab.get? (s.die 0).queueSlots 63 = none
      ∧ Tab.get? (s.die 0).queueSlots 0 = some 0 ∧ (s.queue 0).held.isNone = true ∧ (s.queue 0).head ≠ (s.queue 0).tail
      ∧ found (s.ringCommand 0) = true ∧ (s.queue 0).open_ = []
      ∧ (match s.ringCommand 0 with
        | .ok w t => !(w.testBit 8) && found (t.advanceHead 0)
        | _ => false) = true
      ∧ (64 : Word).toNat % 64 = 0 ∧ (32 : Word).toNat % 64 ≠ 0 ∧ (64 : Word).toNat > 63 ∧ found (s.frontNat 0 0 8) = true
      ∧ failed (s.frontNat 0 (2 ^ 47) 8) = true ∧ (2 ^ 47 : Word).toNat % 16 = 0)
    ∧ (let s := front false [(10, 1)]
      ((s.die 0).hart 0).machineMode = false ∧ (s.prologueOf 0 0).isNone = true) := by decide +kernel

/-- Dispatch operations: of a packet that passes its checks, and of one that does not. -/
theorem witness_Dispatch : (let s := packed (front true []) 0x40
      (s.die 0).dispatches.length < 32 ∧ found (s.frontNat 0 0x20000 64) = true
      ∧ begun (s.startDispatch 0 0 0x20000 1 .nothing).2 = 1 ∧ (s.tellWait .nothing).isNone = true)
    ∧ begun ((packed (front true []) 0).startDispatch 0 0 0x20000 1 .nothing).2 = 2 := by decide +kernel

/-- A prologue in user mode, in an iteration. -/
def running (iteration : Nat) : State :=
  let d : Dispatch := { (default : Dispatch) with returnTo := 0x5000, hart := some 0, iteration := iteration }
  ((front false []).modDie 0 (fun x => { x with dispatches := [(1, d)] })).modHart 0 0 (fun x => { x with dispatch := some 1, pc := 0x5000 })

theorem witness_Prepeat : (((running 62).prologueOf 0 0).map (fun k => decide (k.2.iteration < 63))) = some true := by decide

/-- A command of that queue with an opcode, and a state that may issue it. -/
def command (op : Word) (w1 w2 : Word := 0) (w3 : Word := 0) : Command := { nopCommand with w0 := op, w1 := w1, w2 := w2, w3 := w3 }
def issuing (c : Command) : State :=
  let s := packed (queues c) 0x40
  { s with bar := { s.bar with featEn := 0xffff } }

theorem witness_QueueCommands : (let s := issuing nopCommand
      s.queueLive 0 = true ∧ (s.queue 0).held = some nopCommand ∧ (s.signalWait 0 0).isNone = true ∧ nopCommand.w0.getLsbD 8 = false
      ∧ (s.opened 0 nopCommand).commandCheck (some 0) nopCommand = none)
    ∧ (let c : Command := { nopCommand with w1 := 1 }
      ((issuing c).opened 0 c).commandCheck (some 0) c = some 1)
    ∧ (let c := command 0xff
      c.w0.toNat / 2 ^ 24 = 0 ∧ c.w0.toNat / 2 ^ 10 % 2 ^ 6 = 0 ∧ c.w7.toNat % 16 = 0)
    ∧ (let c := command 1 0x20000 1
      let t := (issuing c).opened 0 c
      t.commandCheck (some 1) c = none ∧ (t.die 0).dispatches.length < 32 ∧ begun (t.startDispatch 0 0 c.w1 1 (.command 1)).2 = 1
      ∧ begun ((packed t 0).startDispatch 0 0 c.w1 1 (.command 1)).2 = 2
      ∧ 32 ≤ ((t.modDie 0 (fun d => { d with dispatches := (List.range 32).map (fun k => (k, default)) })).die 0).dispatches.length)
    ∧ (let c := command 4 0x20100 1
      let t := (issuing c).opened 0 c
      t.commandCheck (some 4) c = none ∧ found (t.addSignal 0 c.w1 c.w2.toNat) = true)
    ∧ (let c := command 5 0x20100 1
      let t := (issuing c).opened 0 c
      t.commandCheck (some 5) c = none ∧ found (t.frontNat 0 c.w1 8) = true ∧ c.w2.toNat = 1)
    ∧ (let c : Command := { command 6 0x20000 1 0x103ff with w5 := 4095 }
      ((issuing c).opened 0 c).commandCheck (some 6) c = none ∧ c.w3.getLsbD 16 = true ∧ c.w5.toNat < 4096)
    ∧ (let c : Command := { command 6 0x20000 1 0x103ff with w5 := 4096 }
      ((issuing c).opened 0 c).commandCheck (some 6) c = none ∧ 4096 ≤ c.w5.toNat)
    ∧ (let c := command 7 0 0 0x3ff
      ((issuing c).opened 0 c).commandCheck (some 7) c = none) := by decide +kernel

/-- Graph commands: a slot empty, busy and stored; a trigger of a slot of this context and of none. -/
theorem witness_GraphCommands : (let c := command 2 0x30000 0xf
      let t := (issuing c).opened 0 c
      t.commandCheck (some 2) c = none ∧ Tab.get? t.graphs 15 = none ∧ found (t.readDesc 0 c.w1 true) = true
      ∧ (match t.readDesc 0 c.w1 true with
        | .ok bs u => found (u.checkGraphDesc 0 true bs)
        | _ => false) = true)
    ∧ (let c := command 3 0 0
      let t := (issuing c).opened 0 c
      let g : GraphSlot := { (default : GraphSlot) with ctx := 0 }
      t.commandCheck (some 3) c = none ∧ (t.triggerSlot 0 g { value := 0, completions := [], home := 0 }).2 = true
      ∧ (let h : GraphSlot := { g with due := some default, pending := some default }
        (t.triggerSlot 0 h { value := 0, completions := [], home := 0 }).2 = false)) := by decide +kernel

/-- A due timer of that world's die, and a waiting queue. -/
def timers (period : Option Nat) : State :=
  (packed (queues nopCommand) 0x40).modDie 0 (fun d =>
    { d with cyc := 100, timers := [(255, { (default : Timer) with armed := true, packet := 0x20000, dies := 1, deadline := 7, period := period, status := 0x20100, signal := 0 })] })
def waiting (slots : Tab Nat) (interval : Nat) : State :=
  (queues nopCommand).modDie 0 (fun d => { d with queueSlots := slots, slotSince := slots, waitingQueues := [5], interval := interval })

theorem witness_TimersAndSlots : (∀ k ∈ [none, some 4096], (let s := timers k
      (s.die 0).firstDue.map (fun x => x.1) = some 255 ∧ (s.signalWait 0 0).isNone = true ∧ (s.signalWait 0 0x20100).isNone = true
      ∧ begun (s.startDispatch 0 0 0x20000 1 (.timer 0 255 0 0)).2 = 1 ∧ (s.die 0).acted 1 = false ∧ (s.die 0).dispatches.length < 32))
    ∧ (((timers none).modDie 0 (fun d => d.act 1)).die 0).acted 1 = true
    ∧ ((queues nopCommand).die 0).firstDue.isNone = true
    ∧ (let s := waiting [(0, 1)] 0
      (s.die 0).queueSlots.all (fun x => x.1 < 1) = true ∧ (s.die 0).waitingQueues = [5] ∧ (s.die 0).mapChange = none ∧ s.hostMode 0 3 = false)
    ∧ (let s := waiting [(0, 1)] 16384
      (s.die 0).oldestSlot.isSome = true ∧ 16384 ≤ (s.die 0).interval)
    ∧ ((waiting [] 16383).die 0).interval < 16384
    ∧ (let s := ({ queues nopCommand with mem := [(0x60, 1)] } : State).modDie 0 (fun d => { d with mapChange := some (5, 3, 0) })
      (Tab.get? s.contexts 0).isSome = true ∧ (s.die 0).mapChange = some (5, 3, 0) ∧ (s.queueDesc 5).ctx = 0 ∧ s.homeNat 96 8 ≠ 0) := by decide +kernel

/-- A prologue past its limits, at them, and at its return address. -/
def limit (n started cyc : Nat) : State :=
  (running 0).modDie 0 (fun x => { x with cyc := cyc, dispatches := x.dispatches.map (fun d => (d.1, { d.2 with instructions := n, started := started, copy := 0 })) })

theorem witness_Prologues : ((limit 257 0 0).prologueOf 0 0).map (fun k => decide (256 < k.2.instructions)) = some true
    ∧ ((limit 256 0 0).prologueOf 0 0).map (fun k => decide (k.2.instructions ≤ 256)) = some true
    ∧ ((limit 0 0 4097).prologueOf 0 0).map (fun k => decide (k.2.started + 4096 < ((limit 0 0 4097).die 0).cyc)) = some true
    ∧ ((limit 0 0 4096).prologueOf 0 0).map (fun k => decide (((limit 0 0 4096).die 0).cyc ≤ k.2.started + 4096)) = some true
    ∧ (let s := (limit 0 0 0).modHart 0 0 (fun x => { x with machineMode := true, mcause := 13 })
      (s.prologueOf 0 0).isSome = true ∧ ((s.die 0).hart 0).machineMode = true ∧ ((s.die 0).hart 0).mcause.toNat = 13)
    ∧ (((limit 0 0 0).die 0).hart 0).machineMode = false
    ∧ (let s := limit 0 0 0
      (s.prologueOf 0 0).map (fun k => decide (((s.die 0).hart 0).pc = k.2.returnTo) && (begun (s.launchPacket 0 k.1 k.2) == 2) && (s.tellWait k.2.completion).isNone)
        = some true)
    ∧ (let s := packed (running 0) 0x40
      (s.prologueOf 0 0).map (fun k => begun (s.launchPacket 0 k.1 { k.2 with dies := 1, copy := 2 ^ 16 + 2 ^ 438 })) = some 1) := by
  decide +kernel

/-- A launch of no blocks left, and its dispatch operation. -/
def launched (marked : Bool) (fault : Option Nat) : State :=
  { running 0 with launches := [(3, { (default : Launch) with total := 1, next := 1, ended := 1, handle := 1, faulted := fault })] }.modDispatch 0 1
    (fun d => { d with marked := marked, launch := some 3, hart := none })

theorem witness_LaunchComplete : (∀ m ∈ [false, true], ∀ f ∈ [none, some 3], (let s := launched m f
      (Tab.get? s.launches 3).map (fun l => decide (l.total ≤ l.next) && decide (l.total ≤ l.ended) && decide (l.faulted = f)) = some true
      ∧ (Tab.get? (s.die 0).dispatches 1).map (fun d => d.marked == m && (s.tellWait d.completion).isNone) = some true
      ∧ s.cores.all (fun c => c.2.ports.isEmpty) = true)) := by decide

/-! ### Blocks, contexts, pre-emption, the watchdog -/

/-- A launch of context 0 that waits to place a block, in that world or a fresh machine, with a core's scratchpad. -/
def pendingLaunch (s : State) (scratch : Nat) : State :=
  { s.modDie 0 (fun d => { d with pending := [3] }) with
    launches := [(3, { (default : Launch) with total := 1, pk := { stagePacket with scratch := scratch, caravans := 0, dune := false } })] }

theorem witness_BlockEvents : (let s := pendingLaunch State.reset 128
      (s.die 0).turnOf = some (3, false) ∧ s.findCores 0 0 { stagePacket with scratch := 128, caravans := 0, dune := false } = some [0]
      ∧ (s.die 0).acted 0 = false ∧ ((s.modDie 0 (fun d => d.act 0)).die 0).acted 0 = true
      ∧ (Tab.get? s.launches 3).map (fun l => decide (l.ctx = 0) && decide (l.pk = { stagePacket with scratch := 128, caravans := 0, dune := false })) = some true)
    ∧ (let s := pendingLaunch State.reset 129
      (s.die 0).turnOf = some (3, false) ∧ s.findCores 0 0 { stagePacket with scratch := 129, caravans := 0, dune := false } = none)
    ∧ (let s := { pendingLaunch world 128 with blocks := Tab.modify world.blocks 0 (fun b => { b with live := 0, launch := 3 }) }
      (Tab.get? s.blocks 0).map (fun b => decide (b.live = 0) && s.blockQuiet 0 b && b.record.isNone && (Tab.get? s.launches b.launch).isSome) = some true)
    ∧ 0 < worldMe.blk.live := by decide

/-- That world with a walk of its core, of a page that the tables map or of one that they do not. -/
def walking (page : Nat) (service : Option Nat) (reply : Byte) : State :=
  let s := (tables world).modCore 0 (fun c => { c with walks := [{ (default : Walk) with ctx := 0, page := page, service := service }] })
  { s with cores := [(0, s.core 0)], mem := if reply = 0 then s.mem else [(0x60, reply)] ++ s.mem }

theorem witness_PageWalks : (let s := walking 2 none 0
      (match s.walk 0 2 .read with
        | .leaf _ => true
        | _ => false) = true ∧ (s.blocksOn 0).any (fun b => b.2.ctx = 0) = true ∧ ((s.core 0).walks).length = 1
      ∧ ((s.core 0).walks.map (fun w => s.walkerHas 0 w)) = [true]
      ∧ (let v := s.modCore 0 (fun c => { c with walks := (List.range 17).map (fun k => { (default : Walk) with page := k, seq := k }) })
        v.walkerHas 0 { (default : Walk) with page := 16, seq := 16 } = false))
    ∧ (match (walking 0x40000 none 0).walk 0 0x40000 .read with
        | .fault _ _ => true
        | _ => false) = true
    ∧ (Tab.get? (walking 2 (some 0) 1).contexts 0).map Context.flog = some 0 ∧ (walking 2 (some 0) 1).homeNat 96 8 = 1
    ∧ (walking 2 (some 0) 2).homeNat 96 8 = 2 ∧ (walking 2 (some 0) 0).homeNat 96 8 = 0
    ∧ (walking 2 (some 0) 2).cores.map (fun c => c.1) = [0]
    ∧ (let t := (walking 2 (some 0) 1).modCore 0 (fun x => { x with walks := [{ (default : Walk) with ctx := 0, page := 2 }] })
      (match t.walk 0 2 .read with
        | .leaf _ => true
        | _ => false) = true) := by decide

/-- That world's block as one that pre-emption may stop, waiting for `phint` or not, under a request, its caravan saved or not. -/
def preempted (phint : Bool) (request : Option Nat) (stop : Option SavePoint) (cyc : Nat) : State :=
  (((inBlock (fun b => { b with pk := { b.pk with preempt := true, phintReq := phint, dune := false } })).modCore 0 (fun c =>
    { c with request := request })).modCaravan 0 (fun c => { c with savePoint := stop })).modDie 0 (fun d => { d with cyc := cyc })

/-- The block of that world, saved, and a machine whose core 0 is free. -/
def savedBlock (free : Bool) : State :=
  let s := preempted false none none 0
  let b : SavedBlock := { block := Tab.getD s.blocks 0 default, caravans := s.caravans, mats := [], dunes := [], tiles := [] }
  { s with saved := [(0, b)], blocks := if free then [] else s.blocks, caravans := if free then [] else s.caravans }

theorem witness_PreemptionEvents : (let s := preempted false none none 0
      s.blocks.map (fun b => (b.1, b.2.pk.preempt && !b.2.pk.phintReq)) = [(0, true)]
      ∧ s.blocks.all (fun b => decide (b.2.halves.map (fun h => (h.core, h.slots)) = [(0, [0])])) = true
      ∧ s.caravans.all (fun c => c.1 == 0 && c.2.block == 0 && !c.2.halted && c.2.savePoint.isNone) = true ∧ s.caravans.length = 1
      ∧ (meOf s).car.capsule.isNone = true ∧ (meOf s).car.paths.all (fun p => p.2.pending.isNone) = true ∧ (s.core 0).request = none)
    ∧ (let s := preempted true (some 7) none 200007
      (s.core 0).request = some 7 ∧ 7 + 200000 ≤ (s.die 0).cyc)
    ∧ (let s := preempted true (some 7) none 200006
      (s.core 0).request = some 7 ∧ (s.die 0).cyc < 7 + 200000)
    ∧ (let s := preempted false (some 7) (some .full) 9
      (Tab.get? s.blocks 0).map (fun b => b.pk.preempt && s.requested b && s.enginesRest 0 b) = some true
      ∧ (s.members 0).length = 1 ∧ (s.members 0).all (fun c => decide (c.2.savePoint = some .full) && c.2.paths.all (fun p => p.2.storeq.isEmpty)) = true
      ∧ s.caravans.map Prod.fst = [0])
    ∧ (let s := savedBlock true
      (Tab.get? s.saved 0).map (fun x => s.mayResume x && !x.spoiled && decide (x.caravans.map Prod.fst = [0])) = some true
      ∧ (let t : State := { s with saved := s.saved.map (fun b => (b.1, { b.2 with spoiled := true })) }
        (Tab.get? t.saved 0).map (fun x => t.mayResume x && x.spoiled && decide (x.caravans.map Prod.fst = [0])) = some true))
    ∧ (let s := savedBlock false
      (Tab.get? s.saved 0).map (fun x => s.mayResume x) = some false) := by decide

/-- That world's die with a watchdog count of its context, in a mode, with the other dies' reports. -/
def watched (count : Nat) (host fired : Bool) : State :=
  let s := world.modDie 0 (fun d => { d with watch := [(0, count)] })
  { s with bar := { s.bar with enabled := true, featEn := 0xffff }, contexts := Tab.modify s.contexts 0 (fun c => { c with modes := if host then 0x1f else 0, fired := fired }) }

/-- The same with a caravan of the context on die 3, which has not reported. -/
def watchedTwo : State :=
  let s := watched (2 ^ 24) false false
  { s with caravans := Tab.set s.caravans (64 * 144) worldMe.car }

theorem witness_WatchdogEvents : Tab.getD ((watched (2 ^ 24 - 1) false false).die 0).watch 0 0 < 2 ^ 24
    ∧ 2 ^ 24 ≤ Tab.getD ((watched (2 ^ 24) false false).die 0).watch 0 0
    ∧ (∀ d ≤ 3, d = 0 ∨ (watched (2 ^ 24) false false).placed d 0 = []) ∧ (watched (2 ^ 24) false false).hostMode 0 4 = false
    ∧ (watched (2 ^ 24) true true).hostMode 0 4 = true ∧ (Tab.get? (watched (2 ^ 24) true true).contexts 0).map Context.fired = some true
    ∧ (Tab.get? (watched (2 ^ 24) true false).contexts 0).map Context.fired = some false
    ∧ watchedTwo.placed 3 0 ≠ [] ∧ (watchedTwo.die 3).reports = [] := by decide

end Sys2Proof.Tests
end

