-- ==== Sys2Proof/Tests/Witness4.lean ====
section
/-!
SUPPORT. Witnesses for the statements about the engines, the dune array, graphs, Netin, the host, errors, the mailbox and the debug
unit: for each, a concrete state and operands that meet its hypotheses together.
-/

namespace Sys2Proof.Tests

open Sys2Proof Sys2Proof.Machine

/-! ### Engines -/

/-- That copy in its core's engine, from one page that the tables map to another, or from an address that none maps. -/
def copying (o : CopyOp) : State :=
  { (tables world).modCore 0 (fun c => { c with copies := [o], tiles := [(63, { c.tile 63 with state := 1 })] }) with nextUid := 9 }

/-- A fill and a drain of tile 63 on barrier 15, and a copy that faults. -/
def fillOp : CopyOp := { copyOp with kind := .fill 63, bar := some 15 }
def drainOp : CopyOp := { copyOp with kind := .drain 63, bar := some 15 }
def lostOp (o : CopyOp) : CopyOp := { o with src := 2 ^ 46 }

/-- Bytes located in memory where they stand. -/
def there (l : Int) : Loc := (.mem, l.toNat)

theorem witness_CopyEvents : (∀ o ∈ [copyOp, fillOp, drainOp], (let s := copying o
      (s.core 0).copyOp o.order = some o ∧ o.issuer / 64 = 0 ∧ s.alive o.issuer o.caravan = true
      ∧ o.bytes.all (fun x => match o.locate s o.srcPlace .read x.1 with
        | .ok l t => decide (l = there x.1) && decide (t = s)
        | _ => false) = true
      ∧ o.bytes.all (fun x => found (s.engineByte 0 (there x.1) (BitVec.ofInt 64 x.1))) = true
      ∧ o.bytes.all (fun x => match o.locate s o.dstPlace .write x.2 with
        | .ok l t => decide (l = there x.2) && decide (t = s)
        | _ => false) = true
      ∧ (o.bytes.map (fun x => there x.2)).Nodup ∧ (∀ x ∈ o.bytes, ∀ y ∈ o.bytes, there x.2 ≠ there y.1)
      ∧ o.moved = [] ∧ (s.core 0).l1Lines.length + o.bytes.length ≤ 256 ∧ ((s.core 0).tile 63).lost = false
      ∧ o.bytes.all (fun x => !s.freedIn o.block x.1) = true))
    ∧ (∀ o ∈ [copyOp, fillOp, drainOp], failed ((lostOp o).run 0 0 (copying (lostOp o))) = true) := by decide +kernel

/-- A post of a quadrant for that matrix operation. -/
def posted (q : Nat) : Post := { quad := q, block := 0, caravan := 0, group := 0, seq := 0, data := 0 }

/-- That matrix operation at the head of an idle engine's queue, its group abandoned or not, with posts. -/
def queued1 (o : MatrixOp) (posts : List Post) (abandoned : Bool) (allowance : Nat) : State :=
  ((tables (groupOf (fun g => { g with abandoned := abandoned }))).modCore 0 (fun c => { c with mat := { c.mat with queue := [o], posts := posts } })).modDie 0
    (fun d => { d with allowance := allowance })

/-- Operations of each form, of rows of 128 bytes at 0x20000. -/
def formOp (f : MatrixForm) : MatrixOp := { matrixOp with form := f, addr := 0x20000, stride := 128 }

theorem witness_MatrixStarts : (let s := queued1 matrixOp [] false 0
      (s.core 0).mat.queue.head? = some matrixOp ∧ s.ready 0 = some matrixOp)
    ∧ (let o := formOp .load
      let s := queued1 o [] false 0
      s.ready 0 = some o ∧ s.alive o.issuer o.caravan = true)
    ∧ (let o := formOp .store
      let s := queued1 o [] false 0
      s.ready 0 = some o ∧ o.stride.getLsbD 36 = false ∧ o.issuer / 64 = 0 ∧ (s.core 0).mat.tilePoisoned o.tile = false)
    ∧ (let o := formOp (.mma false false)
      let s := queued1 o [] true 0
      (s.core 0).mat.queue.head? = some o ∧ (s.core 0).mat.idle = true ∧ s.ready 0 = none ∧ o.isMma = true ∧ s.spans o 0 = [0]
      ∧ s.quarters o 0 = none ∧ s.groupAbandoned o = true)
    ∧ (let o := { formOp (.mma true true) with abort := true }
      let s := queued1 o [] false 0
      (s.core 0).mat.queue.head? = some o ∧ (s.core 0).mat.idle = true ∧ s.ready 0 = none ∧ s.groupAbandoned o = false)
    ∧ (let s := (tables world).modCore 0 (fun c => { c with mat := { c.mat with running := some matrixOp } })
      (s.core 0).mat.running = some matrixOp ∧ (Tab.get? s.blocks matrixOp.block).isSome = true
      ∧ (s.caravan? matrixOp.issuer).map Caravan.uid = some matrixOp.caravan)
    ∧ (world.core 0).mat.running = none := by decide +kernel

/-- An `mma` of that world's whole group, its posts made, its operand buffer zero. -/
def mmaWorld (allowance : Nat) : State :=
  (queued1 (formOp (.mma false false)) ((List.range 4).map posted) false allowance).modCore 0 (fun c => { c with mat := { c.mat with ob := ⟨.zero, []⟩ } })

theorem witness_MatrixMma : (mmaWorld 10000).ready 0 = some (formOp (.mma false false)) ∧ (mmaWorld 10000).admitted 0 = true
    ∧ (mmaWorld 0).ready 0 = some (formOp (.mma false false)) ∧ (mmaWorld 0).spans (formOp (.mma false false)) 0 = [0] := by decide +kernel

/-- A load or a store of rows of 128 bytes at 0x20000, and the state in which it starts. -/
def moveOp (st : Bool) : MatrixOp := formOp (if st then .store else .load)
def moved (st : Bool) : State := queued1 (moveOp st) [] false 0
def moving (st : Bool) : State := if st then (moved st).setCore 0 ((moved st).core 0) else (moved st).drainStores 0 0

/-- A state whose tables map page 2 to itself for context 0, with that world's caravan and block, and nothing cached or poisoned. -/
structure Mapped (s : State) : Prop where
  walk : ∀ k ∈ [Access.read, .write], s.walk 0 2 k = .leaf (gib 0x20000)
  caravan : ∃ c, s.caravans = [(0, c)] ∧ c.block = 0 ∧ c.stkbase = 0x41000
  block : ∃ b, Tab.get? s.blocks 0 = some b ∧ b.stackBytes = 4096
  saved : s.saved = []
  l1 : (s.core 0).l1 = []
  poison : s.poison = []
  launches : s.launches = []

theorem moving_mapped (st : Bool) : Mapped (moving st) := by
  refine ⟨?_, ?_, ?_, ?_, ?_, ?_, ?_⟩
  · intro k hk
    simp only [List.mem_cons, List.not_mem_nil, or_false] at hk
    rcases hk with rfl | rfl <;> cases st <;> decide
  · cases st <;> exact ⟨_, rfl, rfl, rfl⟩
  · cases st <;> exact ⟨_, rfl, rfl⟩
  all_goals cases st <;> rfl

theorem mapped_walk {s : State} (h : Mapped s) (k : Access) (va : Word) (hk : k ∈ [Access.read, .write]) (hc : canonical va = true)
    (hp : pageOf va = 2) : s.walkServe 0 va k = .leaf (gib 0x20000) s := by
  unfold State.walkServe
  rw [if_neg (by simp [hc]), hp, h.walk k hk]
  simp only [List.mem_cons, List.not_mem_nil, or_false] at hk
  rcases hk with rfl | rfl <;> rfl

/-- A byte of that page is where it stands, for an engine of that state. -/
theorem mapped_locate {s : State} (h : Mapped s) (k : Access) (n : Nat) (hk : k ∈ [Access.read, .write]) (hn : n < 65536) :
    s.locate 0 (0x20000 + BitVec.ofNat 64 n) k = .ok (.mem, 0x20000 + n) s := by
  have hv : (0x20000 + BitVec.ofNat 64 n : Word).toNat = 0x20000 + n := by simp; omega
  have hc : canonical (0x20000 + BitVec.ofNat 64 n) = true := by
    unfold canonical
    rw [hv]
    simp; omega
  have hp : pageOf (0x20000 + BitVec.ofNat 64 n) = 2 := by
    unfold pageOf
    rw [hv]
    omega
  have ho : s.stackOwner 0 (2 ^ 32) (0x20000 + n) = none := by
    have hs : ∀ c : Caravan, c.stkbase = 0x41000 → inStack c 4096 (0x20000 + n) 1 = false := by
      intro c h
      unfold inStack
      rw [h]
      simp; omega
    obtain ⟨c, hc1, hc2, hc3⟩ := h.caravan
    obtain ⟨b, hb1, hb2⟩ := h.block
    unfold State.stackOwner
    rw [hc1, h.saved]
    simp [hc2, hb1, hb2, hs c hc3]
  unfold State.locate
  rw [mapped_walk h k _ hk hc hp]
  simp only [hv, ho]
  simp [gib, physical]
  omega

theorem mapped_byte {s : State} (h : Mapped s) (n : Nat) (va : Word) : ∃ b, s.engineByte 0 (.mem, n) va = .ok b s := by
  have h1 : s.l1Poisoned 0 n 1 = false := by
    unfold State.l1Poisoned
    simp [h.l1, h.poison, Tab.get?]
  have h2 : s.unsettled n = false := by simp [State.unsettled, h.launches]
  refine ⟨s.l1Byte 0 n, ?_⟩
  unfold State.engineByte
  simp only [h1, h2]
  rfl

theorem mapped_read {s : State} (h : Mapped s) (ns : List Nat) :
    ∃ bs, s.readLocated 0 (ns.map (fun n => ((.mem, n) : Loc))) = (bs, false, s) := by
  induction ns with
  | nil => exact ⟨[], rfl⟩
  | cons n ns ih =>
    obtain ⟨b, hb⟩ := mapped_byte h n 0
    obtain ⟨bs, hbs⟩ := ih
    refine ⟨b :: bs, ?_⟩
    simp only [List.map_cons, State.readLocated, hb, hbs]

theorem mapped_engine {s : State} (h : Mapped s) (n : Nat) : ∀ a, a + n ≤ 65536 →
    ∃ bs, s.engineRead 0 0 (0x20000 + BitVec.ofNat 64 a) n = .ok bs s := by
  induction n with
  | zero => exact fun a _ => ⟨[], rfl⟩
  | succ n ih =>
    intro a ha
    obtain ⟨b, hb⟩ := mapped_byte h (0x20000 + a) (0x20000 + BitVec.ofNat 64 a)
    obtain ⟨bs, hbs⟩ := ih (a + 1) (by omega)
    have h1 : (0x20000 + BitVec.ofNat 64 a + 1 : Word) = 0x20000 + BitVec.ofNat 64 (a + 1) := by
      apply BitVec.eq_of_toNat_eq; simp; omega
    refine ⟨b :: bs, ?_⟩
    unfold State.engineRead
    rw [mapped_locate h .read a (by simp) (by omega)]
    simp only [hb, h1, hbs]

theorem mapped_places {s : State} (h : Mapped s) (k : Access) (hk : k ∈ [Access.read, .write]) (ns : List Nat) (hn : ∀ n ∈ ns, n < 65536) :
    s.locateAll 0 k (ns.map (fun n => (0x20000 + BitVec.ofNat 64 n : Word))) = .ok (ns.map (fun n => (.mem, 0x20000 + n))) s := by
  induction ns with
  | nil => rfl
  | cons n ns ih =>
    simp only [List.map_cons]
    unfold State.locateAll
    rw [mapped_locate h k n hk (hn n (by simp))]
    simp only [ih (fun k hk => hn k (by simp [hk]))]

theorem quads (m : Nat) : (List.range m).flatMap (fun k => [4 * k, 4 * k + 1, 4 * k + 2, 4 * k + 3]) = List.range (4 * m) := by
  induction m with
  | zero => rfl
  | succ m ih => rw [List.range_succ, List.flatMap_append, ih, show 4 * (m + 1) = 4 * m + 1 + 1 + 1 + 1 by omega]; simp [List.range_succ]

theorem moving_addresses (st : Bool) : (moveOp st).addresses.flatMap (fun a => [a, a + 1, a + 2, a + 3])
    = (List.range 8192).map (fun n => (0x20000 + BitVec.ofNat 64 n : Word)) := by
  have h (k : Nat) : (moveOp st).addr + BitVec.ofInt 64 ((k / 32 : Nat) * (((moveOp st).stride.truncate 32 : BitVec 32).toInt)) + BitVec.ofNat 64 (4 * (k % 32))
      = 0x20000 + BitVec.ofNat 64 (4 * k) := by
    have h2 : ((moveOp st).stride.truncate 32 : BitVec 32).toInt = 128 := by cases st <;> decide
    have h3 : (((k / 32 : Nat) : Int) * 128) = ((128 * (k / 32) : Nat) : Int) := by omega
    have h4 : 4 * k = 128 * (k / 32) + 4 * (k % 32) := by omega
    rw [h2, h3, BitVec.ofInt_natCast, h4, BitVec.ofNat_add, ← BitVec.add_assoc]
    rfl
  have h4 (k n : Nat) : (0x20000 + BitVec.ofNat 64 k + BitVec.ofNat 64 n : Word) = 0x20000 + BitVec.ofNat 64 (k + n) := by
    rw [BitVec.ofNat_add, BitVec.add_assoc]
  rw [show 8192 = 4 * 2048 from rfl, ← quads]
  unfold MatrixOp.addresses
  simp only [h, List.flatMap_map, List.map_flatMap, List.map_cons, List.map_nil]
  congr 1
  funext k
  rw [← h4 (4 * k) 1, ← h4 (4 * k) 2, ← h4 (4 * k) 3]
  rfl

/-- The places of those 8,192 bytes. -/
def rowPlaces : List Loc := (List.range 8192).map (fun n => (.mem, 0x20000 + n))

theorem witness_MatrixLoad : (moved false).alive (moveOp false).issuer (moveOp false).caravan = true
    ∧ ((moved false).drainStores (moveOp false).issuer (moveOp false).path).locateAll (moveOp false).ctx .read
        ((moveOp false).addresses.flatMap (fun a => [a, a + 1, a + 2, a + 3])) = .ok rowPlaces (moving false)
    ∧ (∀ l ∈ rowPlaces, l.isRemote = false) ∧ (∀ a, (moving false).freedIn (moveOp false).block a = false)
    ∧ ∃ bs, (moving false).readLocated 0 rowPlaces = (bs, false, moving false) := by
  refine ⟨by decide, ?_, ?_, fun a => rfl, ?_⟩
  · rw [moving_addresses]
    exact mapped_places (moving_mapped false) .read (by simp) (List.range 8192) (fun n hn => by have := List.mem_range.1 hn; omega)
  · intro l hl
    obtain ⟨n, -, rfl⟩ := List.mem_map.1 hl
    rfl
  · have := mapped_read (moving_mapped false) ((List.range 8192).map (0x20000 + ·))
    rwa [List.map_map] at this

theorem witness_MatrixStore : ((moved true).setCore 0 ((moved true).core 0)).locateAll 0 .write
      ((moveOp true).addresses.flatMap (fun a => [a, a + 1, a + 2, a + 3])) = .ok rowPlaces (moving true) ∧ rowPlaces.Nodup
    ∧ (∀ l ∈ rowPlaces, (moving true).plainPlace l) ∧ (moving true).roomForAll 0 rowPlaces := by
  rw [moving_addresses]
  refine ⟨mapped_places (moving_mapped true) .write (by simp) (List.range 8192) (fun n hn => by have := List.mem_range.1 hn; omega), ?_, ?_, ?_⟩
  · rw [List.Nodup, rowPlaces, List.pairwise_map]
    exact List.nodup_range.imp (fun h k => h (by simpa using k))
  · intro l hl
    obtain ⟨n, -, rfl⟩ := List.mem_map.1 hl
    rfl
  · unfold State.roomForAll
    decide +kernel

/-! ### The dune array -/

/-- That world's array changed, its core's tables mapping the first GiB. -/
def array (f : Dune → Dune) : State := (tables world).modCore 0 (fun c => { c with dune := f { c.dune with calibrating := none } })

/-- An array with a command at the head of its queue, a sweep that runs or not. -/
def commanded (form : DuneForm) (w : Option Sweep := none) : State :=
  array (fun d => { d with queue := [{ (default : DuneCommand) with form := form, bar := 15, caravan := 0 }], sweep := w })

/-- A sweep of which some are done, with an ending. -/
def sweepOf (done : Nat) (e : SweepEnd := .running) : Sweep :=
  { done := done, inPhase := false, waiting := false, hvals := [], rows := [], ending := e }

/-- The forms of a command whose operands are read from memory, with the bytes that each reads. -/
def reading : List (DuneForm × Nat) :=
  [(.load 0x20000 1023 1, 128), (.pairs 0x20000, 1024), (.bias 0x20000 1023 1, 4), (.clamp 0x20000, 256), (.init 0x20000, 128)]

theorem commanded_mapped (form : DuneForm) : Mapped (commanded form) :=
  ⟨fun k hk => by
      have h : ∀ k ∈ [Access.read, .write], (commanded (.clamp 0)).walk 0 2 k = .leaf (gib 0x20000) := by decide
      exact h k hk,
    ⟨_, rfl, rfl, rfl⟩, ⟨_, rfl, rfl⟩, rfl, rfl, rfl, rfl⟩

theorem witness_DuneReads (form : DuneForm) (n : Nat) (_ : (form, n) ∈ reading) (hn : n ≤ 65536) : (commanded form).duneCtx 0 = some 0
    ∧ ∃ bs, (commanded form).duneGets 0 0 0 0x20000 n bs := by
  have h := commanded_mapped form
  obtain ⟨bs, hbs⟩ := mapped_engine h n 0 (by omega)
  refine ⟨rfl, bs, by simpa using hbs, fun a _ => rfl, _, mapped_places h .read (by simp) (List.range n) (fun k hk => ?_), ?_⟩
  · have := List.mem_range.1 hk
    omega
  · intro l hl
    obtain ⟨k, -, rfl⟩ := List.mem_map.1 hl
    rfl

theorem witness_DuneStores : (let s := commanded (.read 0x20000 0)
      s.locateAll 0 .write (addresses 0x20000 128) = .ok ((List.range 128).map (fun k => ((.mem, 0x20000 + k) : Loc))) s
      ∧ ((List.range 128).map (fun k => ((.mem, 0x20000 + k) : Loc))).Nodup ∧ (∀ k < 128, s.unsettled (0x20000 + k) = false)
      ∧ s.roomForAll 0 ((List.range 128).map (fun k => (.mem, 0x20000 + k)))) := by
  refine ⟨mapped_places (commanded_mapped _) .write (by simp) (List.range 128) (fun n hn => by have := List.mem_range.1 hn; omega), by decide +kernel,
    fun k _ => rfl, ?_⟩
  unfold State.roomForAll
  decide +kernel

theorem witness_DuneEvents : (∀ form ∈ [DuneForm.load 0x20000 1023 1, .pairs 0x20000, .stream 0x20000 31, .bias 0x20000 1023 1, .clamp 0x20000,
      .init 0x20000, .link true 5 1 255, .link false 0 1 0, .clear 3, .read 0x20000 0, .sweep 1023 0 true], (let s := commanded form
      (s.core 0).dune.queue.map (fun c => (c.form, c.bursts)) = [(form, 0)] ∧ (s.duneBlock 0).map Prod.fst = some 0 ∧ s.alive 0 0 = true))
    ∧ (∀ e < 32, couplingOk 1024 1023 0 = true) ∧ couplingOk 1024 0 0 = false
    ∧ (let s := commanded (.link true 5 1 255)
      s.duneCtx 1 = none ∧ (((s.unlink 0 255).core 1).dune.publish.length < 256))
    ∧ (let k : DuneConfig := { (world.core 0).dune.config with streamed := true }
      (commanded (.config k)).duneCtx 0 = some 0 ∧ ((commanded (.config k)).core 0).dune.config.streamed = false)
    ∧ ((commanded (.sweep 4 3 false) (some (sweepOf 7))).core 0).dune.sweep = some (sweepOf 7) ∧ 4 + 3 ≤ (sweepOf 7).done ∧ (sweepOf 6).done < 4 + 3
    ∧ (sweepOf 1 .bias).ending = .bias ∧ (sweepOf 1 .horizon).ending = .horizon ∧ (sweepOf 1 (.error 30 2 0)).ending = .error 30 2 0 := by decide +kernel

/-- An array that sweeps, whose bit 0 alone is not clamped and reads horizon entry 0. -/
def sweeping (inPhase : Bool) (order : List Nat) (done : Nat) (horizon : Tab HorizonEntry) : State :=
  array (fun d => { d with queue := [{ (default : DuneCommand) with form := .sweep 4 3 false, bar := 15 }],
                           sweep := some { sweepOf done with inPhase := inPhase }, clampMask := BitVec.allOnes 1024 - 1, couplings := [(0, 0x8000)],
                           horizon := horizon, config := { d.config with order := order, replay := true } })

/-- A horizon entry whose version of sweep 0 has come, or none. -/
def linked (v : Bool) : Tab HorizonEntry := [(0, { source := 1, bit := 5, versions := if v then [(0, (0, true))] else [] })]

theorem witness_Sweeps (inPhase : Bool) (order : List Nat) (done : Nat) (horizon : Tab HorizonEntry) :
    (sweeping inPhase order done horizon).Sweeps 0 ((sweeping inPhase order done horizon).core 0).dune { (default : DuneCommand) with form := .sweep 4 3 false, bar := 15 }
      { sweepOf done with inPhase := inPhase } 4 3 false ∧ ((sweeping inPhase order done horizon).core 0).dune.config.streamed = false :=
  ⟨⟨rfl, rfl, rfl, rfl, rfl, rfl, rfl, rfl⟩, rfl⟩

theorem witness_SweepEvents : (let d := ((sweeping false [0] 6 (linked true)).core 0).dune
      d.publication.isNone = true ∧ d.samples < 4096 ∧ d.testDue = false ∧ (6 : Nat) < 4 + 3 ∧ d.config.order.getD d.phase 8 = 0
      ∧ (d.sweeps - d.config.stale) % 8 = 0)
    ∧ (let d := ((sweeping true [0] 2 []).core 0).dune
      d.publish = [] ∧ d.config.replay = true ∧ d.testPhases + 1 < 4096 ∧ d.config.order.length ≤ d.phase + 1)
    ∧ (let d := ((sweeping true [0, 1] 3 []).core 0).dune
      ¬ d.config.order.length ≤ d.phase + 1)
    ∧ (let s := (sweeping true [0] 2 []).modDune 0 (fun d => { d with config := { d.config with replay := false } })
      let d := (s.core 0).dune
      d.config.replay = false ∧ d.publish = [] ∧ d.samples + 1 < 4096 ∧ d.testDue = false ∧ d.failed.isNone = true ∧ d.broken = false
      ∧ s.duneSaving 0 = false ∧ d.sweep.map (fun w => d.timedOut w) = some false)
    ∧ entriesRead ((List.range 1024).map ((sweeping false [0] 6 []).core 0).dune.residentRow) [0] = [0]
    ∧ updatedBits ((List.range 1024).map ((sweeping false [0] 6 []).core 0).dune.residentRow) 0 = [0]
    ∧ (Tab.get? (linked true) 0).bind (fun e => e.value true 0) = some true ∧ (Tab.get? (linked false) 0).bind (fun e => e.value true 0) = none
    ∧ (Tab.get? (linked false) 0).isSome = true := by decide +kernel

/-- A message to horizon entry 0 of that array. -/
def messaged (reset : Bool) : State :=
  { array (fun d => { d with horizon := linked true }) with
    horizonMsgs := [{ source := 1, core := 0, block := 0, entry := 0, reset := reset, version := 8, value := false }] }

/-- Counts of a witness window, within the bounds of R285 and outside. -/
def window (ones : Nat) : State :=
  array (fun d => { d with samples := 4096, sweep := some (sweepOf 0),
                           witness := (List.range 16).map (fun b => (b, { (default : Witness) with ones := if b = 15 then ones else 2048, agree := 1948 })) })

theorem witness_HorizonAndHealth : (∀ r ∈ [false, true], (let s := messaged r
      (nextMessage 0 0 [] s.horizonMsgs).map (fun x => (x.1.reset, x.1.source)) = some (r, 1) ∧ (s.duneBlock 0).map Prod.fst = some 0
      ∧ (Tab.get? (s.core 0).dune.horizon 0).map HorizonEntry.source = some 1))
    ∧ (∀ n ∈ [7, 8], (let s := array (fun d => { d with sweep := some { sweepOf 0 with waiting := true }, config := { d.config with timeout := 8 }, waitCount := n })
      (s.core 0).dune.config.timeout = 8 ∧ (s.core 0).dune.waitCount = n))
    ∧ (∀ n ∈ [1948, 2148, 2149], (let s := window n
      4096 ≤ (s.core 0).dune.samples ∧ s.duneSaving 0 = false ∧ ((s.core 0).dune.witness.map Prod.fst) = List.range 16
      ∧ (Tab.getD (s.core 0).dune.witness 15 Witness.blank).ones = n))
    ∧ (array (fun d => { d with samples := 4095 })).duneSaving 0 = false
    ∧ (let s := array (fun d => { d with testDue := true })
      (s.core 0).dune.testDue = true ∧ s.duneSaving 0 = false ∧ (s.core 0).dune.broken = false)
    ∧ (∀ h ∈ [0, 1, 2], (let s := { array (fun d => { d with calibrating := some 0 }) with
            flash := { State.reset.flash with health := [(0, { state := h, events := 0, sweep := 0, ones := 0, agree := 0 })] } }
      (s.core 0).dune.calibrating = some 0 ∧ s.healthOf 0 = h)) := by decide +kernel

/-! ### Graphs -/

/-- A stage graph's slot of context 0 with a run in progress, a trigger due and a trigger pending, or without. -/
def slotted (run : Option GraphRun) (due pending : Option Trigger) (desc : List Byte := graph false) : GraphSlot :=
  { stage := true, ctx := 0, desc := desc, signal := 0, due := due, run := run, pending := pending }

/-- A run of one node, and a state whose graph slot 15 has it. -/
def runOf (n : Node) (waits : Bool := false) : GraphRun :=
  { GraphRun.start [] 0 with begun := true, nodes := [(0, n)], faulted := if waits then some 3 else none }
def graphed (x : GraphSlot) (s : State := tables State.reset) : State := { s with graphs := [(15, x)] }

/-- A trigger of value 0. -/
def plain : Trigger := { value := 0, completions := [], home := 0 }

theorem witness_TriggerAndStart : Tab.get? (tables State.reset).graphs 15 = none
    ∧ (slotted none none none).run.isNone = true ∧ (slotted none (some plain) none).due.isSome = true ∧ (slotted none (some plain) (some plain)).pending.isSome = true
    ∧ plain.value = 0 ∧ fld (descWord (graph false) 0) 112 16 = 0
    ∧ (let x := slotted none (some plain) none
      let s := graphed { x with due := none, run := some { GraphRun.start [.signal 0 0] 0 with begun := true } }
      (s.setReserves 15 { x with due := none, run := some (GraphRun.start [.signal 0 0] 0) } (List.range (graphNodes x.desc))).isSome = true)
    ∧ (let x := slotted none (some plain) none ((graph false).set 116 2)
      let s := graphed { x with due := none, run := some { GraphRun.start [.signal 0 0] 0 with begun := true } }
      (s.setReserves 15 { x with due := none, run := some (GraphRun.start [.signal 0 0] 0) } (List.range (graphNodes x.desc))).isNone = true) := by
  decide +kernel

theorem witness_GraphEvents : (let x := slotted (some (runOf (node [(0, slotOf .pending)]))) none none
      let s := graphed x { tables world with blocks := [], caravans := [] }
      s.dueNodes 0 = [(15, 0)] ∧ (s.die 0).acted 2 = false ∧ ((node [(0, slotOf .pending)]).slot 0).owed = []
      ∧ (node [(0, slotOf .pending)]).waiters = [] ∧ (s.modDie 0 (fun e => { e with acts := [(2, e.cyc + 1)] }) |>.die 0).acted 2 = true ∧ (node [(0, slotOf .pending)]).ready = [0]
      ∧ s.findCores (graphNode (graph false) 0).die 0 (graphNode (graph false) 0).pk = some [0] ∧ s.graphs.all (fun h => h.2.stage) = true
      ∧ found (s.frontWrite 0 ((graphNode (graph false) 0).lbase + BitVec.ofNat 64 (8 * (graphNode (graph false) 0).group * 0)) (leBytes 8 0)) = true)
    ∧ (let s := graphed (slotted none none none)
      s.dueNodes 0 = [] ∧ s.graphs.all (fun g => g.2.run.isNone) = true)
    ∧ (let w : Emit := { path := 0, target := 0, payload := 0 }
      let n := { node [(0, slotOf .counting)] with waiters := [w] }
      let s := graphed (slotted (some (runOf n)) none none) (inBlock (fun b => { b with record := some { (default : RecordBlock) with graph := 15 } }))
      s.poolStalled 15 (runOf n) = true ∧ (s.caravan? (w.path / 2)).map (fun c => (Tab.get? c.paths (w.path % 2)).isSome) = some true)
    ∧ (graphed (slotted (some (runOf (node []))) none none)).poolStalled 15 (runOf (node [])) = false
    ∧ (∀ f ∈ [false, true], (let x := slotted (some (runOf (node []) f)) none (some plain)
      let s := graphed x
      s.runOver 15 x (runOf (node []) f) = true ∧ (s.tellWaits (runOf (node []) f).completions).isNone = true
      ∧ (runOf (node []) f).faulted = (if f then some 3 else none)))
    ∧ (let x := slotted (some (runOf (node [(0, slotOf .pending)]))) none none
      (graphed x).runOver 15 x (runOf (node [(0, slotOf .pending)])) = false)
    ∧ (let r := { runOf (node []) with seedFail := some 300 }
      let x := slotted (some r) none none
      (graphed x).runOver 15 x r = true ∧ (node []).inState .counting = [] ∧ ((graphed x).tellWaits r.completions).isNone = true) := by
  decide +kernel

/-! ### Netin -/

/-- A message command of that queue, in a state whose ports are all in message mode or all failed. -/
def sending (c : Command) (failed : Bool) : State :=
  let s := issuing c
  { s with netin := { s.netin with failedPorts := if failed then BitVec.allOnes 16 else 0 } }

/-- A frame of a kind for package 0 from package 5, of a message number and an offset, whose payload is 8 bytes. -/
def frame (kind seq offset : Nat) (n : Nat := 8) : Frame := { header := frameHeader kind 5 0 7 seq offset n, payload := List.replicate n 1 }

/-- An arrival of such a message, whole. -/
def arrived (k : Nat) : Arrival := { kind := 0, src := 5, tag := 7, seq := k, total := 8, parts := [(0, List.replicate 8 1)], delivered := false }

/-- A message on its way, of 8 bytes. -/
def message (acked : List Nat) (held : Bool) : Message :=
  { kind := 0, unit := 1, dst := 5, tag := 7, seq := 3, total := 8, data := List.replicate 8 1, port := 15, acked := acked, held := held, command := 4 }

/-- That world with its Netin as given. -/
def linkedUp (f : Netin → Netin) : State :=
  { tables world with netin := f State.reset.netin, commands := [(4, { queue := 0, ctx := 0, die := 0, command := nopCommand })] }

/-- That state at a local cycle of die 3, the die of port 15. -/
def clocked (n : Nat) : State := (linkedUp id).modDie 3 (fun d => { d with cyc := n })

theorem witness_MessageCommands : (let c := command 9 0x20000 8 0x700000005
      (∀ f ∈ [false, true], (let t := (sending c f).opened 0 c
        t.commandCheck (some 9) c = none
        ∧ (match t.frontRead 0 c.w1 c.w2.toNat with
          | .ok bs u => bs.length == 8 && decide (u.netin = t.netin)
          | _ => false) = true
        ∧ t.netin.portFor (c.w3.toNat / 2 ^ 32) = (if f then none else some 7))))
    ∧ (let c := command 10 0x20000 8 0x700000005
      let s := sending c false
      (s.opened 0 c).commandCheck (some 10) c = none ∧ s.netin.fullTold = [] ∧ s.netin.arrivals = [] ∧ s.netin.receives = []
      ∧ (arrived 0).whole 1 = some (List.replicate 8 1)
      ∧ found ((s.opened 0 c).frontWrite 0 c.w1 (List.replicate 8 1)) = true ∧ ((s.opened 0 c).signalWait 0 0).isNone = true) := by
  decide +kernel

theorem witness_MessageFrames : (let s := linkedUp id
      s.frameFor 0 (frame 0 3 0) = true ∧ s.frameFor 0 (frame 1 3 0) = false ∧ s.netin.accepted (frame 0 3 0) = false ∧ s.netin.backlog < 256
      ∧ s.netin.receives = [] ∧ s.netin.fullTold = [])
    ∧ (linkedUp (fun n => { n with arrivals := [arrived 3] })).netin.accepted (frame 0 3 0) = true
    ∧ (linkedUp (fun n => { n with arrivals := (List.range 256).map arrived })).netin.backlog = 256
    ∧ (let s := linkedUp (fun n => { n with sends := [(2, message [] true)] })
      s.frameFor 1 (frame 1 3 0) = true ∧ (message [] true).offsets s.netin = [0] ∧ s.frameFor 5 (frame 5 0 0) = true ∧ s.frameFor 4 (frame 4 3 0) = true
      ∧ (Tab.get? s.commands 4).isSome = true ∧ (s.signalWait 0 0).isNone = true)
    ∧ (0 : Nat) ∈ (message [0] false).acked ∧ (0 : Nat) ∉ (message [] false).acked
    ∧ Tab.getD (message [] false).last 0 (message [] false).since + Config.remoteTimeout / 16 ≤ ((clocked 1048576).die ((message [] false).port / 4)).cyc
    ∧ ¬ (message [] false).since + Config.remoteTimeout / 16 ≤ ((clocked 1048575).die ((message [] false).port / 4)).cyc := by decide +kernel

/-- A collective of package 0 in progress, as its rank 1. -/
def collective : Collective :=
  { command := 4, ctx := 0, buffer := 0x20000, count := 2, fmt := 0, op := 0, ranks := [5, 0], own := 1, number := 7, wire := [0, 0] }

theorem witness_CollectiveEvents : (let c : Command := { command 8 0x20000 0x100000002 0 with w4 := 0x20100 }
      ((issuing c).opened 0 c).commandCheck (some 8) c = none ∧ c.w2.toNat / 2 ^ 32 % 2 ^ 4 ∉ [0, 2, 3, 4])
    ∧ (let c : Command := { command 8 0x20000 2 0 with w4 := 0x20100 }
      let s := { issuing c with mem := [(0x3000, 1), (0x3001, 0x40), (0x4000, 0x1f), (0x20100, 2), (0x20104, 1), (0x20110, 5), (0x200000, 1), (0x200001, 0x40), (0x200010, 0x10)] }
      let t := s.opened 0 c
      t.commandCheck (some 8) c = none
      ∧ (match t.frontNat 0 c.w4 16 with
        | .ok h u => decide (h % 2 ^ 20 = 2) && decide (h / 2 ^ 32 % 2 ^ 20 = 1) && decide (u.netin = t.netin)
        | _ => false) = true
      ∧ found (t.frontRead 0 (c.w4 + 16) 8) = true ∧ found (t.frontRead 0 c.w1 8) = true ∧ s.netin.collectives = [] ∧ s.netin.portFor 0 = some 0)
    ∧ (let s := linkedUp (fun n => { n with collectives := [collective] })
      s.frameFor 3 (frame 3 0 0 2) = true ∧ s.frameFor 2 (frame 2 0 0 2) = true ∧ s.netin.arrivals = [] ∧ collective.ranks.getD 0 0 = 5 ∧ collective.count = 2
      ∧ collective.written = false ∧ collective.ranks.length ≤ 2
      ∧ found (s.frontWrite 0 0x20000 (List.replicate 8 1)) = true ∧ (s.signalWait 0 0).isNone = true) := by decide +kernel

/-- A request outstanding, answered or not. -/
def outstanding (write : Bool) (answer : Option Nat) : State :=
  linkedUp (fun n => { n with outstanding := [(6, { path := 0, port := 15, package := 5, addr := 0, write := write, failed := false, answer := answer })] })

theorem witness_NetinFailures : (2 ^ 39 - 8 + 8 ≤ 2 ^ 39) ∧ 2 ^ 48 < 2 ^ 48 - 7 + 8 ∧ (world.poisoned (2 ^ 39 - 8) 8 = false)
    ∧ (∀ i < 8, world.unsettled (2 ^ 39 - 8 + i) = false) ∧ world.releases = [] ∧ world.cellsIn (2 ^ 39 - 8) 8 = []
    ∧ world.unacknowledged 0 = [] ∧ (outstanding true none).unacknowledged 0 = [6]
    ∧ ((clocked 16777216).die 3).cyc = (message [] false).since + Config.remoteTimeout
    ∧ (∀ n ∈ [16777215, 16777216], (let s := { clocked n with netin := (outstanding false none).netin }
      (Tab.get? s.netin.outstanding 6).map (fun o => decide (o.since + Config.remoteTimeout ≤ (s.die (o.port / 4)).cyc)) = some (n == 16777216)))
    ∧ Tab.get? (clocked 0).netin.outstanding 2 = none ∧ (linkedUp (fun n => { n with sends := [(2, message [] false)] })).netin.outstanding = []
    ∧ (Tab.get? (outstanding true none).netin.outstanding 6).map (fun o => o.failed || o.answer.isSome) = some false
    ∧ (Tab.get? (outstanding false (some 1)).netin.outstanding 6).map (fun o => o.answer) = some (some 1)
    ∧ (outstanding false none).netin.sends = [] ∧ (outstanding false none).netin.outstanding.map Prod.fst = [6] := by decide +kernel

/-! ### The host, power, errors and repair -/

theorem witness_HostEvents : (queues nopCommand).queueLive 0 = true ∧ (queues nopCommand).queueLive 5 = false
    ∧ (24 ≤ (24 : BitVec 64).toNat % 64 ∧ (48 : BitVec 64).toNat % 64 ≤ 48 ∧ ¬ 24 ≤ (23 : BitVec 64).toNat % 64 ∧ 48 < (49 : BitVec 64).toNat % 64)
    ∧ State.reset.bar.enabled = false ∧ (queues nopCommand).bar.enabled = true
    ∧ ((1 : BitVec 64).getLsbD 1 = false ∧ (1 : BitVec 64).getLsbD 0 = true ∧ (2 : BitVec 64).getLsbD 1 = true)
    ∧ ((0x3fff : BitVec 256).getLsbD 0 = true ∧ (0x3fff : BitVec 256) >>> 14 = 0 ∧ (0x4001 : BitVec 256).getLsbD 14 = true ∧ (0x3ffe : BitVec 256).getLsbD 0 = false)
    ∧ (2 ^ 39 - 8 + 8 ≤ 2 ^ 39) ∧ (∀ i < 8, State.reset.unsettled (2 ^ 39 - 8 + i) = false) ∧ State.reset.poisoned (2 ^ 39 - 8) 8 = false
    ∧ State.reset.cellsIn (2 ^ 39 - 8) 8 = [] ∧ (∀ i < 8, world.isStack (2 ^ 39 - 8 + i) = false) ∧ State.reset.bar.refused = false
    ∧ State.reset.flash.pendingImage = none ∧ State.reset.restripes = [] ∧ State.reset.flash.image = (0, 0) := by decide +kernel

/-- A stack that restripes, at a region. -/
def restriping (rsb : Nat) : State := { State.reset with restripes := [(7, { bank := 1023, rsb := rsb })] }

theorem witness_ErrorEvents : ((15 : Nat) < 16 ∧ ¬ (950 : Nat) < 950 ∧ (949 : Nat) < 950 ∧ (1050 : Nat) ≤ 1050)
    ∧ (State.reset.die 0).temperature < 950 ∧ 950 ≤ ((State.reset.modDie 0 (fun d => { d with temperature := 950 })).die 0).temperature
    ∧ ((0 : Nat) ∉ State.reset.scrubbed ∧ (1 : Nat) ∈ ({ State.reset with scrubbed := [1] } : State).scrubbed)
    ∧ (1023 ∉ State.reset.droppedBanks 7 ∧ (State.reset.droppedBanks 7).length < 60 ∧ (7, 1023) ∉ State.reset.badBanks ∧ State.reset.contexts = [])
    ∧ Tab.get? State.reset.restripes 7 = none ∧ (7, 1023) ∈ ({ State.reset with badBanks := [(7, 1023)] } : State).badBanks
    ∧ (1023 ∈ ({ State.reset with flash := { State.reset.flash with dropped := [(7, [1023])] } } : State).droppedBanks 7)
    ∧ (Tab.get? (restriping (2 ^ 18 - 2)).restripes 7).map (fun r => decide (r.rsb + 1 < 2 ^ 18)) = some true
    ∧ (Tab.get? (restriping (2 ^ 18 - 1)).restripes 7).map (fun r => decide (2 ^ 18 ≤ r.rsb + 1)) = some true ∧ (restriping 0).badBanks = [] := by
  decide +kernel

/-! ### The mailbox, the debug unit -/

/-- A context descriptor at 0x50000 of context 9, with fault-log pages at 0x51000 whose size code is 4. -/
def described : State := { State.reset with mem := [(0x50006, 9), (0x50015, 0x10), (0x50016, 5), (0x51010, 4)] }

theorem witness_ContextRequests : (let w := described.homeNat 0x50000 32
      w / 2 ^ 48 % 2 ^ 16 = 9 ∧ w / 2 ^ 208 % 2 ^ 40 = 0 ∧ w / 2 ^ 5 % 2 ^ 7 = 0 ∧ w / 2 ^ 160 % 2 ^ 48 = 0x51000 ∧ w / 2 ^ 112 % 2 ^ 48 % 64 = 0
      ∧ w / 2 ^ 64 % 2 ^ 48 % 2 ^ 21 = 0 ∧ described.homeNat (0x51000 + 16) 8 = 4)
    ∧ Tab.get? described.contexts 9 = none ∧ (Tab.get? world.contexts 0).isSome = true ∧ world.contextInUse 0 = true
    ∧ (let s := { world with blocks := [], caravans := [] }
      s.contextInUse 0 = false ∧ s.caravans = [] ∧ (Tab.get? s.contexts 0).isSome = true ∧ s.saved = [] ∧ s.writes = [] ∧ memWf s.mem = true)
    ∧ (world.blocks.any (fun x => x.2.ctx = 0) = true)
    ∧ (Tab.get? (watched 0 true true).contexts 0).map Context.fired = some true ∧ (Tab.get? world.contexts 0).map Context.fired = some false := by
  decide +kernel

/-- That array's record in flash, in a state of health. -/
def health (h : Nat) : State :=
  { State.reset with flash := { State.reset.flash with health := [(191, { state := h, events := 0, sweep := 0, ones := 0, agree := 0 })] } }

theorem witness_ArrayRequests : (3 ≤ 3 ∧ 47 ≤ 47 ∧ 3 < 4 ∧ 47 < 48 ∧ 48 * 3 + 47 = 191) ∧ world.arrayHeld 0 = true
    ∧ (∀ h < 3, (health h).arrayHeld 191 = false ∧ (health h).healthOf 191 = h) ∧ Tab.get? (health 0).clearing 191 = none
    ∧ Tab.get? ({ health 0 with clearing := [(191, 7)] } : State).clearing 191 = some 7
    ∧ ((1 : Nat) ≤ 64 ∧ ¬ (65 : Nat) ≤ 64 ∧ (10 : Nat) ≤ 24 ∧ ¬ 10 ≤ (9 : Nat) ∧ 24 < 25) := by decide +kernel

/-- That world with the driver's debug right, its caravan halted or running, a launch of handle 3. -/
def debugged (right halted : Bool) : State :=
  let s := { world with contexts := Tab.modify world.contexts 0 (fun c => { c with debug := right }),
                        launches := [(0, { (default : Launch) with handle := 3, ctx := 0 })] }
  s.modCaravan 0 (fun c => { c with halted := halted })

theorem witness_DebugEvents : Tab.get? world.contexts 1 = none ∧ (debugged true false).mayDebug 0 = true ∧ (debugged false false).mayDebug 0 = false
    ∧ (debugged true false).monitor.replay.isNone = true
    ∧ (∀ h ∈ [false, true], (let s := debugged true h
      let x : BitVec 32 := BitVec.ofNat 32 (s.tagOf 0)
      (s.named (.caravan x)).map (fun n => (n.key, n.ctx, n.handle, n.saved)) = [(0, 0, 3, none)] ∧ (s.named (.dispatch 3)).length = 1
      ∧ (s.allNamed).length = 1 ∧ (s.caravan? 0).map Caravan.halted = some h ∧ (s.named (.dispatch 4)).isEmpty = true
      ∧ s.handleCtx 3 = some 0 ∧ (Tab.get? s.caravans 0).isSome = true))
    ∧ (debugged true true).monitor.edits = [] ∧ (debugged true true).cellsIn (2 ^ 39 - 8) 8 = [] ∧ (worldMe.car.item 63).isSome = true ∧ (worldMe.car.item 78).isSome = true
    ∧ ((debugged true true).contexts.any (fun c => c.2.debug) = true ∧ (debugged false true).contexts.any (fun c => c.2.debug) = false) := by
  decide +kernel

/-- A recording of that dispatch with one checkpoint, taken at count 0 of its caravan, which has counted five. -/
def recordedRun (nextAt : Nat) : State :=
  let s := debugged true false
  let p : Checkpoint := { number := 0, caravans := s.caravans, blocks := s.blocks, saved := [], launches := s.launches, cores := [], mem := [(5, 1)], logAt := 0 }
  (({ s with monitor := { s.monitor with recordings := [(3, { handle := 3, k := 20, nextAt := nextAt, taken := 1, checkpoints := [p], log := [] })] } } : State).modCaravan 0
    (fun c => { c with wkcnt := 5 })).modDie 0 (fun d => { d with cyc := 100 })

theorem witness_ReplayEvents : (recordedRun 0).handleCtx 3 = some 0 ∧ (recordedRun 0).handleCtx 4 = none ∧ (debugged false false).handleCtx 3 = some 0
    ∧ (recordedRun 0).mayDebug 0 = true ∧ ({ recordedRun 0 with blocks := [] } : State).allNamed.length = 0
    ∧ (Tab.get? (recordedRun 0).monitor.recordings 3).map (fun r => decide (r.nextAt = 0) && r.checkpoints.length == 1 && r.checkpoints.all (fun p =>
        (recordedRun 0).intervalEnd r p ((recordedRun 0).tagOf 0) == some 5 && p.countOf ((recordedRun 0).tagOf 0) == some 0 && memWf p.mem && p.number == 0)) = some true
    ∧ (recordedRun 0).allNamed.map (fun n => n.tag == (recordedRun 0).tagOf 0 && n.handle == 3 && n.car.wkcnt == 5) = [true]
    ∧ ((recordedRun 101).die 0).cyc = 100 ∧ ((recordedRun 0).dispatchBlocks 3).all (fun b => (recordedRun 0).enginesRest b.1 b.2) = true
    ∧ (recordedRun 0).monitor.replay.isNone = true := by decide +kernel

/-- That world's core sampled into a ring of one record at 0x20000, with room or none. -/
def sampled (room : Bool) (cyc : Nat) : State :=
  let s := (tables world).modCore 0 (fun c => { c with sampling := some { ctx := 0, buffer := 0x20000, bytes := 96, n := 10, turns := [] } })
  { s.modDie 0 (fun d => { d with cyc := cyc }) with mem := [(0x3000, 1), (0x3001, 0x40), (0x4000, 0x1f)] ++ (if room then [] else [(0x20008, 1)]) }

theorem witness_SampleTick : worldMe.path.reason.1 ≠ some .data
    ∧ (let x := { worldMe.path with stall := some .data, blamed := some 0x10004 }
      x.reason = (some .data, false) ∧ x.blamed = some 0x10004) ∧ (world.core 0).sampling = none ∧ (1023 : Nat) % 2 ^ 10 ≠ 0
    ∧ (∀ r ∈ [false, true], (let s := sampled r 1024
      (s.die (0 / 48)).cyc % 2 ^ 10 = 0 ∧ (s.samplePath 0 0 0 0).map (fun x => (x.1, x.2.1, decide (x.2.2.1.stall ≠ some .data))) = some (0, 0, true)
      ∧ (match s.frontRead 0 0x20000 24 with
        | .ok h t => decide (leNat ((h.drop 8).take 8) = if r then 0 else 1) && found (t.frontWrite 0 0x20040 (leBytes 8 0)) && found (t.frontWrite 0 0x20000 (leBytes 8 1))
        | _ => false) = true ∧ (96 - 64) / 32 = 1)) := by decide +kernel

theorem witness_ReservedWords : (match decodeScalar 0xfc000000 with
      | .error e => decide (e.code = 0)
      | .ok _ => false) = true
    ∧ (match decodeLane 0xff0000000000000000000000 with
      | .error _ => true
      | .ok _ => false) = true ∧ runsB world .nop = true ∧ lanes.Issues (meOf lanes) burst :=
  ⟨by decide, by decide, by decide, rfl, rfl, rfl⟩

end Sys2Proof.Tests
end

section
/-!
Lemmas about the state: a die, the bytes of home memory after stores, the lines that a pair unit holds, the trail.
-/

namespace Sys2Proof.Machine

/-! ### Dies -/

/-- The die just changed. -/
@[simp] theorem State.die_modDie_self (s : State) (d : Nat) (f : Die → Die) : (s.modDie d f).die d = f (s.die d) :=
  Tab.getD_set_self _ _ _ _

/-- Another die than the one changed. -/
theorem State.die_modDie_ne (s : State) {d e : Nat} (f : Die → Die) (h : e ≠ d) : (s.modDie d f).die e = s.die e :=
  Tab.getD_set_ne _ _ _ h

/-! ### Bytes of home memory -/

/-- A byte at its home depends on the memory and the writes of the step alone. -/
theorem State.rawByte_congr {s u : State} (hm : u.mem = s.mem) (hw : u.writes = s.writes) (a : Nat) :
    u.rawByte a = s.rawByte a := by
  unfold State.rawByte
  rw [hm, hw]

/-- The newest write to a byte, behind the writes of consecutive bytes. -/
theorem findWrite_byteWrites (a : Nat) (bs : List Byte) (ws : List HomeWrite) (i : Nat) :
    findWrite i (byteWrites a bs ws) =
      if a ≤ i ∧ i < a + bs.length then some (bs.getD (i - a) 0) else findWrite i ws := by
  induction bs generalizing a ws with
  | nil =>
    have : ¬ (a ≤ i ∧ i < a + 0) := by omega
    simp only [byteWrites, List.length_nil, this, if_false]
  | cons b bs ih =>
    simp only [byteWrites, ih, findWrite, List.length_cons]
    by_cases hi : a = i
    · subst hi
      have h1 : ¬ (a + 1 ≤ a ∧ a < a + 1 + bs.length) := by omega
      have h2 : a ≤ a ∧ a < a + (bs.length + 1) := by omega
      rw [if_neg h1, if_pos rfl, if_pos h2, Nat.sub_self, List.getD_cons_zero]
    · have hiff : (a + 1 ≤ i ∧ i < a + 1 + bs.length) ↔ (a ≤ i ∧ i < a + (bs.length + 1)) := by omega
      simp only [hi, hiff, if_false]
      split
      · rename_i h
        have hs : i - a = (i - (a + 1)) + 1 := by omega
        rw [hs, List.getD_cons_succ]
      · rfl

/-- The bytes of home memory after a store within HBM. -/
theorem State.rawByte_homeStore (s : State) {a : Nat} {bs : List Byte} (plain : Bool) (h : a + bs.length ≤ hbmBytes) (i : Nat) :
    (s.homeStore a bs plain).rawByte i = if a ≤ i ∧ i < a + bs.length then bs.getD (i - a) 0 else s.rawByte i := by
  unfold State.rawByte
  simp only [State.homeStore_writes, State.homeStore_mem]
  by_cases ha : a < hbmBytes
  · rw [if_pos ha, findWrite_byteWrites]
    by_cases hi : a ≤ i ∧ i < a + bs.length
    · simp only [hi, and_self, if_true]
    · simp only [hi, if_false]
  · have hi : ¬ (a ≤ i ∧ i < a + bs.length) := by omega
    simp only [ha, hi, if_false]

/-- A store that reaches no capsule cell is a store at its home. -/
theorem State.outsideStore_of_no_cells {s : State} {a : Nat} {bs : List Byte} (plain : Bool) (h : s.cellsIn a bs.length = []) :
    s.outsideStore a bs plain = s.homeStore a bs plain := by
  unfold State.outsideStore
  rw [h]
  rfl

/-- A byte in HBM without `.det` updates in progress reads as its home holds it. -/
theorem State.homeByte_of_settled {s : State} {a : Nat} (hs : s.unsettled a = false) (ha : a < hbmBytes) :
    s.homeByte a = s.rawByte a := by
  simp only [State.homeByte, hs, Nat.not_le.mpr ha, decide_false, Bool.or_self, Bool.false_eq_true, if_false]

/-- No byte of a range without poison is poisoned. -/
theorem State.poisoned_byte {s : State} {a n i : Nat} (h : s.poisoned a n = false) (hi : i < n) :
    s.poisoned (a + i) 1 = false := by
  simp only [State.poisoned, List.any_eq_false, List.mem_range] at h ⊢
  intro j hj
  have key := h ((a + i) / 64 - a / 64) (by omega)
  have hk : a / 64 + ((a + i) / 64 - a / 64) = (a + i) / 64 + j := by omega
  rwa [hk] at key

/-! ### A pair unit's lines recalled, and the stacks that a store loses: what stays -/

@[simp] theorem State.recallLines_rawByte (s : State) (a n i : Nat) : (s.recallLines a n).rawByte i = s.rawByte i := rfl
@[simp] theorem State.recallLines_homeByte (s : State) (a n i : Nat) : (s.recallLines a n).homeByte i = s.homeByte i := rfl
@[simp] theorem State.recallLines_cellsIn (s : State) (a n b k : Nat) : (s.recallLines a n).cellsIn b k = s.cellsIn b k := rfl
@[simp] theorem State.recallLines_poisoned (s : State) (a n b k : Nat) : (s.recallLines a n).poisoned b k = s.poisoned b k := rfl
@[simp] theorem State.recallLines_contexts (s : State) (a n : Nat) : (s.recallLines a n).contexts = s.contexts := rfl
@[simp] theorem State.recallLines_caravans (s : State) (a n : Nat) : (s.recallLines a n).caravans = s.caravans := rfl
@[simp] theorem State.recallLines_blocks (s : State) (a n : Nat) : (s.recallLines a n).blocks = s.blocks := rfl
@[simp] theorem State.recallLines_saved (s : State) (a n : Nat) : (s.recallLines a n).saved = s.saved := rfl
@[simp] theorem State.loseStacks_mem (s : State) (a n : Nat) : (s.loseStacks a n).mem = s.mem := rfl
@[simp] theorem State.loseStacks_writes (s : State) (a n : Nat) : (s.loseStacks a n).writes = s.writes := rfl

/-- The levels of a walk read home memory, which a recall leaves. -/
theorem walkFrom_recallLines (s : State) (a n ctx page : Nat) (k : Access) (fuel level table : Nat) :
    walkFrom (s.recallLines a n) ctx page k fuel level table = walkFrom s ctx page k fuel level table := by
  induction fuel generalizing level table with
  | zero => rfl
  | succ fuel ih =>
    have next : walkFrom (s.recallLines a n) ctx page k fuel = walkFrom s ctx page k fuel := funext fun l => funext fun t => ih l t
    unfold walkFrom
    rw [next]
    rfl

/-- A recall leaves every walk. -/
@[simp] theorem State.recallLines_walk (s : State) (a n ctx page : Nat) (k : Access) :
    (s.recallLines a n).walk ctx page k = s.walk ctx page k := by
  simp only [State.walk, State.recallLines_contexts, walkFrom_recallLines]

/-- A recall leaves where the stack areas lie. -/
@[simp] theorem State.recallLines_isStack (s : State) (a n i : Nat) : (s.recallLines a n).isStack i = s.isStack i := by
  simp only [State.isStack, State.stackVa, State.recallLines_walk, State.recallLines_caravans, State.recallLines_blocks,
    State.recallLines_saved]

/-! ### The trail -/

/-- Nothing stands behind the record of an event of the die (R414). -/
theorem Die.trailBehind_of_die_event (d : Die) (cycle : Nat) {source : Nat} (h : ¬ source < 0x3f) (fuel n : Nat) :
    d.trailBehind cycle source fuel n = n := by
  cases fuel with
  | zero => rfl
  | succ fuel =>
    unfold Die.trailBehind
    refine if_neg fun hc => ?_
    rw [Bool.and_eq_true, Bool.and_eq_true, decide_eq_true_eq] at hc
    exact h hc.1.1

/-- An event of the die is the next record of its trail (R414, R416). -/
theorem State.trailed_trail (s : State) (die ctx detail : Nat) {kind code : Nat} (hk : kind < 256) (hc : code < 256) :
    s.trailed (s.trail die ctx 0x3f kind code detail none) die kind code := by
  unfold State.trailed State.trail
  simp only [State.die_modDie_self, Die.trailBehind_of_die_event _ _ (Nat.lt_irrefl 0x3f), Die.trailUp, Nat.sub_zero,
    Option.isSome_none, Bool.false_eq_true, if_false, true_and]
  have hat : ((s.die die).trailCount + 2 ^ 32) % 4096 = (s.die die).trailCount % 4096 := by omega
  rw [hat, Tab.get?_set_self]
  refine ⟨_, rfl, ?_, ?_⟩ <;>
  · rw [BitVec.toNat_ofNat]
    omega

/-- A record in the trail of a die is in no other trail. -/
theorem State.die_trail_ne (s : State) {die d : Nat} (ctx source kind code detail : Nat) (cont : Option Nat) (h : d ≠ die) :
    (s.trail die ctx source kind code detail cont).die d = s.die d :=
  s.die_modDie_ne _ h

/-- A record of an event of a die changes of the dies nothing but that trail. -/
theorem State.die_trail_frame (s : State) (die ctx kind code detail d : Nat) :
    ((s.trail die ctx 0x3f kind code detail none).die d).cyc = (s.die d).cyc
      ∧ ((s.trail die ctx 0x3f kind code detail none).die d).timers = (s.die d).timers := by
  by_cases h : d = die
  · subst h
    simp only [State.trail, State.die_modDie_self, Die.trailBehind_of_die_event _ _ (Nat.lt_irrefl 0x3f), Die.trailUp, and_self]
  · simp only [s.die_trail_ne _ _ _ _ _ _ h, and_self]

end Sys2Proof.Machine
end

section
/-!
Lemmas about bits: the fields of a number and of the registers of BAR0.
-/

namespace Sys2Proof.Machine

/-- A bit of a field. -/
theorem testBit_fld (w lo n i : Nat) : (fld w lo n).testBit i = (decide (i < n) && w.testBit (lo + i)) := by
  simp only [fld, Nat.testBit_mod_two_pow, Nat.testBit_div_two_pow, Nat.add_comm]

/-- A bit of a number of which 64 bits from `p` up are replaced. -/
theorem testBit_replace_word (old p : Nat) {v : Nat} (hv : v < 2 ^ 64) (n : Nat) :
    (old - old / 2 ^ p % 2 ^ 64 * 2 ^ p + v * 2 ^ p).testBit n =
      if p ≤ n ∧ n < p + 64 then v.testBit (n - p) else old.testBit n := by
  have hlo : old % 2 ^ p < 2 ^ p := Nat.mod_lt _ (Nat.two_pow_pos p)
  have hmid : old / 2 ^ p % 2 ^ 64 < 2 ^ 64 := Nat.mod_lt _ (Nat.two_pow_pos 64)
  have hold : old = 2 ^ p * (2 ^ 64 * (old / 2 ^ p / 2 ^ 64) + old / 2 ^ p % 2 ^ 64) + old % 2 ^ p := by
    rw [Nat.div_add_mod, Nat.div_add_mod]
  have hnew : old - old / 2 ^ p % 2 ^ 64 * 2 ^ p + v * 2 ^ p =
      2 ^ p * (2 ^ 64 * (old / 2 ^ p / 2 ^ 64) + v) + old % 2 ^ p := by
    generalize old / 2 ^ p / 2 ^ 64 = hi at *
    generalize old / 2 ^ p % 2 ^ 64 = mid at *
    generalize old % 2 ^ p = lo at *
    subst hold
    simp only [Nat.mul_add, Nat.mul_comm mid, Nat.mul_comm v]
    omega
  rw [hnew]
  conv => rhs; rw [hold]
  rw [Nat.testBit_two_pow_mul_add _ hlo, Nat.testBit_two_pow_mul_add _ hlo, Nat.testBit_two_pow_mul_add _ hv,
    Nat.testBit_two_pow_mul_add _ hmid]
  by_cases h1 : n < p
  · have h2 : ¬ (p ≤ n ∧ n < p + 64) := by omega
    simp only [h1, h2, if_true, if_false]
  · by_cases h3 : n - p < 64
    · have h2 : p ≤ n ∧ n < p + 64 := by omega
      simp only [h1, h2, h3, and_self, if_true, if_false]
    · have h2 : ¬ (p ≤ n ∧ n < p + 64) := by omega
      simp only [h1, h2, h3, if_false]

/-- A bit of a word as its number gives it. -/
theorem getLsbD_eq_true_iff {w : Nat} (v : BitVec w) (i : Nat) : v.getLsbD i = true ↔ v.toNat / 2 ^ i % 2 = 1 := by
  rw [← BitVec.testBit_toNat, Nat.testBit_eq_decide_div_mod_eq, decide_eq_true_eq]

/-- The offered features are the first fourteen (R332). -/
theorem featCap_getLsbD (k : Nat) : Config.featCap.getLsbD k = decide (k < 14) := by
  have h : Config.featCap = BitVec.ofNat 256 (2 ^ 14 - 1) := rfl
  rw [h, BitVec.getLsbD_ofNat, Nat.testBit_two_pow_sub_one, ← Bool.decide_and]
  congr 1
  apply propext
  omega

/-- No feature is chosen that is not offered. -/
theorem featEn_offered_iff (f : BitVec 256) : f &&& ~~~ Config.featCap = 0 ↔ ∀ k, 14 ≤ k → f.getLsbD k = false := by
  constructor
  · intro h k hk
    by_cases hw : k < 256
    · have hb : (f &&& ~~~ Config.featCap).getLsbD k = false := by rw [h]; exact BitVec.getLsbD_zero
      simpa only [BitVec.getLsbD_and, BitVec.getLsbD_not, featCap_getLsbD, hw, Nat.not_lt.mpr hk, decide_true, decide_false,
        Bool.not_false, Bool.and_true] using hb
    · exact BitVec.getLsbD_of_ge _ _ (by omega)
  · intro h
    apply BitVec.eq_of_getLsbD_eq
    intro k hk
    by_cases h14 : 14 ≤ k
    · simp [h k h14]
    · have : k < 14 := by omega
      simp [featCap_getLsbD, this]

end Sys2Proof.Machine
end

section
/-!
What the host does (O56): doorbells, registers, host memory accesses, resets and the identity protocol.
-/

namespace Sys2Proof.Machine

/-! ### Registers of BAR0 -/

/-- The doorbell register is a doorbell (R334). -/
theorem registerWrite_doorbell (value : BitVec 64) (s : State) :
    exec (.registerWrite 0x58 value) s = exec (.doorbell value) s := by
  show execRegisterWrite 0x58 value s = execDoorbell value s
  simp [execRegisterWrite]

/-- A doorbell gives a queue that can have work its tail, and does nothing else (R334). -/
theorem exec_doorbell (value : BitVec 64) (s : State) :
    let q := value.toNat % 2 ^ 12
    exec (.doorbell value) s = .next (if s.queueLive q then
      (s.modQueue q (fun x => { x with tail := value.toNat / 2 ^ 16 % 2 ^ 16 % 2 ^ (s.queueDesc q).log2n })).refreshQueue q
      else s) := by
  have hq : fld value.toNat 0 12 = value.toNat % 2 ^ 12 := by simp [fld]
  show execDoorbell value s = _
  simp only [execDoorbell, hq]
  cases s.queueLive (value.toNat % 2 ^ 12) <;> rfl

/-- The register of the power setting is written as R366 says. -/
theorem registerWrite_pwrSet (value : BitVec 64) (s : State) :
    exec (.registerWrite 0x68 value) s = exec (.pwrSetWrite value) s := by
  show execRegisterWrite 0x68 value s = execPwrSetWrite value s
  simp [execRegisterWrite]

/-- The power setting takes values from 24 to 48 (R366). -/
theorem exec_pwrSetWrite (value : BitVec 64) (s : State) :
    exec (.pwrSetWrite value) s = .next (if 24 ≤ value.toNat % 64 ∧ value.toNat % 64 ≤ 48 then
      { s with bar := { s.bar with pwrSet := value.toNat % 64 } } else s) := by
  have hv : fld value.toNat 0 6 = value.toNat % 64 := by simp [fld]
  show execPwrSetWrite value s = _
  simp only [execPwrSetWrite, hv]

/-- A write of one to the enable bit of `dev_ctl`, without its reset bit, enables the device (R332). -/
theorem registerWrite_enable {value : BitVec 64} (s : State) (hr : value.getLsbD 1 = false) (he : value.getLsbD 0 = true) :
    exec (.registerWrite 0x40 value) s = exec .deviceEnable s := by
  have h1 : ¬ value.toNat / 2 % 2 = 1 := fun h =>
    Bool.false_ne_true (hr.symm.trans ((getLsbD_eq_true_iff value 1).mpr h))
  have h0 : value.toNat % 2 = 1 := by simpa using (getLsbD_eq_true_iff value 0).mp he
  show execRegisterWrite 0x40 value s = execDeviceEnable s
  simp [execRegisterWrite, h1, h0]

/-- A write of one to the reset bit of `dev_ctl` is a warm reset (R330, R415). -/
theorem registerWrite_reset {value : BitVec 64} (s : State) (hr : value.getLsbD 1 = true) :
    exec (.registerWrite 0x40 value) s = exec .warmReset s := by
  have h1 : value.toNat / 2 % 2 = 1 := (getLsbD_eq_true_iff value 1).mp hr
  show execRegisterWrite 0x40 value s = execWarmReset s
  simp [execRegisterWrite, h1]

/-- An enabled device stays as it is. -/
theorem deviceEnable_enabled {s : State} (h : s.bar.enabled = true) : exec .deviceEnable s = .next s := by
  show execDeviceEnable s = _
  simp [execDeviceEnable, h]

/-- The feature check passes where the chosen features are offered and the first is among them (R332, R417). -/
theorem deviceEnable_accepted {s : State} (h : s.bar.enabled = false) (ho : ∀ k, 14 ≤ k → s.bar.featEn.getLsbD k = false)
    (h0 : s.bar.featEn.getLsbD 0 = true) :
    exec .deviceEnable s = .next { s with bar := { s.bar with enabled := true, ready := !s.bar.refused, featErr := false } } := by
  have hc : s.bar.featEn &&& ~~~ Config.featCap = 0 ∧ s.bar.featEn.toNat % 2 = 1 :=
    ⟨(featEn_offered_iff _).mpr ho, by simpa using (getLsbD_eq_true_iff _ _).mp h0⟩
  show execDeviceEnable s = _
  simp only [execDeviceEnable, h, hc, Bool.false_eq_true, and_self, if_true, if_false]

/-- The feature check fails where a chosen feature is not offered or the first is not chosen (R332). -/
theorem deviceEnable_rejected {s : State} (h : s.bar.enabled = false)
    (hb : s.bar.featEn.getLsbD 0 = false ∨ ∃ k, 14 ≤ k ∧ s.bar.featEn.getLsbD k = true) :
    exec .deviceEnable s = .next { s with bar := { s.bar with featErr := true } } := by
  have hc : ¬ (s.bar.featEn &&& ~~~ Config.featCap = 0 ∧ s.bar.featEn.toNat % 2 = 1) := by
    rintro ⟨ho, h0⟩
    have hf : s.bar.featEn.getLsbD 0 = true := (getLsbD_eq_true_iff _ _).mpr (by simpa using h0)
    rcases hb with h1 | ⟨k, hk, h1⟩
    · exact Bool.false_ne_true (h1.symm.trans hf)
    · exact Bool.false_ne_true (((featEn_offered_iff _).mp ho k hk).symm.trans h1)
  show execDeviceEnable s = _
  simp only [execDeviceEnable, h, hc, Bool.false_eq_true, if_false]

/-- A feature word written before the device is enabled replaces its 64 features (R332). -/
theorem registerWrite_feature {s : State} (value : BitVec 64) {k : Nat} (hk : k < 4) (h : s.bar.enabled = false) :
    ∃ u, exec (.registerWrite (0x20 + 8 * k) value) s = .next u ∧ ∀ n < 256, u.bar.featEn.getLsbD n =
      if n / 64 = k then value.getLsbD (n % 64) else s.bar.featEn.getLsbD n := by
  have hoff : 0x20 ≤ 0x20 + 8 * k ∧ 0x20 + 8 * k < 0x40 ∧ (0x20 + 8 * k) % 8 = 0 := by omega
  have hp : 8 * (0x20 + 8 * k - 0x20) = 64 * k := by omega
  have he : exec (.registerWrite (0x20 + 8 * k) value) s = .next { s with bar := { s.bar with featEn := (BitVec.ofNat 256
      (s.bar.featEn.toNat - s.bar.featEn.toNat / 2 ^ (64 * k) % 2 ^ 64 * 2 ^ (64 * k) + value.toNat * 2 ^ (64 * k))) } } := by
    show execRegisterWrite (0x20 + 8 * k) value s = _
    simp only [execRegisterWrite, hoff, h, and_self, if_true, Bool.false_eq_true, if_false, hp]
  refine ⟨_, he, fun n hn => ?_⟩
  simp only [BitVec.getLsbD_ofNat, hn, decide_true, Bool.true_and, testBit_replace_word _ _ value.isLt, BitVec.testBit_toNat]
  by_cases hw : n / 64 = k
  · have h1 : 64 * k ≤ n ∧ n < 64 * k + 64 := by omega
    have h2 : n - 64 * k = n % 64 := by omega
    simp only [hw, h1, h2, and_self, if_true]
  · have h1 : ¬ (64 * k ≤ n ∧ n < 64 * k + 64) := by omega
    simp only [hw, h1, if_false]

/-- A bit of what the queue table's register keeps of a value (R330). -/
theorem testBit_queueTable (v : Nat) {n : Nat} (hn : n < 64) :
    (fld v 52 12 * 2 ^ 52 + fld v 6 42 * 64).testBit n = (v.testBit n && ((6 ≤ n && n < 48) || 52 ≤ n)) := by
  have hmid : fld v 6 42 < 2 ^ 42 := Nat.mod_lt _ (Nat.two_pow_pos 42)
  have hlow : 2 ^ 6 * fld v 6 42 + 0 < 2 ^ 52 := by omega
  have hsplit : fld v 52 12 * 2 ^ 52 + fld v 6 42 * 64 = 2 ^ 52 * fld v 52 12 + (2 ^ 6 * fld v 6 42 + 0) := by omega
  rw [hsplit, Nat.testBit_two_pow_mul_add _ hlow, Nat.testBit_two_pow_mul_add _ (Nat.two_pow_pos 6)]
  by_cases h6 : n < 6
  · simp [h6, Nat.not_le.mpr h6, show n < 52 by omega, show ¬ 52 ≤ n by omega]
  · by_cases h52 : n < 52
    · have h1 : 6 + (n - 6) = n := by omega
      have h2 : n - 6 < 42 ↔ n < 48 := by omega
      simp [h52, h6, testBit_fld, h1, h2, Nat.not_le.mpr h52, Nat.not_lt.mp h6, Bool.and_comm]
    · have h1 : 52 + (n - 52) = n := by omega
      have h2 : n - 52 < 12 := by omega
      simp [h52, testBit_fld, h1, h2, Nat.not_lt.mp h52]

/-- The queue table's register holds its address and its count (R330). -/
theorem registerWrite_queueTable (s : State) (value : BitVec 64) :
    ∃ u, exec (.registerWrite 0x50 value) s = .next u ∧ ∀ n < 64, u.bar.qtab.getLsbD n =
      (value.getLsbD n && ((6 ≤ n && n < 48) || 52 ≤ n)) := by
  have he : exec (.registerWrite 0x50 value) s = .next { s with bar := { s.bar with qtab := (BitVec.ofNat 64
      (fld value.toNat 52 12 * 2 ^ 52 + fld value.toNat 6 42 * 64)) } } := by
    show execRegisterWrite 0x50 value s = _
    simp [execRegisterWrite]
  refine ⟨_, he, fun n hn => ?_⟩
  simp only [BitVec.getLsbD_ofNat, hn, decide_true, Bool.true_and, testBit_queueTable _ hn, BitVec.testBit_toNat]

/-- A one clears a lost trigger (R330, R351). -/
theorem registerWrite_lostTriggers (s : State) (value : BitVec 64) :
    ∃ u, exec (.registerWrite 0x60 value) s = .next u ∧ ∀ n < 16, u.bar.lostTriggers.getLsbD n =
      (s.bar.lostTriggers.getLsbD n && !value.getLsbD (32 + n)) := by
  have he : exec (.registerWrite 0x60 value) s = .next { s with bar := { s.bar with lostTriggers := (s.bar.lostTriggers
      &&& ~~~ (BitVec.ofNat 16 (value.toNat / 2 ^ 32))) } } := by
    show execRegisterWrite 0x60 value s = _
    simp [execRegisterWrite]
  refine ⟨_, he, fun n hn => ?_⟩
  simp only [BitVec.getLsbD_and, BitVec.getLsbD_not, BitVec.getLsbD_ofNat, Nat.testBit_div_two_pow, hn, decide_true,
    Bool.true_and, BitVec.testBit_toNat, Nat.add_comm]

/-- A trigger register is a trigger (R351). -/
theorem registerWrite_trigger (s : State) (value : BitVec 64) {k : Nat} (hk : k < 16) :
    exec (.registerWrite (0x100 + 8 * k) value) s = exec (.triggerWrite k value) s := by
  have hk' : (0x100 + 8 * k - 0x100) / 8 = k := by omega
  show execRegisterWrite (0x100 + 8 * k) value s = execTriggerWrite k value s
  unfold execRegisterWrite
  rw [if_neg (by omega), if_neg (by omega), if_neg (by omega), if_neg (by omega), if_neg (by omega), if_neg (by omega),
    if_pos (by omega), hk']

/-! ### Host memory accesses -/

/-- A host write leaves its bytes at their home (R356). -/
theorem hostMemoryWrite_bytes (s : State) {a : Nat} {bs : List Byte} (h : a + bs.length ≤ 2 ^ 39)
    (hc : s.cellsIn a bs.length = []) : ∃ u, exec (.hostMemoryWrite a bs) s = .next u
      ∧ ∀ i, u.rawByte i = if a ≤ i ∧ i < a + bs.length then bs.getD (i - a) 0 else s.rawByte i := by
  refine ⟨(((s.recallLines a bs.length).homeStore a bs true).loseStacks a bs.length), ?_, fun i => ?_⟩
  · show execHostMemoryWrite a bs s = _
    have hc' := (s.recallLines_cellsIn a bs.length a bs.length).trans hc
    simp only [execHostMemoryWrite, Nat.not_lt.mpr h, if_false, State.outsideStore_of_no_cells true hc']
  · rw [State.rawByte_congr (State.loseStacks_mem _ _ _) (State.loseStacks_writes _ _ _),
      State.rawByte_homeStore _ _ h, State.recallLines_rawByte]

/-- A host read gives the bytes at their home (R356). -/
theorem hostMemoryRead_bytes (s : State) {a n : Nat} (h : a + n ≤ 2 ^ 39) (hq : s.quiet a n)
    (hk : ∀ i < n, s.isStack (a + i) = false) : ∃ u, exec (.hostMemoryRead a n) s = .next u ∧ u.mem = s.mem
      ∧ u.writes = s.writes ∧ u.hostReads = (List.range n).map (fun i => s.rawByte (a + i)) := by
  obtain ⟨hsettled, hclean⟩ := hq
  have he : exec (.hostMemoryRead a n) s = execHostMemoryRead a n s := rfl
  rw [he]
  simp only [execHostMemoryRead, Nat.not_lt.mpr h, if_false]
  refine ⟨_, rfl, rfl, rfl, List.map_congr_left fun i hi => ?_⟩
  have hi' : i < n := List.mem_range.mp hi
  simp only [State.recallLines_poisoned, State.poisoned_byte hclean hi', State.recallLines_isStack, hk i hi', Bool.or_self,
    Bool.false_eq_true, if_false, State.recallLines_homeByte]
  exact State.homeByte_of_settled (hsettled i hi') (by unfold hbmBytes; omega)

/-! ### Resets -/

/-- A die after a reset, which is no cold one, keeps its trail (R415). -/
def Die.keptTrail (d : Die) (cold : Bool) : Die :=
  if cold then Die.reset else { Die.reset with trail := d.trail, trailCount := d.trailCount }

/-- What a reset leaves before its record is in the trail, where the image as delivered goes on running and no stack restripes. -/
def State.resetTo (s : State) (cold : Bool) : State :=
  { State.reset with agenda := s.agenda, sched := s.sched, free := s.free, nextUid := s.nextUid, mem := s.mem,
                     writes := [.clear], flash := s.flash, dies := (List.range 4).map (fun d => (d, (s.die d).keptTrail cold)),
                     netin := { Netin.reset with nextSeq := if cold then [] else s.netin.nextSeq },
                     boot := if cold then 0 else s.boot + 1 }

section
variable {s : State} (hp : s.flash.pendingImage = none) (hr : s.restripes = []) (hi : s.flash.image = (0, 0))
include hp hr hi

/-- A reset with the image as delivered and no stack that restripes (R415). -/
theorem State.afterReset_eq (cold : Bool) :
    s.afterReset cold = if cold then s.resetTo cold else (s.resetTo cold).trail 0 0 0x3f 0x0c 0 0 none := by
  have hf : ({ s.flash with image := (0, 0), pendingImage := none } : Flash) = s.flash := by
    rw [← hp, ← hi]
  unfold State.afterReset
  simp only [hp, hr, hi, Option.getD_none, if_true, decide_true, Bool.true_or, List.foldl_nil, Option.isSome_none,
    Bool.false_and, Bool.false_eq_true, if_false, Nat.max_zero, Bool.not_true, hf]
  rfl

/-- A cold reset has no record in the trail. -/
theorem State.afterReset_cold : s.afterReset true = s.resetTo true := State.afterReset_eq hp hr hi true

/-- Another reset has one: kind 0x0c (R416). -/
theorem State.afterReset_warm : s.afterReset false = (s.resetTo false).trail 0 0 0x3f 0x0c 0 0 none :=
  State.afterReset_eq hp hr hi false

end

/-- A die after a reset. -/
theorem State.die_resetTo (s : State) (cold : Bool) {d : Nat} (hd : d < 4) : (s.resetTo cold).die d = (s.die d).keptTrail cold := by
  match d, hd with
  | 0, _ => rfl
  | 1, _ => rfl
  | 2, _ => rfl
  | 3, _ => rfl

/-- What every reset leaves: memory zero, nothing running, the registers at their reset values, the health of the arrays (R415). -/
structure State.Restarted (s u : State) : Prop where
  bytes : ∀ a, u.rawByte a = 0
  poison : u.poison = []
  blocks : u.blocks = []
  caravans : u.caravans = []
  cores : u.cores = []
  contexts : u.contexts = []
  graphs : u.graphs = []
  saved : u.saved = []
  bar : u.bar = Bar.reset
  health : u.flash.health = s.flash.health
  dies : ∀ d < 4, (u.die d).cyc = 0 ∧ (u.die d).timers = []

/-- A reset leaves that before its record is in the trail. -/
theorem State.restarted_resetTo (s : State) (cold : Bool) : s.Restarted (s.resetTo cold) := by
  refine ⟨fun a => rfl, rfl, rfl, rfl, rfl, rfl, rfl, rfl, rfl, rfl, fun d hd => ?_⟩
  rw [State.die_resetTo s cold hd]
  cases cold <;> exact ⟨rfl, rfl⟩

/-- A record of an event of a die changes none of that. -/
theorem State.Restarted.trail {s u : State} (h : s.Restarted u) (die ctx kind code detail : Nat) :
    s.Restarted (u.trail die ctx 0x3f kind code detail none) := by
  obtain ⟨hbytes, hpoison, hblocks, hcar, hcores, hctx, hgraphs, hsaved, hbar, hhealth, hdies⟩ := h
  refine ⟨hbytes, hpoison, hblocks, hcar, hcores, hctx, hgraphs, hsaved, hbar, hhealth, fun d hd => ?_⟩
  obtain ⟨hcyc, htimers⟩ := u.die_trail_frame die ctx kind code detail d
  rw [hcyc, htimers]
  exact hdies d hd

/-- The resets: a cold one, and those that are a warm reset (R330, R415). -/
theorem exec_reset {i : Instr} {value : BitVec 64}
    (hi : i ∈ [Instr.warmReset, .functionLevelReset, .coldReset, .registerWrite 0x40 value])
    (hv : i = .registerWrite 0x40 value → value.getLsbD 1 = true) (s : State) :
    (i = .coldReset ∧ exec i s = .next (s.afterReset true)) ∨ (i ≠ .coldReset ∧ exec i s = .next (s.afterReset false)) := by
  simp only [List.mem_cons, List.not_mem_nil, or_false] at hi
  rcases hi with rfl | rfl | rfl | rfl
  · exact .inr ⟨by simp, rfl⟩
  · exact .inr ⟨by simp, rfl⟩
  · exact .inl ⟨rfl, rfl⟩
  · exact .inr ⟨by simp, registerWrite_reset s (hv rfl)⟩

/-- The record of a warm reset is the next in the trail of die (0, 0), and the other trails stay (R415, R416). -/
theorem State.trails_of_warm_reset (s : State) : let u := (s.resetTo false).trail 0 0 0x3f 0x0c 0 0 none
    s.trailed u 0 0x0c 0 ∧ ∀ d < 4, d ≠ 0 → (u.die d).trail = (s.die d).trail ∧ (u.die d).trailCount = (s.die d).trailCount := by
  refine ⟨(s.resetTo false).trailed_trail 0 0 0 (by decide) (by decide), fun d hd h0 => ?_⟩
  rw [State.die_trail_ne _ _ _ _ _ _ _ h0, State.die_resetTo s false hd]
  exact ⟨rfl, rfl⟩

/-! ### The statements -/

/-- R9, R330, R332, R334, R351, R356, R366, R415: what the host does. -/
theorem hostEvents : Claims.HostEvents := by
  refine ⟨?doorbell, ?power, ?enable, ?registers, ?write, ?read, ?resets⟩
  case doorbell =>
    intro s value q run i hi
    have he : exec i s = exec (.doorbell value) s := by
      simp only [List.mem_cons, List.not_mem_nil, or_false] at hi
      rcases hi with rfl | rfl
      · rfl
      · exact registerWrite_doorbell value s
    rw [he, exec_doorbell]
    exact ⟨fun h => by rw [if_pos h], fun h => by rw [if_neg (Bool.eq_false_iff.mp h)]⟩
  case power =>
    intro s value v i hi
    simp only [List.mem_cons, List.not_mem_nil, or_false] at hi
    rcases hi with rfl | rfl
    · exact exec_pwrSetWrite value s
    · exact (registerWrite_pwrSet value s).trans (exec_pwrSetWrite value s)
  case enable =>
    intro s value i hi hv
    have he : exec i s = exec .deviceEnable s := by
      simp only [List.mem_cons, List.not_mem_nil, or_false] at hi
      rcases hi with rfl | rfl
      · rfl
      · obtain ⟨hr, h1⟩ := hv.resolve_left (by simp)
        exact registerWrite_enable s hr h1
    rw [he]
    exact ⟨deviceEnable_enabled, deviceEnable_accepted, deviceEnable_rejected⟩
  case registers =>
    exact fun s value => ⟨fun k hk h => registerWrite_feature value hk h, registerWrite_queueTable s value,
      registerWrite_lostTriggers s value, fun k hk => registerWrite_trigger s value hk⟩
  case write => exact fun s a bs h hc => hostMemoryWrite_bytes s h hc
  case read => exact fun s a n h hq hk => hostMemoryRead_bytes s h hq hk
  case resets =>
    intro s value hp hr hi i hmem hv
    rcases exec_reset hmem hv s with ⟨hc, he⟩ | ⟨hc, he⟩
    · rw [State.afterReset_cold hp hr hi] at he
      obtain ⟨hbytes, hpoison, hblocks, hcar, hcores, hctx, hgraphs, hsaved, hbar, hhealth, hdies⟩ := s.restarted_resetTo true
      exact ⟨_, he, hbytes, hpoison, hblocks, hcar, hcores, hctx, hgraphs, hsaved, congrArg Bar.enabled hbar,
        congrArg Bar.ready hbar, congrArg Bar.pwrSet hbar, hhealth, hdies,
        fun _ d hd => congrArg Die.trailCount (s.die_resetTo true hd), fun h => absurd hc h⟩
    · rw [State.afterReset_warm hp hr hi] at he
      obtain ⟨hbytes, hpoison, hblocks, hcar, hcores, hctx, hgraphs, hsaved, hbar, hhealth, hdies⟩ :=
        (s.restarted_resetTo false).trail 0 0 0x0c 0 0
      exact ⟨_, he, hbytes, hpoison, hblocks, hcar, hcores, hctx, hgraphs, hsaved, congrArg Bar.enabled hbar,
        congrArg Bar.ready hbar, congrArg Bar.pwrSet hbar, hhealth, hdies, fun h => absurd h hc, fun _ => s.trails_of_warm_reset⟩

/-- A request for measurements is answered (R418). -/
theorem exec_spdmGetMeasurements (s : State) (index : Nat) (signed : Bool) :
    ∃ data, exec (.spdmGetMeasurements index signed) s = .next (s.identify 0xe0 data) := ⟨_, rfl⟩

/-- R418: each request of the identity protocol is answered. -/
theorem identityEvents : Claims.IdentityEvents := by
  intro s slot offset count nonce index signed gives object
  obtain ⟨data, hdata⟩ := exec_spdmGetMeasurements s index signed
  refine ⟨rfl, rfl, rfl, rfl, rfl, rfl, rfl, fun u hu => ?_, data, hdata⟩
  rw [hdata, Host.Outcome.next.injEq] at hu
  rw [← hu]
  rfl

/-- Settles O56: the events of the host (R9, R330, R332, R334, R351, R356, R366, R415) and of the identity protocol (R418). -/
theorem hostAndIdentity : Obligations.HostAndIdentity := ⟨hostEvents, identityEvents⟩

end Sys2Proof.Machine
end

section
/-!
The rounding mode, the saturation, the formats' fields and `fpm`.ftz of a lane word, read from its fields (R47, R69).
-/

namespace Sys2Proof

/-- A bit of a word as a condition on its number. -/
theorem decide_bit {w : Nat} (v : BitVec w) (k : Nat) : decide (v.toNat / 2 ^ k % 2 = 1) = v.getLsbD k := by
  rw [Bool.eq_iff_iff, decide_eq_true_iff, Machine.getLsbD_eq_true_iff]

/-- The saturation of a lane word is the lowest bit of `mod` (R69). -/
theorem LaneFields.sat_eq (f : LaneFields) : f.sat = f.mod.getLsbD 0 := by
  rw [← decide_bit, Nat.pow_zero, Nat.div_one, LaneFields.sat]

/-- A bit of `imm`. -/
theorem LaneFields.immBit_eq (f : LaneFields) (k : Nat) : f.immBit k = f.imm.getLsbD k := decide_bit f.imm k

/-- The low field of `imm`. -/
theorem LaneFields.immField_zero (f : LaneFields) (n : Nat) : f.immField 0 n = f.imm.toNat % 2 ^ n := by
  rw [LaneFields.immField, Nat.pow_zero, Nat.div_one]

namespace Machine

/-- `fpm`.ftz is bit 2 (R47). -/
theorem Lane.ftz_eq (x : Lane) : x.ftz = x.m.car.fpm.getLsbD 2 := decide_bit x.m.car.fpm 2

/-- A lane word rounds by its suffix, or by `fpm`.rm where it has none (R69). -/
theorem Lane.rounding_eq (x : Lane) : x.rounding = Rounding.ofCode
    (if 4 ≤ x.f.mod.toNat / 2 % 8 then x.f.mod.toNat / 2 % 4 else x.m.car.fpm.toNat % 4) := by
  have h : x.f.mod.toNat / 2 % 8 % 4 = x.f.mod.toNat / 2 % 4 := by omega
  simp only [Lane.rounding, wordRounding, LaneFields.rnd, fpmRounding, h, ge_iff_le]
  split <;> rfl

/-- Flags that no lane raises join to none. -/
theorem joinFlags_map_zero (ls : List Nat) : joinFlags (ls.map (fun _ => 0)) = 0 := by
  induction ls with
  | nil => rfl
  | cons l ls ih => simpa [joinFlags] using ih

/-- A bit of a word with a field replaced (R93, R126). -/
theorem getLsbD_insertField {n : Nat} (x f : BitVec n) (pos len : Nat) {i : Nat} (hi : i < n) :
    (insertField x f pos len).getLsbD i = if pos ≤ i ∧ i < pos + len then f.getLsbD (i - pos) else x.getLsbD i := by
  have hlen (hp : pos ≤ i) : i - pos < len ↔ i < pos + len := by omega
  simp only [insertField, BitVec.getLsbD_or, BitVec.getLsbD_and, BitVec.getLsbD_not, BitVec.getLsbD_ofNat, hi, decide_true,
    Bool.true_and, Nat.testBit_mul_two_pow, Nat.testBit_two_pow_sub_one, Nat.testBit_mod_two_pow, BitVec.testBit_toNat]
  by_cases hp : pos ≤ i
  · by_cases hl : i < pos + len <;> simp [hp, hl, hlen]
  · simp [hp]

end Machine
end Sys2Proof
end

section
/-!
The floating-point lane words (R127 to R131) and the conversions (R132 to R137) as words that run.
-/

namespace Sys2Proof.Machine

variable {s : State} {m : Me} {b : Burst} {i : Instr} {f : LaneFields}

/-- A word whose effect is its result alone gives that result. -/
theorem laneGives_of_pure {r : Lane → LaneOut} {o : LaneOut} (he : exec i s = lanePure i f r s)
    (ho : r (m.laneOf b i f) = o) : LaneGives s m b i f o := by
  intro h
  rw [he, lanePure_runs h, ho]

/-- A word that gives a code with flags in each active lane. -/
theorem laneCoded_of_pure {op v : Lane → Nat → Coded} (he : exec i s = lanePure i f (fun x => x.outCoded (op x)) s)
    (hv : op (m.laneOf b i f) = v (m.laneOf b i f)) : LaneCoded s m b i f v :=
  laneGives_of_pure he (by rw [hv]; rfl)

/-- A floating-point word gives its operation on the codes of its sources (R122, R127). -/
theorem laneFp_coded (m : Me) (b : Burst) {op : Bool → Rounding → Bool → Nat → Nat → Nat → Coded}
    (he : exec i s = laneFp i f op s) :
    LaneCoded s m b i f (fun x l => op (m.car.fpm.getLsbD 2)
      (Rounding.ofCode (if 4 ≤ f.mod.toNat / 2 % 8 then f.mod.toNat / 2 % 4 else m.car.fpm.toNat % 4))
      (f.mod.getLsbD 0) (x.num (x.a l)) (x.num (x.bsrc l)) (x.num (x.c l))) := by
  refine laneCoded_of_pure he ?_
  simp only [Lane.ftz_eq, Lane.rounding_eq, LaneFields.sat_eq]
  rfl

/-- A function word gives its function of the code of source a (R129). -/
theorem laneFunction_coded (m : Me) (b : Burst) {fn : LaneFunction} (he : exec i s = laneFunction i f fn s) :
    LaneCoded s m b i f (fun x l =>
      functionResult fn (f.mod.toNat / 16) (m.car.fpm.getLsbD 2) (f.mod.getLsbD 0) (x.num (x.a l))) :=
  laneFp_coded m b (op := fun ftz _ sat a _ _ => functionResult fn f.fmt ftz sat a) he

/-- `vfclass` raises no flag (R131). -/
theorem vfclass_coded : LaneCoded s m b (.vfclass f) f (fun x l => (fpClass (f.mod.toNat / 16) (x.num (x.a l)), 0)) :=
  laneGives_of_pure (show exec (.vfclass f) s = execVfclass f s from rfl) (by rw [joinFlags_map_zero]; rfl)

/-- R127 to R131: the floating-point words give the codes and flags of their operations. -/
theorem laneFloatWords : Claims.LaneFloats := by
  intro s m b f fpm ftz rm sat fmt gives
  refine ⟨(laneFp_coded m b (show exec (.vfadd f) s = execVfadd f s from rfl) :),
    (laneFp_coded m b (show exec (.vfsub f) s = execVfsub f s from rfl) :),
    (laneFp_coded m b (show exec (.vfmul f) s = execVfmul f s from rfl) :),
    (laneFp_coded m b (show exec (.vfma f) s = execVfma f s from rfl) :),
    (laneFp_coded m b (show exec (.vfmin f) s = execVfmin f s from rfl) :),
    (laneFp_coded m b (show exec (.vfmax f) s = execVfmax f s from rfl) :),
    vfclass_coded,
    (laneFunction_coded m b (show exec (.vrcp f) s = execVrcp f s from rfl) :),
    (laneFunction_coded m b (show exec (.vrsqrt f) s = execVrsqrt f s from rfl) :),
    (laneFunction_coded m b (show exec (.vexp2 f) s = execVexp2 f s from rfl) :),
    (laneFunction_coded m b (show exec (.vlog2 f) s = execVlog2 f s from rfl) :),
    (laneFunction_coded m b (show exec (.vtanh f) s = execVtanh f s from rfl) :),
    ?compare⟩
  case compare =>
    refine laneGives_of_pure (show exec (.vfcmp f) s = execVfcmp f s from rfl) ?_
    simp only [Lane.ftz_eq, LaneFields.immField_zero]
    rfl

/-- `vcvt` gives a result of its format's width (R132). -/
theorem vcvt_gives : (let x := m.laneOf b (.vcvt f) f
    let r (l : Nat) := convert (f.imm.toNat % 16) (f.mod.toNat / 16) (f.imm.getLsbD 4) (m.car.fpm.getLsbD 2)
      (Rounding.ofCode (if 4 ≤ f.mod.toNat / 2 % 8 then f.mod.toNat / 2 % 4 else m.car.fpm.toNat % 4))
      (f.mod.getLsbD 0) (x.a l)
    let flags := joinFlags ((lanesOf x.active).map (fun l => (r l).2))
    LaneGives s m b (.vcvt f) f (if f.mod.toNat / 16 = 10
      then { res := .pairs x.active ((List.range 32).map (fun l => (r l).1)), flags := flags }
      else { res := .lanes x.active ((List.range 32).map (fun l => BitVec.ofNat 32 (r l).1)), flags := flags })) := by
  refine laneGives_of_pure (show exec (.vcvt f) s = execVcvt f s from rfl) ?_
  have hw : wideDest (.vcvt f) f = decide (f.mod.toNat / 16 = 10) := by simp [wideDest, laneUse, LaneFields.fmt]
  simp only [Lane.ftz_eq, Lane.rounding_eq, LaneFields.sat_eq, LaneFields.immBit_eq, LaneFields.immField_zero, Lane.outWide]
  simp only [Me.laneOf, hw, decide_eq_true_eq]
  split <;> rfl

/-- The elements of `vpack` (R133): source a's and source b's codes stand in two neighbouring places of a copy of c. -/
def packed (f : LaneFields) (ftz : Bool) (rm : Rounding) (sat : Bool) (x : Lane) (l : Nat) : Coded :=
  let w := formatBits f.fmt
  let sel := f.imm.toNat % 8
  let p := packElement f.fmt (f.imm.getLsbD 3) ftz rm sat (x.a l)
  let q := packElement f.fmt (f.imm.getLsbD 3) ftz rm sat (x.bsrc l)
  ((insertField (insertField (BitVec.ofNat 32 (x.c l)) (BitVec.ofNat 32 p.1) (w * sel) w) (BitVec.ofNat 32 q.1)
    (w * (sel + 1)) w).toNat, p.2 ||| q.2)

/-- A bit of what `vpack` gives. -/
theorem testBit_packed (f : LaneFields) (ftz : Bool) (rm : Rounding) (sat : Bool) (x : Lane) (l : Nat) {i : Nat} (hi : i < 32) :
    let w := formatBits f.fmt
    let sel := f.imm.toNat % 8
    (packed f ftz rm sat x l).1.testBit i =
      if w * (sel + 1) ≤ i ∧ i < w * (sel + 2) then
        (packElement f.fmt (f.imm.getLsbD 3) ftz rm sat (x.bsrc l)).1.testBit (i - w * (sel + 1))
      else if w * sel ≤ i ∧ i < w * (sel + 1) then
        (packElement f.fmt (f.imm.getLsbD 3) ftz rm sat (x.a l)).1.testBit (i - w * sel)
      else (x.c l).testBit i := by
  intro w sel
  have h (k : Nat) : i - k < 32 := by omega
  simp only [packed, BitVec.testBit_toNat, getLsbD_insertField _ _ _ _ hi, ← Nat.mul_succ, BitVec.getLsbD_ofNat, hi, h,
    decide_true, Bool.true_and]
  rfl

/-- `vpack` gives its two elements in a copy of c (R133). -/
theorem vpack_coded : LaneCoded s m b (.vpack f) f (packed f (m.car.fpm.getLsbD 2)
    (Rounding.ofCode (if 4 ≤ f.mod.toNat / 2 % 8 then f.mod.toNat / 2 % 4 else m.car.fpm.toNat % 4)) (f.mod.getLsbD 0)) := by
  refine laneCoded_of_pure (show exec (.vpack f) s = execVpack f s from rfl) ?_
  simp only [Lane.ftz_eq, Lane.rounding_eq, LaneFields.sat_eq, LaneFields.immBit_eq, LaneFields.immField_zero]
  rfl

/-- R132 to R137: the conversions. -/
theorem laneConversionWords : Claims.LaneConversions := by
  intro s m b f ftz rm sat fmt w sel
  refine ⟨vcvt_gives, ⟨_, vpack_coded, fun x l => ⟨rfl, fun i hi => testBit_packed f ftz rm sat x l hi⟩⟩, ?unpack, ?block,
    ?dequantise, ?sp8⟩
  case unpack =>
    refine laneCoded_of_pure (show exec (.vunpack f) s = execVunpack f s from rfl) ?_
    simp only [LaneFields.immBit_eq, LaneFields.immField_zero]
    rfl
  case block =>
    refine laneGives_of_pure (show exec (.vmxq f) s = execVmxq f s from rfl) ?_
    simp only [Lane.ftz_eq, Lane.rounding_eq, signalFlag, List.any_map]
    rfl
  case dequantise =>
    refine laneCoded_of_pure (show exec (.vmxdq f) s = execVmxdq f s from rfl) ?_
    simp only [Lane.ftz_eq, Lane.rounding_eq, LaneFields.sat_eq]
    rfl
  case sp8 =>
    refine laneCoded_of_pure (show exec (.vspq f) s = execVspq f s from rfl) ?_
    simp only [Lane.ftz_eq]
    rfl

/-- Settles O29: the floating-point lane words and the conversions. -/
theorem laneFloats : Obligations.LaneFloats := ⟨laneFloatWords, laneConversionWords⟩

end Sys2Proof.Machine
end

section
/-!
The fields of a floating-point code (R13, R14), and the rounding of a value that a format holds exactly (R21).
-/

namespace Sys2Proof.Machine

/-- The magnitude of a code is its exponent field and its fraction field. -/
theorem magnitude_eq (f : Format) (x : Nat) :
    x % 2 ^ (f.exp + f.man) = x / 2 ^ f.man % 2 ^ f.exp * 2 ^ f.man + x % 2 ^ f.man := by
  rw [Nat.add_comm f.exp, Nat.pow_add, Nat.mod_mul, Nat.mul_comm, Nat.add_comm]

/-- A code is its magnitude with its sign. -/
theorem withSign_signOf (f : Format) {x : Nat} (hx : x < 2 ^ (1 + (f.exp + f.man))) :
    withSign f (signOf f x) (x % 2 ^ (f.exp + f.man)) = x := by
  have hq : x / 2 ^ (f.exp + f.man) < 2 := by
    rw [Nat.div_lt_iff_lt_mul (Nat.two_pow_pos _), ← Nat.pow_succ', Nat.succ_eq_one_add]
    exact hx
  have hd := Nat.div_add_mod x (2 ^ (f.exp + f.man))
  unfold withSign signOf
  rw [Nat.mod_eq_of_lt hq]
  rcases Nat.le_one_iff_eq_zero_or_eq_one.mp (Nat.lt_succ_iff.mp hq) with h | h <;> rw [h] at hd ⊢ <;>
    simpa using hd

/-- A code that stands for a number has a magnitude up to the largest finite one. -/
theorem magnitude_le_maxFinite {f : Format} {x : Nat} (hn : decode f x ≠ .nan) (hi : ∀ n, decode f x ≠ .inf n) :
    x % 2 ^ (f.exp + f.man) ≤ maxFinite f := by
  have hlt : x % 2 ^ (f.exp + f.man) < 2 ^ (f.exp + f.man) := Nat.mod_lt _ (Nat.two_pow_pos _)
  have hman : x % 2 ^ f.man < 2 ^ f.man := Nat.mod_lt _ (Nat.two_pow_pos _)
  have hexp : x / 2 ^ f.man % 2 ^ f.exp < 2 ^ f.exp := Nat.mod_lt _ (Nat.two_pow_pos _)
  unfold maxFinite
  by_cases hinf : f.inf = true
  · have htop : x / 2 ^ f.man % 2 ^ f.exp ≠ 2 ^ f.exp - 1 := by
      intro h
      by_cases hm : x % 2 ^ f.man = 0
      · exact hi (signOf f x) (by simp [decode, hinf, h, hm])
      · exact hn (by simp [decode, hinf, h, hm])
    have hle := Nat.mul_le_mul_right (2 ^ f.man) (show x / 2 ^ f.man % 2 ^ f.exp + 1 ≤ 2 ^ f.exp - 1 by omega)
    rw [Nat.succ_mul] at hle
    rw [if_pos hinf, magnitude_eq]
    omega
  · rw [if_neg hinf]
    by_cases hnan : f.nan = true
    · have hall : x % 2 ^ (f.exp + f.man) ≠ 2 ^ (f.exp + f.man) - 1 := fun h => hn (by simp [decode, hinf, hnan, h])
      rw [if_pos hnan]
      omega
    · rw [if_neg hnan]
      omega

/-- The value of a code that stands for a number, by its fields (R14). -/
theorem decode_number {f : Format} {x : Nat} (hn : decode f x ≠ .nan) (hi : ∀ n, decode f x ≠ .inf n) :
    decode f x = if x / 2 ^ f.man % 2 ^ f.exp = 0
      then (if x % 2 ^ f.man = 0 then .zero (signOf f x) else .fin (signOf f x) (x % 2 ^ f.man) (1 - f.bias - f.man))
      else .fin (signOf f x) (2 ^ f.man + x % 2 ^ f.man) ((x / 2 ^ f.man % 2 ^ f.exp : Nat) - f.bias - f.man) := by
  revert hn hi
  unfold decode
  simp only
  split
  · split
    · exact fun _ hi => absurd rfl (hi _)
    · exact fun hn _ => absurd rfl hn
  · split
    · exact fun hn _ => absurd rfl hn
    · exact fun _ _ => rfl

/-- A value on a format's grid, up to the largest finite one, rounds to its code without a flag (R21). -/
theorem roundFinite_exact {f : Format} {m : Nat} {e : Int} (rm : Rounding) (sat neg : Bool)
    (hq : max (e + bitLength m - 1) (1 - f.bias) - f.man = e)
    (hmax : (e - (1 - f.bias - f.man)).toNat * 2 ^ f.man + m ≤ maxFinite f) :
    roundFinite f rm sat neg m e = (withSign f neg ((e - (1 - f.bias - f.man)).toNat * 2 ^ f.man + m), 0) := by
  have hs : roundShift neg rm m (e - e) = (m, false) := by simp [roundShift]
  simp only [roundFinite, hq, hs, Nat.not_lt.mpr hmax, if_false, Bool.false_eq_true]

/-- The number of bits of a fraction field is at most its width. -/
theorem bitLength_le {n k : Nat} (h : n < 2 ^ k) : bitLength n ≤ k := by
  unfold bitLength
  split
  · exact Nat.zero_le k
  · next h0 => exact (Nat.log2_lt h0).mpr h

/-- The number of bits of a fraction field under the leading one. -/
theorem bitLength_leading {n k : Nat} (h : n < 2 ^ k) : bitLength (2 ^ k + n) = k + 1 := by
  have h0 : 2 ^ k + n ≠ 0 := by have := Nat.two_pow_pos k; omega
  have hl : Nat.log2 (2 ^ k + n) = k := (Nat.log2_eq_iff h0).mpr ⟨by omega, by rw [Nat.pow_succ]; omega⟩
  rw [bitLength, if_neg h0, hl]

/-- A code that stands for a number is its own rounding, in every mode and without a flag (R21). -/
theorem roundValue_decode {f : Format} {x : Nat} (rm : Rounding) (sat : Bool) (hx : x < 2 ^ (1 + (f.exp + f.man)))
    (hn : decode f x ≠ .nan) (hi : ∀ n, decode f x ≠ .inf n) : roundValue f rm sat (decode f x) = (x, 0) := by
  have hmax := magnitude_le_maxFinite hn hi
  have hman : x % 2 ^ f.man < 2 ^ f.man := Nat.mod_lt _ (Nat.two_pow_pos _)
  have hcode := withSign_signOf f hx
  rw [magnitude_eq] at hmax hcode
  rw [decode_number hn hi]
  by_cases hE : x / 2 ^ f.man % 2 ^ f.exp = 0
  · rw [hE, Nat.zero_mul, Nat.zero_add] at hmax hcode
    rw [if_pos hE]
    by_cases hM : x % 2 ^ f.man = 0
    · rw [hM] at hcode
      rw [if_pos hM, roundValue, hcode]
    · have hb := bitLength_le hman
      have hz : ((1 - f.bias - f.man : Int) - (1 - f.bias - f.man)).toNat * 2 ^ f.man + x % 2 ^ f.man = x % 2 ^ f.man := by
        simp
      rw [if_neg hM, roundValue, roundFinite_exact rm sat _ (by omega) (by rw [hz]; exact hmax), hz, hcode]
  · have hb := bitLength_leading hman
    have hz : ((x / 2 ^ f.man % 2 ^ f.exp : Nat) - f.bias - f.man - (1 - f.bias - f.man) : Int).toNat * 2 ^ f.man +
        (2 ^ f.man + x % 2 ^ f.man) = x / 2 ^ f.man % 2 ^ f.exp * 2 ^ f.man + x % 2 ^ f.man := by
      rw [← Nat.add_assoc, ← Nat.succ_mul]
      congr 2
      omega
    rw [if_neg hE, roundValue, roundFinite_exact rm sat _ (by rw [hb]; omega) (by rw [hz]; exact hmax), hz, hcode]

end Sys2Proof.Machine
end

section
/-!
Operations on codes whose operands are special (R22, R23, R127, R130, R131).
-/

namespace Sys2Proof.Machine

/-- A format of R13 has an exponent field, and its codes have a sign, an exponent and a fraction. -/
theorem formatOf_bits {fmt : Nat} (h : fmt ≤ 5) :
    0 < (formatOf fmt).exp ∧ formatBits fmt = 1 + ((formatOf fmt).exp + (formatOf fmt).man) := by
  have hall : ∀ n < 6, 0 < (formatOf n).exp ∧ formatBits n = 1 + ((formatOf n).exp + (formatOf n).man) := by decide
  exact hall fmt (by omega)

/-- Without `ftz` no operand is flushed (R22). -/
@[simp] theorem flushOperand_false (fmt x : Nat) : flushOperand false fmt x = x := by simp [flushOperand]

/-- A code that is no subnormal is not flushed (R22). -/
theorem flushOperand_of_not_subnormal (ftz : Bool) {fmt x : Nat} (h : isSubnormal (formatOf fmt) x = false) :
    flushOperand ftz fmt x = x := by simp [flushOperand, h]

/-- An infinity is no subnormal. -/
theorem not_subnormal_of_inf {f : Format} {x : Nat} {n : Bool} (hf : 0 < f.exp) (h : decode f x = .inf n) :
    isSubnormal f x = false := by
  have hp : 2 ≤ 2 ^ f.exp := Nat.pow_le_pow_right Nat.zero_lt_two hf
  by_cases he : x / 2 ^ f.man % 2 ^ f.exp = 0
  · have htop : ¬ (f.inf = true ∧ x / 2 ^ f.man % 2 ^ f.exp = 2 ^ f.exp - 1) := by omega
    rw [decode, if_neg htop, if_pos he] at h
    split at h
    · cases h
    · split at h <;> cases h
  · simp [isSubnormal, he]

/-- A zero is no subnormal. -/
theorem not_subnormal_of_zero {f : Format} {x : Nat} {n : Bool} (h : decode f x = .zero n) : isSubnormal f x = false := by
  have hv := decode_number (f := f) (x := x) (by simp [h]) (by simp [h])
  by_cases hm : x % 2 ^ f.man = 0
  · simp [isSubnormal, hm]
  · rw [h, if_neg hm] at hv
    split at hv <;> cases hv

/-- An operation with a NaN operand gives the first one, quietened (R23, R24). -/
theorem finish_of_nan {fmt x y : Nat} (ftz : Bool) (rm : Rounding) (sat : Bool) (v : Option Value)
    (h : decode (formatOf fmt) x = .nan ∨ decode (formatOf fmt) y = .nan) :
    finish fmt ftz rm sat [x, y] v = (quieten (formatOf fmt) (if decode (formatOf fmt) x = .nan then x else y),
      if isSignalling (formatOf fmt) x || isSignalling (formatOf fmt) y then flagNV else 0) := by
  have hf : firstNaN (formatOf fmt) [x, y] = some (quieten (formatOf fmt) (if decode (formatOf fmt) x = .nan then x else y)) := by
    by_cases hx : decode (formatOf fmt) x = .nan
    · simp [firstNaN, hx]
    · simp [firstNaN, hx, h.resolve_left hx]
  simp [finish, hf, signalFlag]

/-- An invalid operation gives the canonical NaN with NV (R21, R23, R127). -/
theorem finish_invalid {fmt x y : Nat} (ftz : Bool) (rm : Rounding) (sat : Bool)
    (hx : decode (formatOf fmt) x ≠ .nan) (hy : decode (formatOf fmt) y ≠ .nan) :
    finish fmt ftz rm sat [x, y] none = (canonicalNaN (formatOf fmt), flagNV) := by
  simp [finish, firstNaN, hx, hy]

/-- ∞ − ∞ gives the canonical NaN with NV (R23, R127). -/
theorem fpAdd_opposite_infinities {fmt x y : Nat} {n : Bool} (ftz : Bool) (rm : Rounding) (sat : Bool)
    (hf : 0 < (formatOf fmt).exp) (hx : decode (formatOf fmt) x = .inf n) (hy : decode (formatOf fmt) y = .inf (!n)) :
    fpAdd fmt ftz rm sat x y = (canonicalNaN (formatOf fmt), flagNV) := by
  have hv : addValues rm (.inf n) (.inf !n) = none := by simp [addValues]
  simp only [fpAdd, flushOperand_of_not_subnormal ftz (not_subnormal_of_inf hf hx),
    flushOperand_of_not_subnormal ftz (not_subnormal_of_inf hf hy), hx, hy, hv]
  exact finish_invalid ftz rm sat (by simp [hx]) (by simp [hy])

/-- 0 × ∞ gives the canonical NaN with NV (R23, R127). -/
theorem fpMul_infinity_zero {fmt x y : Nat} {n k : Bool} (ftz : Bool) (rm : Rounding) (sat : Bool)
    (hf : 0 < (formatOf fmt).exp) (hx : decode (formatOf fmt) x = .inf n) (hy : decode (formatOf fmt) y = .zero k) :
    fpMul fmt ftz rm sat x y = (canonicalNaN (formatOf fmt), flagNV) := by
  have hv : mulValues (.inf n) (.zero k) = none := by simp [mulValues, Value.isInf, Value.isZero]
  simp only [fpMul, flushOperand_of_not_subnormal ftz (not_subnormal_of_inf hf hx),
    flushOperand_of_not_subnormal ftz (not_subnormal_of_zero hy), hx, hy, hv]
  exact finish_invalid ftz rm sat (by simp [hx]) (by simp [hy])

/-- An unordered compare holds for `ne` and `uno` alone (R130). -/
theorem fpCompare_unordered {fmt x y c : Nat} (h : decode (formatOf fmt) x = .nan ∨ decode (formatOf fmt) y = .nan)
    (hc : c ≤ 7) : (fpCompare fmt false c x y).1 = (c = 1 || c = 7) := by
  have hu : (decide (decode (formatOf fmt) x = .nan) || decide (decode (formatOf fmt) y = .nan)) = true := by simpa using h
  have hcodes : c = 0 ∨ c = 1 ∨ c = 2 ∨ c = 3 ∨ c = 4 ∨ c = 5 ∨ c = 6 ∨ c = 7 := by omega
  rcases hcodes with rfl | rfl | rfl | rfl | rfl | rfl | rfl | rfl <;> simp [fpCompare, hu]

/-- A code is of one of the ten classes (R131). -/
theorem fpClass_one (fmt x : Nat) : ∃ k < 10, fpClass fmt x = 2 ^ k := by
  unfold fpClass
  simp only
  split
  · exact ⟨0, by decide, rfl⟩
  · split
    · exact ⟨2, by decide, rfl⟩
    · exact ⟨1, by decide, rfl⟩
  · exact ⟨3, by decide, rfl⟩
  · exact ⟨4, by decide, rfl⟩
  · split
    · exact ⟨5, by decide, rfl⟩
    · exact ⟨6, by decide, rfl⟩
  · exact ⟨7, by decide, rfl⟩
  · split
    · exact ⟨8, by decide, rfl⟩
    · exact ⟨9, by decide, rfl⟩

end Sys2Proof.Machine
end

section
/-!
Exact values as multiples of one power of two, and the nearest SP8 code (R18, R19).
-/

namespace Sys2Proof.Machine

/-- A dyadic value as a multiple of 2^k, for k up to its exponent. -/
def Dyadic.units (a : Dyadic) (k : Int) : Int := a.m * 2 ^ (a.e - k).toNat

/-- A power of two in two steps. -/
theorem pow_toNat_mul {c b a : Int} (hab : a ≤ b) (hbc : b ≤ c) :
    (2 : Int) ^ (c - b).toNat * 2 ^ (b - a).toNat = 2 ^ (c - a).toNat := by
  rw [← Int.pow_add]
  congr 1
  omega

theorem Dyadic.units_add {a b : Dyadic} {k : Int} (ha : k ≤ a.e) (hb : k ≤ b.e) :
    (a.add b).units k = a.units k + b.units k := by
  have hmin : k ≤ min a.e b.e := by omega
  simp only [Dyadic.units, Dyadic.add, Int.add_mul, Int.mul_assoc, pow_toNat_mul hmin (Int.min_le_left a.e b.e),
    pow_toNat_mul hmin (Int.min_le_right a.e b.e)]

theorem Dyadic.units_neg (a : Dyadic) (k : Int) : a.neg.units k = -a.units k := Int.neg_mul a.m _

theorem Dyadic.units_natAbs (a : Dyadic) (k : Int) : (⟨a.m.natAbs, a.e⟩ : Dyadic).units k = (a.units k).natAbs := by
  simp only [Dyadic.units, Int.natAbs_mul, Int.natAbs_pow, Int.natCast_mul, Int.natCast_pow]
  rfl

/-- The order of dyadic values is that of their multiples of a common power of two. -/
theorem Dyadic.lt_eq {a b : Dyadic} {k : Int} (ha : k ≤ a.e) (hb : k ≤ b.e) : a.lt b = decide (a.units k < b.units k) := by
  have hp : (0 : Int) < 2 ^ ((a.add b.neg).e - k).toNat := Int.pow_pos (by decide)
  have hsum : (a.add b.neg).units k = a.units k - b.units k := by
    rw [Dyadic.units_add ha (b := b.neg) hb, Dyadic.units_neg, Int.sub_eq_add_neg]
  have hsign : (a.add b.neg).m < 0 ↔ (a.add b.neg).units k < 0 := by
    constructor
    · exact fun h => Int.mul_neg_of_neg_of_pos h hp
    · exact fun h => Int.not_le.mp (fun hm => Int.not_le.mpr h (Int.mul_nonneg hm (Int.le_of_lt hp)))
  rw [Dyadic.lt, decide_eq_decide, hsign, hsum]
  omega

/-- A dyadic value as a value has the same multiple of a power of two, and an exponent no smaller than that power's. -/
theorem Dyadic.units_value (a : Dyadic) (z : Bool) {k : Int} (h : k ≤ a.e) (h0 : k ≤ 0) :
    k ≤ (a.value z).dyadic.e ∧ (a.value z).dyadic.units k = a.units k := by
  by_cases hm : a.m = 0
  · have hd : (a.value z).dyadic = ⟨0, 0⟩ := by rw [Dyadic.value, if_pos hm]; rfl
    rw [hd, Dyadic.units, Dyadic.units, hm, Int.zero_mul, Int.zero_mul]
    exact ⟨h0, rfl⟩
  · have hs : (if decide (a.m < 0) = true then -(a.m.natAbs : Int) else a.m.natAbs) = a.m := by
      simp only [decide_eq_true_eq]
      omega
    have hd : (a.value z).dyadic = a := by rw [Dyadic.value, if_neg hm, Value.dyadic, hs]
    rw [hd]
    exact ⟨h, rfl⟩

/-- The multiple of a power of two that an SP8 code stands for (R18). -/
theorem units_sp8Decode (c : Nat) {k : Int} (h : k ≤ -6) :
    k ≤ (sp8Decode c).dyadic.e ∧ (sp8Decode c).dyadic.units k = sp8Value c * 2 ^ (-6 - k).toNat :=
  Dyadic.units_value ⟨sp8Value c, -6⟩ false h (by omega)

/-- The better of two codes is at most as far as either (R19). -/
theorem sp8Better_dist_le (x : Int) (d best code : Nat) :
    (x - sp8Value (sp8Better x d best code) * d).natAbs ≤ (x - sp8Value best * d).natAbs
    ∧ (x - sp8Value (sp8Better x d best code) * d).natAbs ≤ (x - sp8Value code * d).natAbs := by
  unfold sp8Better
  simp only
  split <;> omega

/-- The best code of a list is at most as far as the code it started from and as each code of the list (R19). -/
theorem foldl_sp8Better_dist_le (x : Int) (d : Nat) (cs : List Nat) (best : Nat) :
    ∀ c ∈ best :: cs, (x - sp8Value (cs.foldl (sp8Better x d) best) * d).natAbs ≤ (x - sp8Value c * d).natAbs := by
  induction cs generalizing best with
  | nil =>
    intro c hc
    rw [List.mem_singleton.mp hc]
    exact Nat.le_refl _
  | cons code cs ih =>
    have hfirst := ih (sp8Better x d best code) _ List.mem_cons_self
    obtain ⟨hbest, hcode⟩ := sp8Better_dist_le x d best code
    intro c hc
    rw [List.foldl_cons]
    rcases List.mem_cons.mp hc with rfl | hc
    · exact Nat.le_trans hfirst hbest
    · rcases List.mem_cons.mp hc with rfl | hc
      · exact Nat.le_trans hfirst hcode
      · exact ih _ c (List.mem_cons_of_mem _ hc)

/-- The code that SP8 encoding gives of a finite value within ±2 is nearest in units of 1/64 (R19). -/
theorem sp8Encode_dist_le {neg : Bool} {k : Nat} {e : Int} (h : Dyadic.lt ⟨2, 0⟩ ⟨k, e⟩ = false) {c : Nat} (hc : c < 256) :
    let x : Int := (if neg then -(k : Int) else k) * 2 ^ (e + 6).toNat
    let d : Nat := 2 ^ (-(e + 6)).toNat
    (x - sp8Value (sp8Encode (.fin neg k e)).1 * d).natAbs ≤ (x - sp8Value c * d).natAbs := by
  intro x d
  have hbest := foldl_sp8Better_dist_le x d (List.range 256) 0 c (List.mem_cons_of_mem _ (List.mem_range.mpr hc))
  have hcode : (sp8Encode (.fin neg k e)).1 =
      if sp8Value ((List.range 256).foldl (sp8Better x d) 0) = 0 then 0x77 else (List.range 256).foldl (sp8Better x d) 0 := by
    simp only [sp8Encode, h, Bool.false_eq_true, if_false]
    rfl
  have hvalue : sp8Value (sp8Encode (.fin neg k e)).1 = sp8Value ((List.range 256).foldl (sp8Better x d) 0) := by
    rw [hcode]
    split
    · next hv => rw [hv]; decide
    · rfl
  rw [hvalue]
  exact hbest

/-- The distance of an SP8 code from an exact value, as a dyadic value. -/
def sp8Distance (v : Dyadic) (c : Nat) : Dyadic :=
  let d := (sp8Decode c).dyadic.add v.neg
  ⟨d.m.natAbs, d.e⟩

/-- SP8 encoding compares distances in the largest power of two that both a code and the value are multiples of (R19). -/
theorem units_sp8Distance (v : Dyadic) (c : Nat) :
    min v.e (-6) ≤ (sp8Distance v c).e ∧ (sp8Distance v c).units (min v.e (-6)) =
      (v.m * 2 ^ (v.e + 6).toNat - sp8Value c * (2 ^ (-(v.e + 6)).toNat : Nat)).natAbs := by
  obtain ⟨hexp, hunits⟩ := units_sp8Decode c (Int.min_le_right v.e (-6))
  have hv : min v.e (-6) ≤ v.neg.e := Int.min_le_left v.e (-6)
  have h1 : (-6 - min v.e (-6)).toNat = (-(v.e + 6)).toNat := by omega
  have h2 : (v.e - min v.e (-6)).toNat = (v.e + 6).toNat := by omega
  refine ⟨Int.le_min.mpr ⟨hexp, hv⟩, ?_⟩
  rw [sp8Distance, Dyadic.units_natAbs, Dyadic.units_add hexp hv, Dyadic.units_neg, hunits, Dyadic.units, h1, h2,
    ← Int.sub_eq_add_neg, ← Int.natAbs_neg, Int.neg_sub, Int.natCast_pow]
  rfl

/-- SP8 encoding takes a code at the least distance (R19). -/
theorem sp8Encode_nearest (neg : Bool) (k : Nat) (e : Int) (h : Dyadic.lt ⟨2, 0⟩ ⟨k, e⟩ = false) {c : Nat} (hc : c < 256) :
    let v : Dyadic := ⟨if neg then -(k : Int) else k, e⟩
    (sp8Distance v c).lt (sp8Distance v (sp8Encode (.fin neg k e)).1) = false := by
  intro v
  obtain ⟨hexp, hunits⟩ := units_sp8Distance v c
  obtain ⟨hexp', hunits'⟩ := units_sp8Distance v (sp8Encode (.fin neg k e)).1
  rw [Dyadic.lt_eq hexp hexp', decide_eq_false_iff_not, hunits, hunits', Int.not_lt]
  exact Int.ofNat_le.mpr (sp8Encode_dist_le (neg := neg) h hc)

end Sys2Proof.Machine
end

section
/-!
The operations on codes: what the statement asks of them, put together.
-/

namespace Sys2Proof.Machine

/-- Settles O31: the operations on codes (R18 to R23, R127, R130, R131). -/
theorem codeArithmetic : Obligations.CodeArithmetic := by
  intro fmt ftz sat rm hfmt f nan signal
  obtain ⟨hexp, hbits⟩ := formatOf_bits hfmt
  refine ⟨?rounding, ?nans, ?sum, ?product, fun x y c => fpCompare_unordered, fpClass_one fmt,
    fun neg k e _ h c hc => sp8Encode_nearest neg k e h hc⟩
  case rounding =>
    intro x hx hn hi
    exact roundValue_decode rm sat (hbits ▸ hx) hn hi
  case nans =>
    intro x y h op hop
    simp only [List.mem_cons, List.not_mem_nil, or_false] at hop
    rcases hop with rfl | rfl | rfl
    · simp only [fpAdd, flushOperand_false, finish_of_nan _ _ _ _ h, f, signal]
    · simp only [fpSub, flushOperand_false, finish_of_nan _ _ _ _ h, f, signal]
    · simp only [fpMul, flushOperand_false, finish_of_nan _ _ _ _ h, f, signal]
  case sum => exact fun x y n hx hy => fpAdd_opposite_infinities ftz rm sat hexp hx hy
  case product => exact fun x y n k hx hy => fpMul_infinity_zero ftz rm sat hexp hx hy

end Sys2Proof.Machine
end

section
/-!
Decoding the words of an instruction gives the instruction back (R61 to R73, R340).
-/

namespace Sys2Proof.Laws.RoundTrip

/-- The decoder of its stream reads the words of every well-formed instruction as that instruction: the lemma of each
constructor, in the order of `Instr`. -/
theorem decode_encode (i : Instr) : Statement i :=
  i.casesOn (motive := Statement)
    add sub mul mulh mulhU div divU rem remU and or xor shl shr sra min minU max maxU sel clz popc cmp bfx bfi aff
    addImm andImm orImm xorImm shlImm shrImm sraImm cmpImm lea li lui ld st ald aldx lpset lpend br call bc jmp
    calli ret brd join callv done lrun mfem mtem voteAny voteAll voteBall lget arrive await bar cbwait cbpoll rgive
    rclaim enter leave mfk mtk nop trap brk ifence cflush cycl phint ldacq strel fence relflush xcopy xseal xwait
    xpoll tfill tfillOb tdrain tstate tfree capinit capin capstep capout capres obres obrel obfmt mma mmaBm mmaPair
    mmaPairBm mzero maccLd maccSt mwait mstat dcfg dload dloadPairs dstream dbias dclamp dinit dlink dsweep dread
    dclr dmon dmonClr remit remitW remitj rdone gquery gcount vadd vsub vmul vmulh vmad vmin vmax vabs vand vor vxor
    vnot vshl vshr vsra vclz vpopc vbfx vbfi vsel vcmp vmov vli vfadd vfsub vfmul vfma vfmin vfmax vfcmp vfclass
    vrcp vrsqrt vexp2 vlog2 vtanh vcvt vpack vunpack vmxq vmxdq vspq vperm vshfl vred vscan vballot vbcast vcompact
    pand por pnot pmov pmovV pmovI vrand vrandf vld vst vlds vsts vldt vatom vredM vldacq vstrel mpost qfetch fbfx
    sigwait dispatch pcancel prepeat burstStart burstCommit trapDelivery claimDeadlock l1Eviction copyComplete
    fillComplete drainComplete matrixOpStart matrixOpComplete duneCommandComplete colourPhaseBegin colourPhaseEnd
    witnessWindowClose generatorSelfTest horizonPublication horizonReset horizonTimeout calibrationComplete
    orderedUpdateArrival orderedUpdateFold portResend orphanReport releaseNotice pageWalkComplete pageServiceReply
    distributorTurn blockEnd launchComplete preemptionRequest forcedSaveBound blockSaveComplete blockResume
    watchdogReport graphRunStart launcherCycle launcherAgeTimeout poolStall graphRunEnd timerFire mappingInterval
    queueMap queueMappingAck prologueInstructionLimit prologueCycleLimit prologueReturn nopCommand launchCommand
    uploadCommand triggerCommand signalCommand waitCommand timerArm timerOff collectiveCommand msgSend msgRecv
    doorbell triggerWrite deviceEnable warmReset pwrSetWrite registerWrite functionLevelReset coldReset
    hostMemoryWrite hostMemoryRead netinDataFrame netinAckFrame collectiveContributionFrame collectiveResultFrame
    backlogFullFrame backlogOpenFrame fragmentRetry remoteCompletionTimeout netinPortFailure ucieLinkFailure
    thermalThrottle thermalCritical sramScrub hbmScrub bankFailure restripeRegion sampleTick recordingCheckpoint
    ctxInstall ctxRemove invalidate arrayClear arrayRetire healthRead bankRepair trailRead saveMove watchdogAct
    fwUpdate sampleStart grant revoke dbgHalt dbgResume dbgRead dbgWrite dbgCommit dbgMatch dbgStopAtRecording
    dbgStopAt dbgBack spdmGetVersion spdmGetCapabilities spdmNegotiateAlgorithms spdmGetDigests spdmGetCertificate
    spdmChallenge spdmGetMeasurements reservedScalarWord reservedLaneOpcode unknownQueueOpcode unknownMailboxCommand
    netinRemoteRequest reservedKindFrame netinPortRestore stackCacheSpill prologueException

/-- The instructions with words are those of a stream. -/
theorem encode_isSome (i : Instr) : (encode i).isSome = (streamOf i).isSome := by
  unfold encode
  cases streamOf i with
  | none => rfl
  | some st => cases st <;> rfl

end Sys2Proof.Laws.RoundTrip

namespace Sys2Proof.Machine

/-- Settles O4: an instruction of a stream has words, and their decoding gives it back (R61 to R73, R340). -/
theorem decodeEncode : Obligations.DecodeEncode := fun i hw =>
  ⟨fun st w he => Laws.RoundTrip.decode_encode i hw st w he, Laws.RoundTrip.encode_isSome i⟩

end Sys2Proof.Machine
end

section
/-!
Actions in sequence, and how a scalar instruction ends: by a check, a fault, a branch or a wait (R86, R87).
-/

namespace Sys2Proof.Machine

/-! ### Actions -/

/-- An action after one that completes. -/
theorem bind_run {α β : Type} {x : Act α} {f : α → Act β} {s t : State} {a : α} (h : x s = .ok a t) : (x >>= f) s = f a t := by
  simp only [bind, EStateM.bind, h]

/-- A check that passes. -/
theorem check_passes {ok : Bool} (h : ok = true) (code cause : Nat) (addr : Word) (s : State) :
    check ok code cause addr s = .ok () s := by
  rw [check, h, if_pos rfl]
  rfl

/-- A check that fails. -/
theorem check_fails {ok : Bool} (h : ok = false) (code cause : Nat) (addr : Word) (s : State) :
    check ok code cause addr s = .error (.trap code cause addr) s := by
  rw [check, h, if_neg Bool.false_ne_true]
  rfl

/-! ### Scalar instructions -/

section
variable {s : State} {m : Me}

/-- The caravan of the path in focus. -/
theorem State.caravan?_me (h : s.me? = some m) : s.caravan? m.key = some m.car := by
  obtain ⟨_, _, hc, _, _⟩ := State.me?_spec h
  exact hc

/-- An instruction whose own checks pass is one without any. -/
theorem scalarOp_of_legal {i : Instr} {illegal : Act Unit} (effect : Act Flow) (h : s.Runs m i) (hi : illegal s = .ok () s) :
    scalarOp i illegal effect s = scalarOp i (pure ()) effect s := by
  rw [scalarOp_runs h, scalarOp_runs h, hi]
  rfl

/-- A fault of an instruction's own checks, raised in the state that it found. -/
theorem scalar_illegal {i : Instr} {illegal : Act Unit} {effect : Act Flow} {code cause : Nat} {addr : Word}
    (h : s.Runs m i) (hi : illegal s = .error (.trap code cause addr) s) :
    scalarOp i illegal effect s = .next ((s.keep s m).raiseTrap m.key m.p (m.trap code cause addr)) := by
  rw [scalarOp_runs h]
  simp only [hi, scalarResult, trapIn_same (State.caravan?_me h.path) rfl rfl]

/-- The fault of an instruction in whose effect nothing was written but a register: none of it is kept. -/
theorem scalar_traps_wrote {i : Instr} {illegal : Act Unit} {effect : Act Flow} {code cause : Nat} {addr : Word}
    (h : s.Runs m i) (hi : illegal s = .ok () s) (d : BitVec 6) (v : Word)
    (he : effect s = .error (.trap code cause addr) (s.wrote m d v)) :
    scalarOp i illegal effect s = .next ((s.keep s m).raiseTrap m.key m.p (m.trap code cause addr)) := by
  have hc : (s.wrote m d v).caravan? m.key = some (m.written d v) := Tab.get?_set_self _ _ _
  obtain ⟨hf, ho⟩ : (m.written d v).engineFaults = m.car.engineFaults ∧ (m.written d v).matrixOutcomes = m.car.matrixOutcomes := by
    unfold Me.written Caravan.setSreg
    split
    · exact ⟨rfl, rfl⟩
    · split <;> exact ⟨rfl, rfl⟩
  rw [scalar_traps h hi he, keep_wrote, trapIn_same hc hf ho]

/-- The fault of an instruction whose effect has written nothing. -/
theorem scalar_traps_same {i : Instr} {illegal : Act Unit} {effect : Act Flow} {code cause : Nat} {addr : Word}
    (h : s.Runs m i) (hi : illegal s = .ok () s) (he : effect s = .error (.trap code cause addr) s) :
    scalarOp i illegal effect s = .next ((s.keep s m).raiseTrap m.key m.p (m.trap code cause addr)) := by
  rw [scalar_traps h hi he, trapIn_same (State.caravan?_me h.path) rfl rfl]

/-- An instruction whose effect branches where a condition holds. -/
theorem scalar_branches {u : State} {i : Instr} {illegal : Act Unit} {effect : Act Flow} {target : Word} {c : Prop} [Decidable c]
    (h : s.Runs m i) (hi : illegal s = .ok () s) (he : effect s = .ok (if c then .jump target else .seq) u) :
    scalarOp i illegal effect s = .next (u.retire m i (if c then target else m.path.spc + 4)) := by
  by_cases hc : c
  · rw [if_pos hc] at he ⊢
    exact scalar_jumps h hi he
  · rw [if_neg hc] at he ⊢
    exact scalar_completes h hi he

/-- A value that needs the path drained stalls its instruction where it is not (R87). -/
theorem writes_drain_stalls {i : Instr} {d : BitVec 6} {v : Unit → Act Word} (h : s.Runs m i) (hd : m.path.drained = false) :
    scalarOp i (pure ()) (writes d (drain >>= v)) s = .next (s.waits m .data) :=
  scalar_stalls h rfl (by simp only [writes, bind, EStateM.bind, drain_stalls h.path hd])

end

end Sys2Proof.Machine
end

section
/-!
The turns of a path and of a lane slot: the fetch of a word, and the instruction that it decodes to (R62, R74, R75).
-/

namespace Sys2Proof.Machine

/-! ### Words and their instructions -/

/-- A decoding that a stream accepts. -/
theorem eq_ok_of_toOption {ε α : Type} {r : Except ε α} {x : α} (h : r.toOption = some x) : r = .ok x := by
  cases r with
  | ok y => exact congrArg Except.ok (Option.some.inj h)
  | error e => cases h

/-- A scalar word runs as the instruction that it decodes to. -/
theorem runScalar_of_decodeOf {w : Nat} {i : Instr} (hw : w < 2 ^ 32) (h : decodeOf .scalar w = some i) (s : State) :
    runScalar (BitVec.ofNat 32 w) s = exec i s := by
  have hd : decodeScalar (BitVec.ofNat 32 w) = .ok i := by
    rw [decodeScalar, BitVec.toNat_ofNat, Nat.mod_eq_of_lt hw]
    exact eq_ok_of_toOption h
  simp only [runScalar, hd]

/-- A lane word runs as the instruction that it decodes to. -/
theorem runLane_of_decodeOf {w : Nat} {i : Instr} (hw : w < 2 ^ 96) (h : decodeOf .lane w = some i) (s : State) :
    runLane (BitVec.ofNat 96 w) s = exec i s := by
  have hd : decodeLane (BitVec.ofNat 96 w) = .ok i := by
    rw [decodeLane, BitVec.toNat_ofNat, Nat.mod_eq_of_lt hw]
    exact eq_ok_of_toOption h
  simp only [runLane, hd]

/-- The number of `n` bytes of code is below its bound. -/
theorem State.CodeAt.lt {s : State} {m : Me} {va : Word} {n w : Nat} {t : Translation} (h : s.CodeAt m va n w t) :
    w < 2 ^ (8 * n) := by
  have hlt : leNat (s.homeBytes (physical t va) n) < 2 ^ (8 * (s.homeBytes (physical t va) n).length) := leNat_lt
  rwa [show leNat (s.homeBytes (physical t va) n) = w from h.bytes, State.homeBytes, List.length_map, List.length_range] at hlt

/-! ### Turns of a path and of a lane slot -/

/-- The core of the path that a turn puts in focus. -/
theorem State.me?_turned_core {s : State} {rest : List Turn} {core slot p : Nat} {m : Me}
    (h : (s.turned rest (.path core slot p)).me? = some m) : m.core = core := by
  have hf : Agent.path core slot p = .path m.core m.slot m.p := (State.me?_spec h).1
  injection hf with hc
  exact hc.symm

/-- A path's turn runs what its fetch comes to, where nothing stands between its instructions. -/
theorem step_path_of_fetch {s t : State} {rest : List Turn} {core slot p : Nat} {m : Me} {w : BitVec 32}
    (ha : s.agenda = .path core slot p :: rest) (hs : s.stopped = false) (hm : (s.turned rest (.path core slot p)).me? = some m)
    (hb : (s.turned rest (.path core slot p)).between m = none)
    (hf : fetchScalar m.path.spc (s.turned rest (.path core slot p)) = .ok w t) :
    step s = settled s.mem (runScalar w t) := by
  have hs' : ({ s with agenda := rest } : State).stopped = false := hs
  simp only [State.turned] at hm hb hf
  rw [step_run ha]
  simp only [runTurn, hs', Bool.false_and, Bool.false_eq_true, if_false, pathTurn, hm, hb, EStateM.run, hf, afterFetch]

/-- A lane slot's turn runs what the fetch of its burst comes to. -/
theorem step_lane_of_fetch {s t : State} {rest : List Turn} {core slot p : Nat} {m : Me} {b : Burst} {w : BitVec 96}
    (ha : s.agenda = .lane core slot p :: rest) (hs : s.stopped = false) (hm : (s.turned rest (.path core slot p)).me? = some m)
    (hb : m.path.burst = some b) (hi : b.issued = false) (hf : fetchLane b (s.turned rest (.path core slot p)) = .ok w t) :
    step s = settled s.mem (runLane w t) := by
  have hs' : ({ s with agenda := rest } : State).stopped = false := hs
  simp only [State.turned] at hm hf
  rw [step_run ha]
  simp only [runTurn, hs', Bool.false_and, Bool.false_eq_true, if_false, laneTurn, hm, hb, hi, EStateM.run, hf, afterFetch]

/-- The scalar word at an aligned SPC is the word of code there. -/
theorem fetchScalar_of_codeWord {s t : State} {spc : Word} {w : Nat} (ha : spc.toNat % 4 = 0)
    (hc : codeWord 4 spc scalarCache s = .ok w t) : fetchScalar spc s = .ok (BitVec.ofNat 32 w) t := by
  simp only [fetchScalar, bind, EStateM.bind, check_passes (decide_eq_true ha), hc, pure, EStateM.pure]

/-- The lane word of a burst is the word of code at its position. -/
theorem fetchLane_of_codeWord {s t : State} {b : Burst} {w : Nat}
    (hc : codeWord 12 (b.entry.start + BitVec.ofNat 64 (12 * b.pos)) laneCache s = .ok w t) :
    fetchLane b s = .ok (BitVec.ofNat 96 w) t := by
  simp only [fetchLane, bind, EStateM.bind, pure, EStateM.pure, hc]

/-- R62, R75: a path's turn runs the instruction at its SPC. -/
theorem stepRunsScalar : Claims.StepRunsScalar := by
  intro s core slot p w rest m t i u ha hs hm hb h4 hc hd
  have hcore : m.core = core := State.me?_turned_core hm
  have hw : w < 2 ^ 32 := hc.lt
  have run {v : State} (hcw : codeWord 4 m.path.spc scalarCache u = .ok w v) : step s = settled s.mem (exec i v) := by
    rw [step_path_of_fetch ha hs hm hb (fetchScalar_of_codeWord h4 hcw), runScalar_of_decodeOf hw hd]
  refine ⟨fun hmiss => run (codeWord_miss hm hc scalarCache ?_), fun hhit => run (codeWord_hit hm hc scalarCache ?_)⟩
  · simp only [scalarCache, hcore, hmiss, Option.map_none]
  · simp only [scalarCache, hcore, hhit, Option.map_some, BitVec.toNat_ofNat, Nat.mod_eq_of_lt hw]

/-- R74, R75: a lane slot's turn runs the lane instruction at the position of its burst. -/
theorem stepRunsLane : Claims.StepRunsLane := by
  intro s core slot p w rest m b t i u va ha hs hm hb hi hc hd
  have hcore : m.core = core := State.me?_turned_core hm
  have hw : w < 2 ^ 96 := hc.lt
  have run {v : State} (hcw : codeWord 12 va laneCache u = .ok w v) : step s = settled s.mem (exec i v) := by
    rw [step_lane_of_fetch ha hs hm hb hi (fetchLane_of_codeWord hcw), runLane_of_decodeOf hw hd]
  refine ⟨fun hmiss => run (codeWord_miss hm hc laneCache ?_), fun hhit => run (codeWord_hit hm hc laneCache ?_)⟩
  · simp only [laneCache, hcore, hmiss, Option.map_none]
  · simp only [laneCache, hcore, hhit, Option.map_some, BitVec.toNat_ofNat, Nat.mod_eq_of_lt hw]

/-- Settles O7: a turn of a path or of a lane slot runs the instruction that its bytes decode to (R62, R74, R75). -/
theorem stepRunsStreams : Obligations.StepRunsStreams := ⟨stepRunsScalar, stepRunsLane⟩

end Sys2Proof.Machine
end

section
/-!
Words written out from their encodings, and words that stand for no instruction (R61 to R73, R340).
-/

namespace Sys2Proof.Machine

/-- R61 to R73, R340: words written out from their encodings decode to the instructions that they stand for. -/
theorem writtenWords : Claims.DecodeWords := by
  unfold Claims.DecodeWords
  decide

/-- R61, R67, R73: a reserved word raises ILLEGAL_OP with the cause of its decoding. -/
theorem reservedWords : Claims.ReservedWords := by
  refine ⟨fun s m w e he hr => ?_, fun s m b w e he hb => ?_⟩
  · show execReservedScalarWord w s = _
    simp only [execReservedScalarWord, he]
    exact scalar_illegal hr rfl
  · obtain ⟨hpath, hburst, hleft⟩ := hb
    show execReservedLaneOpcode w s = _
    simp only [execReservedLaneOpcode, hpath, hburst, hleft, he, Bool.false_eq_true, if_false]

/-- Settles O9: words decode as their encodings say, and reserved words raise ILLEGAL_OP (R61 to R73, R340). -/
theorem decodeWords : Obligations.DecodeWords := ⟨writtenWords, reservedWords⟩

end Sys2Proof.Machine
end

section
/-!
Branches, calls and loops (R62, R97, R98, R425).
-/

namespace Sys2Proof.Machine

section
variable {s : State} {m : Me}

/-- A jump to a multiple of 4. -/
theorem jumpTo_aligned {target : Word} (h : target.toNat % 4 = 0) (s : State) : jumpTo target s = .ok (.jump target) s := by
  simp only [jumpTo, bind, EStateM.bind, check_passes (decide_eq_true h), pure, EStateM.pure]

/-- A jump to another address. -/
theorem jumpTo_misaligned {target : Word} (h : target.toNat % 4 ≠ 0) (s : State) :
    jumpTo target s = .error (.trap codeMisaligned 1 target) s := by
  simp only [jumpTo, bind, EStateM.bind, check_fails (decide_eq_false h)]

/-- `br` (R98). -/
theorem br_jumps (n : BitVec 20) : Jumps s m (.br n) s (m.path.spc + 4 * n.signExtend 64) := fun h =>
  scalar_jumps (illegal := pure ()) h rfl (by simp only [bind, EStateM.bind, me_run h.path, pure, EStateM.pure, branchTarget])

/-- The return address written to `s63`. -/
theorem link_run (hm : s.me? = some m) (v : Word) : setRegNat 63 v s = .ok () (s.wrote m 63 v) := setRegNat_run hm 63 v

/-- `call` (R98). -/
theorem call_jumps (n : BitVec 20) :
    Jumps s m (.call n) (s.wrote m 63 (m.path.spc + 4)) (m.path.spc + 4 * n.signExtend 64) := fun h =>
  scalar_jumps (illegal := pure ()) h rfl
    (by simp only [bind, EStateM.bind, me_run h.path, link_run h.path, pure, EStateM.pure, branchTarget])

/-- `bc.cc` branches where its condition holds (R98). -/
theorem exec_bc {c : BitVec 4} {a : BitVec 6} {v : Bool} (hc : holdsCode c.toNat (m.reg a.toNat) 0 = some v) {k : BitVec 14}
    (h : s.Runs m (.bc c a k)) : exec (.bc c a k) s =
      .next (s.retire m (.bc c a k) (if v then m.path.spc + 4 * k.signExtend 64 else m.path.spc + 4)) :=
  scalar_branches (illegal := pure ()) h rfl
    (by simp only [bind, EStateM.bind, me_run h.path, reg_run h.path, condHolds_of hc, pure, EStateM.pure, branchTarget])

/-- `jmp` to a multiple of 4 (R98). -/
theorem jmp_jumps {a : BitVec 6} (ha : (m.reg a.toNat).toNat % 4 = 0) : Jumps s m (.jmp a) s (m.reg a.toNat) := fun h =>
  scalar_jumps (illegal := pure ()) h rfl (by simp only [bind, EStateM.bind, reg_run h.path, jumpTo_aligned ha])

/-- `jmp` elsewhere (R98). -/
theorem jmp_traps {a : BitVec 6} (ha : (m.reg a.toNat).toNat % 4 ≠ 0) : Traps s m (.jmp a) codeMisaligned 1 (m.reg a.toNat) :=
  fun h => scalar_traps_same (illegal := pure ()) h rfl
    (by simp only [bind, EStateM.bind, reg_run h.path, jumpTo_misaligned ha])

/-- `calli` to a multiple of 4 (R98). -/
theorem calli_jumps {a : BitVec 6} (ha : (m.reg a.toNat).toNat % 4 = 0) :
    Jumps s m (.calli a) (s.wrote m 63 (m.path.spc + 4)) (m.reg a.toNat) := fun h =>
  scalar_jumps (illegal := pure ()) h rfl
    (by simp only [bind, EStateM.bind, me_run h.path, reg_run h.path, link_run h.path, jumpTo_aligned ha])

/-- `calli` elsewhere (R98): the return address that it has written is not kept. -/
theorem calli_traps {a : BitVec 6} (ha : (m.reg a.toNat).toNat % 4 ≠ 0) :
    Traps s m (.calli a) codeMisaligned 1 (m.reg a.toNat) := fun h =>
  scalar_traps_wrote (illegal := pure ()) h rfl 63 (m.path.spc + 4)
    (by simp only [bind, EStateM.bind, me_run h.path, reg_run h.path, link_run h.path, jumpTo_misaligned ha])

/-- `ret` outside a handler is a jump to `s63` (R98). -/
theorem ret_jumps (hh : m.path.handler = none) (ha : (m.reg 63).toNat % 4 = 0) : Jumps s m .ret s (m.reg 63) := fun h =>
  scalar_jumps (illegal := pure ()) h rfl (by simp only [bind, EStateM.bind, me_run h.path, hh, jumpTo_aligned ha])

/-- `ret` outside a handler with a misaligned `s63` (R98). -/
theorem ret_traps (hh : m.path.handler = none) (ha : (m.reg 63).toNat % 4 ≠ 0) :
    Traps s m .ret codeMisaligned 1 (m.reg 63) := fun h =>
  scalar_traps_same (illegal := pure ()) h rfl
    (by simp only [bind, EStateM.bind, me_run h.path, hh, jumpTo_misaligned ha])

/-- `ret` ends a match handler at the matched instruction (R425). -/
theorem ret_ends_handler {x : HandlerRun} (hh : m.path.handler = some x) :
    Jumps s m .ret (s.modPath m.key m.p (fun y => { y with handler := none })) x.matched := fun h =>
  scalar_jumps (illegal := pure ()) h rfl
    (by simp only [bind, EStateM.bind, me_run h.path, hh, modMyPath_run h.path, pure, EStateM.pure])

/-- `lpset` sets its counter, and goes on after the `lpend` where the count is zero (R97). -/
theorem exec_lpset {d a : BitVec 6} {k : BitVec 14} (h : s.Runs m (.lpset d a k)) : exec (.lpset d a k) s =
    .next ((s.wrote m d (m.reg a.toNat)).retire m (.lpset d a k)
      (if m.reg a.toNat = 0 then m.path.spc + 4 * k.signExtend 64 + 4 else m.path.spc + 4)) :=
  scalar_branches (illegal := pure ()) h rfl
    (by simp only [bind, EStateM.bind, me_run h.path, reg_run h.path, setReg_run h.path, pure, EStateM.pure, branchTarget, State.wrote])

/-- `lpend` lowers its counter, and goes on with the loop while it is not zero (R97). -/
theorem exec_lpend {d : BitVec 6} {k : BitVec 14} (h : s.Runs m (.lpend d k)) : exec (.lpend d k) s =
    .next ((s.wrote m d (m.reg d.toNat - 1)).retire m (.lpend d k)
      (if m.reg d.toNat - 1 ≠ 0 then m.path.spc + 4 * k.signExtend 64 else m.path.spc + 4)) :=
  scalar_branches (illegal := pure ()) h rfl
    (by simp only [bind, EStateM.bind, me_run h.path, reg_run h.path, setReg_run h.path, pure, EStateM.pure, branchTarget, State.wrote])

end

/-- R62, R97, R98, R425: branches, calls and loops. -/
theorem branches : Claims.Branches := by
  intro s m a d c n k spc v far near
  refine ⟨br_jumps n, call_jumps n, fun hc h => ?taken, fun hc h => ?passed, fun ha => ⟨jmp_jumps ha, calli_jumps ha⟩,
    fun ha => ⟨jmp_traps ha, calli_traps ha⟩, ret_jumps, ret_traps, fun x => ret_ends_handler, fun ha h => ?skipped,
    fun ha h => ?entered, fun hd h => ?left, fun hd h => ?again⟩
  case taken => exact exec_bc hc h
  case passed => exact exec_bc hc h
  case skipped => rw [exec_lpset h, if_pos ha]
  case entered => rw [exec_lpset h, if_neg ha]
  case left => rw [exec_lpend h, hd]; rfl
  case again => rw [exec_lpend h, if_pos (fun h0 => hd (BitVec.sub_eq_iff_eq_add.mp h0))]

end Sys2Proof.Machine
end

section
/-!
The places of a state, which the memory operations of a core leave alone: what a path in focus is found by.
-/

namespace Sys2Proof.Machine

/-! ### Places -/

/-- The agent in focus, the blocks, and the block and the paths of each caravan: what `State.me?` finds a path by. -/
def State.places (s : State) : Agent × Tab Block × (Nat → Option (Nat × Tab Path)) :=
  (s.focus, s.blocks, fun k => (s.caravan? k).map (fun c => (c.block, c.paths)))

/-- A path is in focus where the same places are. -/
theorem State.InFocus.of_places {s u : State} {key p : Nat} (h : s.InFocus key p) (hu : u.places = s.places) :
    u.InFocus key p := by
  obtain ⟨m, hm, rfl, rfl⟩ := h
  obtain ⟨hf, hk, hc, hx, hb⟩ := State.me?_spec hm
  simp only [State.places, Prod.mk.injEq] at hu
  obtain ⟨hfocus, hblocks, hcars⟩ := hu
  have hcar := congrFun hcars m.key
  rw [hc, Option.map_some, Option.map_eq_some_iff] at hcar
  obtain ⟨c, hget, hsame⟩ := hcar
  rw [Prod.mk.injEq] at hsame
  obtain ⟨hblock, hpaths⟩ := hsame
  refine ⟨{ m with car := c }, ?_, rfl, rfl⟩
  simp only [State.me?, hfocus, hf, ← hk, hget, hpaths, hx, hblock, hblocks, hb]

/-- A change of a caravan that keeps its block and its paths. -/
theorem State.places_modCaravan (s : State) (key : Nat) {f : Caravan → Caravan} (hb : ∀ c, (f c).block = c.block)
    (hp : ∀ c, (f c).paths = c.paths) : (s.modCaravan key f).places = s.places := by
  have hcars : (fun k => ((s.modCaravan key f).caravan? k).map (fun c => (c.block, c.paths))) =
      fun k => (s.caravan? k).map (fun c => (c.block, c.paths)) := by
    funext k
    simp only [State.caravan?, State.modCaravan]
    by_cases hk : k = key
    · subst hk
      cases hc : Tab.get? s.caravans k with
      | none => simp only [Tab.modify, hc]
      | some c => simp only [Tab.get?_modify_self f hc, Option.map_some, hb, hp]
    · rw [Tab.get?_modify_ne _ _ hk]
  simp only [State.places, hcars]
  rfl

/-- Steps that each keep the places keep them together. -/
theorem State.places_foldl {α : Type} {f : State → α → State} (h : ∀ s x, (f s x).places = s.places) (l : List α) (s : State) :
    (l.foldl f s).places = s.places := by
  induction l generalizing s with
  | nil => rfl
  | cons x l ih => rw [List.foldl_cons, ih, h]

@[simp] theorem State.places_modCore (s : State) (n : Nat) (f : Core → Core) : (s.modCore n f).places = s.places := rfl

@[simp] theorem State.places_choose (s : State) : s.choose.2.places = s.places := rfl

@[simp] theorem State.places_homeStore (s : State) (a : Nat) (bs : List Byte) (plain : Bool) :
    (s.homeStore a bs plain).places = s.places := rfl

@[simp] theorem State.places_loseCell (s : State) (c : Nat) : (s.loseCell c).places = s.places := rfl

@[simp] theorem State.places_outsideStore (s : State) (a : Nat) (bs : List Byte) (plain : Bool) :
    (s.outsideStore a bs plain).places = s.places := by
  rw [State.outsideStore, State.places_foldl State.places_loseCell, State.places_homeStore]

@[simp] theorem State.places_logHome (s : State) (handles : List Nat) (e : LogEntry) : (s.logHome handles e).places = s.places := by
  unfold State.logHome
  split
  · split
    · split
      · split <;> rfl
      · rfl
    · rfl
  · rfl

@[simp] theorem State.places_pushSector (s : State) (core k : Nat) : (s.pushSector core k).places = s.places := by
  unfold State.pushSector
  split
  · rfl
  · split
    · rfl
    · rw [State.places_modCore]
      split
      · rw [State.places_outsideStore, State.places_logHome]
      · rw [State.places_foldl, State.places_logHome]
        intro t i
        split
        · exact State.places_outsideStore _ _ _ _
        · rfl

@[simp] theorem State.places_pushSectors (s : State) (core : Nat) (ks : List Nat) : (s.pushSectors core ks).places = s.places :=
  State.places_foldl (fun t k => t.places_pushSector core k) ks s

@[simp] theorem State.places_evictLine (s : State) (core line : Nat) : (s.evictLine core line).places = s.places := by
  rw [State.evictLine, State.places_modCore, State.places_pushSectors]

@[simp] theorem State.places_l1Room (s : State) (core k : Nat) : (s.l1Room core k).places = s.places := by
  dsimp only [State.l1Room]
  split
  · rfl
  · exact (State.places_evictLine _ _ _).trans s.places_choose

@[simp] theorem State.places_spoilSaves (s : State) (block a n : Nat) : (s.spoilSaves block a n).places = s.places := by
  unfold State.spoilSaves
  split
  · rfl
  · split <;> rfl

/-! ### Page walks -/

/-- The state that a served walk ends in. -/
def Served.state : Served → State
  | .leaf _ s | .fault _ _ s | .wait s => s

@[simp] theorem Served.state_check (r : Served) (k : Access) : (r.check k).state = r.state := by
  cases r with
  | leaf t s =>
    simp only [Served.check]
    split <;> rfl
  | fault code cause s => rfl
  | wait s => rfl

theorem State.places_serveFree (s : State) (ctx page entry : Nat) (k : Access) :
    (s.serveFree ctx page entry k).state.places = s.places := by
  unfold State.serveFree
  split
  · rfl
  · dsimp only
    split
    · rfl
    · split <;> rfl

@[simp] theorem State.places_sendVector (s : State) (v : Nat) : (s.sendVector v).places = s.places := by
  unfold State.sendVector
  split <;> rfl

theorem State.places_logRecord {s t : State} {ctx i : Nat} {words : List Word} (h : s.logRecord ctx words = some (i, t)) :
    t.places = s.places := by
  unfold State.logRecord at h
  split at h
  · cases h
  · dsimp only at h
    split at h
    · exact absurd h (Option.some_ne_none _).symm
    · obtain ⟨-, ht⟩ := Prod.mk.inj (Option.some.inj h)
      rw [← ht, State.places_sendVector, State.homeStoreNat, State.places_homeStore, State.places_homeStore]

theorem State.places_logOrWait (s : State) (ctx key : Nat) (words : List Word) :
    (s.logOrWait ctx key words).2.places = s.places := by
  unfold State.logOrWait
  split
  · exact State.places_logRecord ‹_›
  · rfl

theorem State.places_askService (s : State) (ctx page : Nat) (va : Word) (tag : Nat) (pc block : Word) :
    (s.askService ctx page va tag pc block).2.places = s.places := s.places_logOrWait ctx page _

theorem State.places_walkServe (s : State) (ctx : Nat) (va : Word) (k : Access) :
    (s.walkServe ctx va k).state.places = s.places := by
  unfold State.walkServe
  split
  · rfl
  · split
    · rfl
    · rw [Served.state_check]
      rfl
    · split
      · rw [Served.state_check, State.places_serveFree]
      · split
        · split <;> rfl
        · split
          rename_i h
          split at h
          · cases h
            rfl
          · have := congrArg (fun x => x.2.places) h
            exact this.symm.trans (s.places_askService _ _ _ _ _ _)

/-! ### Stores of a core to stack memory -/

@[simp] theorem Caravan.stackWrite_block (c : Caravan) (va : Nat) (bs : List Byte) : (c.stackWrite va bs).block = c.block := by
  induction bs generalizing c va with
  | nil => rfl
  | cons b bs ih => rw [Caravan.stackWrite, ih]

@[simp] theorem Caravan.stackWrite_paths (c : Caravan) (va : Nat) (bs : List Byte) : (c.stackWrite va bs).paths = c.paths := by
  induction bs generalizing c va with
  | nil => rfl
  | cons b bs ih => rw [Caravan.stackWrite, ih]

theorem State.places_spillLine (s : State) (key line : Nat) : (s.spillLine key line).places = s.places := by
  unfold State.spillLine
  split
  · rfl
  · rename_i c b _
    have hw := s.places_walkServe b.ctx (BitVec.ofNat 64 (line * 512)) .write
    split <;> rename_i h <;> rw [h] at hw
    · exact hw
    · exact hw
    · split
      · exact hw
      · refine (State.places_modCaravan _ _ ?_ ?_).trans ((State.places_foldl ?_ _ _).trans hw)
        · exact fun _ => rfl
        · exact fun _ => rfl
        · exact fun u x => by rw [State.places_modCore, State.places_l1Room]

theorem State.places_trimStack (s : State) (key : Nat) : (s.trimStack key).places = s.places := by
  unfold State.trimStack
  split
  · rfl
  · split
    · rfl
    · dsimp only
      split
      · exact s.places_choose
      · rw [State.places_spillLine, State.places_choose]

theorem State.places_stackStore (s : State) (key va : Nat) (bs : List Byte) : (s.stackStore key va bs).places = s.places := by
  rw [State.stackStore, State.places_trimStack, State.places_trimStack]
  exact s.places_modCaravan key (fun c => c.stackWrite_block va bs) (fun c => c.stackWrite_paths va bs)

/-- Another's stack area is that of a caravan that runs or of a saved one. -/
theorem State.stackOwner_place {s : State} {ctx key va : Nat} {pl : Place} (h : s.stackOwner ctx key va = some pl) :
    (∃ k, pl = .stack k) ∨ ∃ b k, pl = .savedStack b k := by
  unfold State.stackOwner at h
  split at h
  · exact .inl ⟨_, (Option.some.inj h).symm⟩
  · obtain ⟨b, _, hb⟩ := List.exists_of_findSome?_eq_some h
    split at hb
    · obtain ⟨p, _, rfl⟩ := Option.map_eq_some_iff.mp hb
      exact .inr ⟨_, _, rfl⟩
    · cases hb

theorem State.places_perform_mem (s : State) (key p addr : Nat) (bs : List Byte) :
    (s.perform key p { place := .mem, addr := addr, bytes := bs }).places = s.places := by
  dsimp only [State.perform]
  rw [State.places_modCore, State.places_spoilSaves, State.places_l1Room]

/-- A store of the core's own records goes to memory, to a stack cache, to a saved stack or to another package. -/
theorem State.places_perform_storePlace (s : State) (key p : Nat) (c : Caravan) (b : Block) (t : Translation) (va : Nat)
    (bs : List Byte) : ((s.storePlace key c b t va bs).2.perform key p (s.storePlace key c b t va bs).1).places = s.places := by
  unfold State.storePlace
  dsimp only
  split
  · rename_i pl h
    obtain ⟨k, rfl⟩ | ⟨b, k, rfl⟩ := State.stackOwner_place h
    · exact State.places_stackStore _ _ _ _
    · rfl
  · split
    · exact State.places_stackStore _ _ _ _
    · split
      · rfl
      · exact State.places_perform_mem _ _ _ _ _

/-- The state that a core's own write ends in. -/
def Put.state : Put → State
  | .done s | .fault _ _ s | .wait s => s

theorem State.places_putPart (s : State) (key : Nat) (va : Word) (bs : List Byte) : (s.putPart key va bs).state.places = s.places := by
  unfold State.putPart
  split
  · rfl
  · rename_i c b _
    split
    · exact s.places_stackStore key va.toNat bs
    · have hw := s.places_walkServe b.ctx va .write
      split <;> rename_i h <;> rw [h] at hw
      · exact hw
      · exact hw
      · exact (State.places_perform_storePlace _ _ _ _ _ _ _ _).trans hw

/-- What a core itself writes at an address of a caravan leaves the places alone. -/
theorem State.places_putBytes (s : State) (key : Nat) (va : Word) (bs : List Byte) : (s.putBytes key va bs).state.places = s.places := by
  unfold State.putBytes
  dsimp only
  split
  · exact s.places_putPart key va bs
  · have hp := s.places_putPart key va (bs.take (65536 - va.toNat % 65536))
    split
    · rename_i h
      rw [h] at hp
      exact (State.places_putPart _ _ _ _).trans hp
    · exact hp

end Sys2Proof.Machine
end

section
/-!
`lrun`, the mask moves, the votes and `lget` (R45, R104 to R107).
-/

namespace Sys2Proof.Machine

section
variable {s : State} {m : Me}

/-- The lanes that execute. -/
theorem Me.activeLanes_eq (m : Me) : m.activeLanes = m.lanesOn := rfl

/-- A predicate as a vote reads it. -/
theorem predOf_eq (m : Me) (p : BitVec 3) (n : BitVec 1) : predOf m.car p.toNat (n = 1) = m.chosen p n := by
  by_cases h : n = 1 <;> simp [predOf, Me.chosen, h]

/-- `mfem` (R40, R105). -/
theorem mfem_gives (d : BitVec 6) : Gives s m (.mfem d) d (m.lanesOn.zeroExtend 64) := fun h =>
  writes_exec h (by simp only [bind, EStateM.bind, me_run h.path, pure, EStateM.pure, m.activeLanes_eq])

/-- `mtem` of a drained path (R105). -/
theorem mtem_completes (hd : m.path.drained = true) (r : BitVec 6) : Completes s m (.mtem r) (s.modPath m.key m.p (fun x =>
    { x with em := (m.reg r.toNat).truncate 32 &&& ~~~ m.car.xm })) := fun h =>
  scalar_completes (illegal := pure ()) h rfl (by
    simp only [bind, EStateM.bind, drain_run h.path hd, me_run h.path, reg_run h.path, modMyPath_run h.path, pure, EStateM.pure])

/-- `mtem` of a path that has not drained (R87). -/
theorem mtem_stalls (hd : m.path.drained = false) (r : BitVec 6) : Stalls s m (.mtem r) .data := fun h =>
  scalar_stalls (illegal := pure ()) h rfl (by simp only [bind, EStateM.bind, drain_stalls h.path hd])

section
variable {i : Instr} {d : BitVec 6} {n : BitVec 1} {p : BitVec 3} {f : Mask → Mask → Word}

/-- A vote of a drained path (R106). -/
theorem vote_gives (he : exec i s = vote i d n p f s) (hd : m.path.drained = true) :
    Gives s m i d (f m.lanesOn (m.lanesOn &&& m.chosen p n)) := fun h =>
  he.trans (writes_exec h (by
    simp only [bind, EStateM.bind, drain_run h.path hd, me_run h.path, pure, EStateM.pure, m.activeLanes_eq, predOf_eq]))

/-- A vote of a path that has not drained (R87). -/
theorem vote_stalls (he : exec i s = vote i d n p f s) (hd : m.path.drained = false) : Stalls s m i .data := fun h =>
  he.trans (writes_drain_stalls h hd)

end

/-- A truth value in a register. -/
theorem ofBool_decide (c : Prop) [Decidable c] : ofBool c = if c then 1 else 0 := by
  by_cases hc : c <;> simp only [ofBool, hc, decide_true, decide_false, if_true, Bool.false_eq_true, if_false]

section
variable (s) (d : BitVec 6) (n : BitVec 1) (p : BitVec 3)

/-! The three votes, as functions of the lanes that execute and of those of them where the predicate holds. -/

theorem exec_voteAny : exec (.voteAny d n p) s = vote (.voteAny d n p) d n p (fun _ v => ofBool (v ≠ 0)) s := rfl

theorem exec_voteAll : exec (.voteAll d n p) s = vote (.voteAll d n p) d n p (fun a v => ofBool (v = a)) s := rfl

theorem exec_voteBall : exec (.voteBall d n p) s = vote (.voteBall d n p) d n p (fun _ v => v.zeroExtend 64) s := rfl

end

/-- The votes of a drained path (R106). -/
theorem votes_give (hd : m.path.drained = true) (d : BitVec 6) (n : BitVec 1) (p : BitVec 3) :
    let v := m.lanesOn &&& m.chosen p n
    Gives s m (.voteAny d n p) d (if v = 0 then 0 else 1) ∧ Gives s m (.voteAll d n p) d (if v = m.lanesOn then 1 else 0)
      ∧ Gives s m (.voteBall d n p) d (v.zeroExtend 64) := by
  have hany := vote_gives (exec_voteAny s d n p) hd
  have hall := vote_gives (exec_voteAll s d n p) hd
  rw [ofBool_decide, ite_not] at hany
  rw [ofBool_decide] at hall
  exact ⟨hany, hall, vote_gives (exec_voteBall s d n p) hd⟩

/-- What `lrun` checks of its count (R104). -/
theorem lrun_legal (hm : s.me? = some m) {r : BitVec 6} (hr : (m.reg r.toNat).toNat ≤ 255) :
    (do check ((← reg r).toNat ≤ 255) codeIllegal 1 : Act Unit) s = .ok () s := by
  simp only [bind, EStateM.bind, reg_run hm, check_passes (decide_eq_true hr)]

/-- `lrun` with room in the lane-issue queue (R45, R104). -/
theorem lrun_completes {r : BitVec 6} (hr : (m.reg r.toNat).toNat ≤ 255) (hq : m.path.laneq.length < 4) (l : BitVec 4)
    (imm : BitVec 16) : Completes s m (.lrun r l imm) (s.modPath m.key m.p (fun x => { x with laneq := x.laneq ++
      [⟨(m.reg r.toNat).toNat, l.toNat, m.blk.pk.lcodeBase + BitVec.ofNat 64 (12 * imm.toNat), m.path.spc⟩] })) := fun h =>
  scalar_completes h (lrun_legal h.path hr) (by
    simp only [bind, EStateM.bind, me_run h.path, reg_run h.path, ge_iff_le, Nat.not_le.mpr hq, if_false, modMyPath_run h.path, pure,
      EStateM.pure])

/-- `lrun` with four entries in the lane-issue queue (R45, R104). -/
theorem lrun_stalls {r : BitVec 6} (hr : (m.reg r.toNat).toNat ≤ 255) (hq : 4 ≤ m.path.laneq.length) (l : BitVec 4)
    (imm : BitVec 16) : Stalls s m (.lrun r l imm) .busy := fun h =>
  scalar_stalls h (lrun_legal h.path hr) (by
    simp only [bind, EStateM.bind, me_run h.path, reg_run h.path, ge_iff_le, hq, if_true]
    rfl)

/-- `lrun` with a count above 255 (log entry 32). -/
theorem lrun_traps {r : BitVec 6} (hr : 255 < (m.reg r.toNat).toNat) (l : BitVec 4) (imm : BitVec 16) :
    Traps s m (.lrun r l imm) codeIllegal 1 0 := fun h =>
  scalar_illegal h (by
    simp only [bind, EStateM.bind, reg_run h.path, check_fails (decide_eq_false (Nat.not_le.mpr hr))])

/-- What `lget` checks of its lane register (R107). -/
theorem lget_legal (hm : s.me? = some m) {n : Nat} (hn : n < m.car.lbud) :
    (do check (n < (← me).car.lbud) codeIllegal 2 : Act Unit) s = .ok () s := by
  simp only [bind, EStateM.bind, me_run hm, check_passes (decide_eq_true hn)]

section
variable {r : BitVec 6} {h : BitVec 2}

/-- `lget` of a drained path (R107). -/
theorem lget_gives (hn : h.toNat * 64 + r.toNat < m.car.lbud) (hd : m.path.drained = true) (d b : BitVec 6) :
    Gives s m (.lget d r b h) d ((m.car.lane (h.toNat * 64 + r.toNat) ((m.reg b.toNat).toNat % 32)).zeroExtend 64) := fun hr =>
  (scalarOp_of_legal _ hr (lget_legal hr.path hn)).trans (writes_exec hr (by
    simp only [bind, EStateM.bind, drain_run hr.path hd, me_run hr.path, reg_run hr.path, pure, EStateM.pure]))

/-- `lget` of a path that has not drained (R87). -/
theorem lget_stalls (hn : h.toNat * 64 + r.toNat < m.car.lbud) (hd : m.path.drained = false) (d b : BitVec 6) :
    Stalls s m (.lget d r b h) .data := fun hr =>
  (scalarOp_of_legal _ hr (lget_legal hr.path hn)).trans (writes_drain_stalls hr hd)

/-- `lget` of a lane register at or above `lbud` (R39, R107). -/
theorem lget_traps (hn : m.car.lbud ≤ h.toNat * 64 + r.toNat) (d b : BitVec 6) : Traps s m (.lget d r b h) codeIllegal 2 0 :=
  fun hr => scalar_illegal hr (by
    simp only [bind, EStateM.bind, me_run hr.path, check_fails (decide_eq_false (Nat.not_lt.mpr hn))])

end
end

/-- R45, R104 to R107: `lrun`, the mask moves, the votes and `lget`. -/
theorem laneControl : Claims.LaneControl := by
  intro s m d r b l imm n p h on v reg
  refine ⟨mfem_gives d, fun hr hq => lrun_completes hr hq l imm, fun hr hq => lrun_stalls hr hq l imm,
    fun hr => lrun_traps hr l imm, fun hd => ?stalls, fun hd => ?drained, fun hn hd => lget_stalls hn hd d b,
    fun hn => lget_traps hn d b⟩
  case stalls =>
    exact ⟨mtem_stalls hd r, vote_stalls (exec_voteAny s d n p) hd, vote_stalls (exec_voteAll s d n p) hd,
      vote_stalls (exec_voteBall s d n p) hd⟩
  case drained =>
    obtain ⟨hany, hall, hball⟩ := votes_give (s := s) hd d n p
    exact ⟨mtem_completes hd r, hany, hall, hball, fun hn => lget_gives hn hd d b⟩

end Sys2Proof.Machine
end

section
/-!
Masks of lanes, several accesses of one instruction, and changes of the caravan in focus.
-/

namespace Sys2Proof.Machine

/-! ### The lanes of a mask -/

/-- A lane is in a mask where its bit is set. -/
theorem hasLane_eq (x : Mask) (l : Nat) : hasLane x l = x.getLsbD l := decide_bit x l

theorem mem_lanesOf {x : Mask} {l : Nat} : l ∈ lanesOf x ↔ l < 32 ∧ x.getLsbD l = true := by
  rw [lanesOf, List.mem_filter, List.mem_range, hasLane_eq]

/-- The sum of the powers of two below `n` that meet a condition has the bits that do. -/
theorem foldl_add_pow (p : Nat → Bool) (n : Nat) :
    let k := (List.range n).foldl (fun k i => if p i then k + 2 ^ i else k) 0
    k < 2 ^ n ∧ ∀ l, k.testBit l = (decide (l < n) && p l) := by
  induction n with
  | zero => exact ⟨Nat.one_pos, fun l => by simp⟩
  | succ n ih =>
    rw [List.range_succ, List.foldl_append, List.foldl_cons, List.foldl_nil]
    obtain ⟨hlt, hbit⟩ := ih
    refine ⟨by split <;> omega, fun l => ?_⟩
    split
    · rename_i hp
      have hor := Nat.two_pow_add_eq_or_of_lt hlt 1
      rw [Nat.mul_one, Nat.add_comm] at hor
      rw [hor, Nat.testBit_or, hbit, Nat.testBit_two_pow]
      by_cases hl : n = l
      · subst hl
        simp [hp]
      · have : l < n + 1 ↔ l < n := by omega
        simp [hl, this]
    · rename_i hp
      rw [hbit]
      by_cases hl : l = n
      · simp [hl, hp]
      · have : l < n + 1 ↔ l < n := by omega
        simp [this]

/-- A lane of the mask of the lanes that meet a condition. -/
theorem getLsbD_maskOf (p : Nat → Bool) {l : Nat} (hl : l < 32) : (maskOf p).getLsbD l = p l := by
  rw [maskOf, BitVec.getLsbD_ofNat, (foldl_add_pow p 32).2, decide_eq_true hl, Bool.true_and, Bool.true_and]

/-! ### Accesses in rank -/

/-- Values have no fault and no wait among them. -/
theorem outcomes_map_ok {α : Type} (as : List α) : firstWait (as.map (Except.ok (ε := Stop))) = none
    ∧ lowestTrap (as.map (Except.ok (ε := Stop))) = none ∧ completed (as.map (Except.ok (ε := Stop))) = as := by
  induction as with
  | nil => exact ⟨rfl, rfl, rfl⟩
  | cons a as ih =>
    obtain ⟨hw, ht, hc⟩ := ih
    exact ⟨hw, ht, congrArg (a :: ·) hc⟩

/-- Accesses that all complete, with values that are as they should be, in a state that they leave alone. -/
theorem inRank_completes {α : Type} {s : State} {verify : α → Act Unit} {xs : List (Act α)}
    (h : ∀ x ∈ xs, ∃ a, x s = .ok a s ∧ verify a s = .ok () s) : ∃ as, inRank xs verify s = .ok as s := by
  have hall : ∃ as : List α, xs.mapM attempt s = .ok (as.map Except.ok) s ∧ as.forM verify s = .ok () s := by
    induction xs with
    | nil => exact ⟨[], rfl, rfl⟩
    | cons x xs ih =>
      obtain ⟨as, hmap, hfor⟩ := ih (fun y hy => h y (List.mem_cons_of_mem _ hy))
      obtain ⟨a, hx, hv⟩ := h x List.mem_cons_self
      refine ⟨a :: as, ?_, ?_⟩
      · have hax : attempt x s = .ok (.ok a) s := by simp only [attempt, EStateM.run, hx]
        rw [List.mapM_cons]
        simp only [bind, EStateM.bind, hax, hmap, pure, EStateM.pure, List.map_cons]
      · simp only [List.forM, bind, EStateM.bind, hv, hfor]
  obtain ⟨as, hmap, hfor⟩ := hall
  obtain ⟨hw, ht, hc⟩ := outcomes_map_ok as
  refine ⟨as, ?_⟩
  simp only [inRank, bind, EStateM.bind, hmap, hw, ht, hc, hfor, pure, EStateM.pure]

/-! ### A caravan in focus, changed -/

theorem modCar_at {s : State} {key p : Nat} (h : s.InFocus key p) (f : Caravan → Caravan) :
    modCar f s = .ok () (s.modCaravan key f) := by
  obtain ⟨m, hm, rfl, rfl⟩ := h
  exact modCar_run hm f

/-- A change of the caravan that keeps its block and its paths leaves the path in focus. -/
theorem State.InFocus.modCaravan {s : State} {key p : Nat} (h : s.InFocus key p) {f : Caravan → Caravan}
    (hb : ∀ c, (f c).block = c.block) (hp : ∀ c, (f c).paths = c.paths) : (s.modCaravan key f).InFocus key p :=
  h.of_places (s.places_modCaravan key hb hp)

/-- The return address is no shadow register: a handler writes the caravan's own `s63` (R425). -/
theorem link_at {s : State} {key p : Nat} (h : s.InFocus key p) (v : Word) :
    setRegNat 63 v s = .ok () (s.modCaravan key (fun c => c.setSreg 63 v)) := by
  obtain ⟨m, hm, rfl, rfl⟩ := h
  have hn : ¬ (m.path.handler.isSome ∧ 1 ≤ 63 ∧ 63 ≤ 15) := by omega
  simp only [setRegNat, bind, EStateM.bind, me_run hm, if_neg hn, modCar_run hm]

end Sys2Proof.Machine
end

section
/-!
`callv` (R44, R50, R65, R102), and the statement of the branches and the lane control.
-/

namespace Sys2Proof.Machine

/-! ### The targets of a `callv` -/

/-- The lowest target of the active lanes (R102). -/
theorem lowestTarget_eq {active : Mask} {targets : List Word} {cur : Word}
    (hmem : cur ∈ (lanesOf active).map (fun l => targets.getD l 0))
    (hle : ∀ t ∈ (lanesOf active).map (fun l => targets.getD l 0), cur.toNat ≤ t.toNat) :
    lowestTarget active targets 0 = some cur := by
  obtain ⟨before, after, hsplit⟩ := List.append_of_mem hmem
  rw [lowestTarget, hsplit, List.foldl_append, List.foldl_cons]
  rw [hsplit] at hle
  refine List.foldlRecOn (motive := (· = some cur)) after _ ?found fun best hbest t ht => ?kept
  case found =>
    generalize hb : List.foldl _ none before = best
    have hbest : ∀ b, best = some b → cur.toNat ≤ b.toNat := by
      rw [← hb]
      refine List.foldlRecOn (motive := fun best : Option Word => ∀ b, best = some b → cur.toNat ≤ b.toNat) before _ (by simp) ?_
      intro best hbest t ht
      have hcur := hle t (List.mem_append_left _ ht)
      cases best with
      | none => simpa using hcur
      | some b =>
        have := hbest b rfl
        simp only [Nat.not_lt_zero, if_false]
        split <;> simpa
    cases best with
    | none => rfl
    | some b =>
      have hb := hbest b rfl
      simp only [Nat.not_lt_zero, if_false]
      split
      · rfl
      · rw [BitVec.eq_of_toNat_eq (Nat.le_antisymm hb (Nat.not_lt.mp ‹_›))]
  case kept =>
    have hcur := hle t (List.mem_append_right _ (List.mem_cons_of_mem _ ht))
    simp only [hbest, Nat.not_lt_zero, if_false, Nat.not_lt.mpr hcur]

/-! ### Headers and records -/

/-- The budget of a procedure header (R65). -/
theorem headerBudget_eq {n : Nat} (h2 : 2 ≤ n) (h32 : n ≤ 32) : headerBudget (0x3f * 2 ^ 26 + n * 2 ^ 14) = some (8 * n) := by
  have hmajor : fld (0x3f * 2 ^ 26 + n * 2 ^ 14) 26 6 = 0x3f := by unfold fld; omega
  have hzero : fld (0x3f * 2 ^ 26 + n * 2 ^ 14) 20 6 = 0 := by unfold fld; omega
  have hlow : fld (0x3f * 2 ^ 26 + n * 2 ^ 14) 0 14 = 0 := by unfold fld; omega
  have hunits : fld (0x3f * 2 ^ 26 + n * 2 ^ 14) 14 6 = n := by unfold fld; omega
  rw [headerBudget, hmajor, hzero, hlow, hunits, if_pos ⟨rfl, rfl, rfl, h2, h32⟩]

/-- A header within the budget of lane registers passes its checks (R102). -/
theorem checkHeader_passes {n lbud : Nat} (h2 : 2 ≤ n) (h32 : n ≤ 32) (hb : 8 * n ≤ lbud) (s : State) :
    checkHeader lbud (0x3f * 2 ^ 26 + n * 2 ^ 14) s = .ok () s := by
  simp only [checkHeader, headerBudget_eq h2 h32]
  exact check_passes (decide_eq_true hb) _ _ _ _

/-- A procedure that a `callv` may call: it is aligned, and its header lies in cached code and keeps to the budget (R65, R102). -/
def State.Callable (s : State) (m : Me) (t : Word) : Prop :=
  t.toNat % 4 = 0 ∧ ∃ n x, s.CodeAt m (t - 4) 4 (0x3f * 2 ^ 26 + n * 2 ^ 14) x ∧ 2 ≤ n ∧ n ≤ 32 ∧ 8 * n ≤ m.car.lbud

/-- The header of such a procedure, read and checked. -/
theorem State.Callable.header {s : State} {m : Me} {t : Word} (h : s.Callable m t) (hm : s.me? = some m) :
    ∃ w, (do pure (leNat (← codePart (← translate (t - 4) .fetch) (t - 4) 4)) : Act Nat) s = .ok w s
      ∧ checkHeader m.car.lbud w s = .ok () s := by
  obtain ⟨_, n, x, hc, h2, h32, hb⟩ := h
  refine ⟨_, ?_, checkHeader_passes h2 h32 hb s⟩
  have hw : leNat (s.homeBytes (physical x (t - 4)) 4) = 0x3f * 2 ^ 26 + n * 2 ^ 14 := hc.bytes
  simp only [bind, EStateM.bind, translate_fetch hm hc, codePart_run hc, hw, pure, EStateM.pure]

/-- A push within the depth and the stack limit (R50, R99). -/
theorem checkPush_passes {m : Me} {bytes : Nat} (hd : m.car.depth < 31)
    (hl : m.car.stklim.toNat + m.car.recordBytes + bytes ≤ (m.car.sreg 61).toNat) (s : State) :
    checkPush m bytes s = .ok () s := by
  rw [Nat.add_assoc] at hl
  simp only [checkPush, bind, EStateM.bind, check_passes (decide_eq_true hd), check_passes (decide_eq_true hl)]

/-- A record put into stack memory leaves the path in focus. -/
theorem State.InFocus.recordPut {s u : State} {m : Me} {bytes : Nat} (hm : s.me? = some m) (h : s.recordPut m bytes = .done u) :
    u.InFocus m.key m.p := by
  refine State.InFocus.of_places (⟨m, hm, rfl, rfl⟩ : s.InFocus m.key m.p) ?_
  have hput := State.places_putBytes { s with free := s.free + 1 } m.key (m.car.sreg 61 - BitVec.ofNat 64 (m.car.recordBytes + bytes))
    ((List.range bytes).map (fun i => BitVec.ofNat 8 (Config.freeNat s.free i)))
  rw [State.recordPut] at h
  rw [h] at hput
  exact hput

/-- A record pushed (R50). -/
theorem pushRecord_run {s u : State} {m : Me} {bytes : Nat} (hm : s.me? = some m) (h : s.recordPut m bytes = .done u) :
    pushRecord bytes s = .ok () u := by
  rw [State.recordPut] at h
  simp only [pushRecord, bind, EStateM.bind, me_run hm, freeBytes, drawFree, get, getThe, MonadStateOf.get, EStateM.get, set,
    EStateM.set, pure, EStateM.pure, h]

/-! ### `callv` (R102) -/

/-- The targets of a `callv`, by lane. -/
def Me.targets (m : Me) (a : BitVec 6) (entry : List LaneWord) : List Word :=
  (List.range 32).map (fun l => m.reg a.toNat + (entry.getD l 0).zeroExtend 64)

theorem Me.targets_getD (m : Me) (a : BitVec 6) (entry : List LaneWord) {l : Nat} (hl : l < 32) :
    (m.targets a entry).getD l 0 = m.reg a.toNat + (entry.getD l 0).zeroExtend 64 := by
  simp [Me.targets, hl]

/-- The targets that the lanes of a path that execute name. -/
def Me.called (m : Me) (a : BitVec 6) (entry : List LaneWord) : List Word :=
  (lanesOf m.lanesOn).map (fun l => (m.targets a entry).getD l 0)

theorem Me.mem_called {m : Me} {a : BitVec 6} {entry : List LaneWord} {t : Word} : t ∈ m.called a entry ↔
    ∃ l < 32, m.lanesOn.getLsbD l = true ∧ m.reg a.toNat + (entry.getD l 0).zeroExtend 64 = t := by
  simp only [Me.called, List.mem_map, mem_lanesOf, and_assoc]
  refine exists_congr fun l => and_congr_right fun hl => ?_
  rw [m.targets_getD a entry hl]

/-- Aligned targets raise no fault. -/
theorem find?_misaligned_eq_none {ts : List Word} (h : ∀ t ∈ ts, t.toNat % 4 = 0) :
    ts.eraseDups.find? (fun t => t.toNat % 4 ≠ 0) = none := by
  rw [List.find?_eq_none]
  intro t ht
  simpa using h t (List.mem_eraseDups.mp ht)

/-- The caravan with the entry that a `callv` takes out of its operand queue (R44, R102). -/
def State.tookEntry (s : State) (key : Nat) (k : BitVec 3) (rest : List (List LaneWord)) : State :=
  s.modCaravan key (fun c => { c with queues := Tab.set c.queues k.toNat rest })

section
variable {s : State} {m : Me} {a : BitVec 6} {k : BitVec 3} {entry : List LaneWord} {rest : List (List LaneWord)}
variable (hd : m.path.drained = true) (hs : siblingPops m k.toNat = false)
  (hq : Tab.getD m.car.queues k.toNat [] = entry :: rest)
include hd hs hq

/-- Without a lane that executes a `callv` only takes the entry (R102). -/
theorem callv_completes (h0 : m.lanesOn = 0) : Completes s m (.callv a k) (s.tookEntry m.key k rest) := fun h => by
  have hl : lanesOf (0 : Mask) = [] := by decide
  show execCallv a k s = _
  refine scalar_completes h rfl ?_
  refine (bind_run (drain_run h.path hd)).trans ?_
  refine (bind_run (me_run h.path)).trans ?_
  refine (bind_run (reg_run h.path a)).trans ?_
  simp only [m.activeLanes_eq, hs, hq, h0, hl, Bool.false_eq_true, if_false, ne_eq, not_true, List.map_nil, List.eraseDups_nil,
    List.find?_nil]
  refine (bind_run (a := []) (t := s) rfl).trans ?_
  refine (bind_run (modCar_run h.path _)).trans ?_
  simp only [lowestTarget, hl, List.map_nil, List.foldl_nil]
  rfl

/-- A `callv` calls the lowest of its targets, with the lanes that name it (R102). -/
theorem callv_jumps {u : State} {cur : Word} (hcur : cur ∈ m.called a entry) (hle : ∀ t ∈ m.called a entry, cur.toNat ≤ t.toNat)
    (hcall : ∀ t ∈ m.called a entry, s.Callable m t) (hdepth : m.car.depth < 31)
    (hlimit : m.car.stklim.toNat + m.car.recordBytes + 160 ≤ (m.car.sreg 61).toNat) (hput : s.recordPut m 160 = .done u) :
    Jumps s m (.callv a k) (((u.tookEntry m.key k rest).modCaravan m.key (fun c => c.setSreg 63 (m.path.spc + 4))).modPath
      m.key m.p (fun x => { x with em := targetLanes m.lanesOn (m.targets a entry) cur,
                                   recs := .callv m.lanesOn (m.path.spc + 4) (m.targets a entry) cur :: x.recs })) cur := fun h => by
  have h0 : m.lanesOn ≠ 0 := by
    intro h0
    rw [Me.called, h0] at hcur
    exact List.not_mem_nil hcur
  have hfind := find?_misaligned_eq_none fun t ht => (hcall t ht).1
  have hlow : lowestTarget m.lanesOn (m.targets a entry) 0 = some cur := lowestTarget_eq hcur hle
  have hu : u.InFocus m.key m.p := State.InFocus.recordPut h.path hput
  have htook : (u.tookEntry m.key k rest).InFocus m.key m.p := hu.modCaravan (fun _ => rfl) (fun _ => rfl)
  have hlinked : ((u.tookEntry m.key k rest).modCaravan m.key (fun c => c.setSreg 63 (m.path.spc + 4))).InFocus m.key m.p :=
    htook.modCaravan (fun _ => rfl) (fun _ => rfl)
  obtain ⟨_, hheaders⟩ := inRank_completes (s := s) (verify := checkHeader m.car.lbud)
    (xs := (m.called a entry).eraseDups.map (fun t => do pure (leNat (← codePart (← translate (t - 4) .fetch) (t - 4) 4))))
    (by simpa [List.mem_eraseDups] using fun t ht => (hcall t ht).header h.path)
  show execCallv a k s = _
  refine scalar_jumps h rfl ?_
  refine (bind_run (drain_run h.path hd)).trans ?_
  refine (bind_run (me_run h.path)).trans ?_
  refine (bind_run (reg_run h.path a)).trans ?_
  simp only [Me.called, Me.targets] at hfind hlow
  simp only [m.activeLanes_eq, hs, hq, Bool.false_eq_true, if_false, h0, ne_eq, not_false_eq_true, if_true, hfind]
  refine (bind_run (checkPush_passes hdepth hlimit s)).trans ?_
  refine (bind_run hheaders).trans ?_
  refine (bind_run (pushRecord_run h.path hput)).trans ?_
  refine (bind_run (modCar_at hu _)).trans ?_
  simp only [hlow]
  refine (bind_run (link_at htook _)).trans ?_
  exact (bind_run (modMyPath_at hlinked _)).trans rfl

end

/-- The lanes of a mask that name a target. -/
theorem targetLanes_eq {m : Me} {a : BitVec 6} {entry : List LaneWord} {cur : Word} {e : Mask}
    (he : ∀ l < 32, e.getLsbD l = (m.lanesOn.getLsbD l && decide (m.reg a.toNat + (entry.getD l 0).zeroExtend 64 = cur))) :
    targetLanes m.lanesOn (m.targets a entry) cur = e := by
  refine BitVec.eq_of_getLsbD_eq fun l hl => ?_
  rw [targetLanes, getLsbD_maskOf _ hl, hasLane_eq, m.targets_getD a entry hl, he l hl]

/-- R44, R50, R65, R102: `callv`. -/
theorem callV : Claims.CallV := by
  intro s m a k entry rest i target popped hd hs hq
  refine ⟨callv_completes hd hs hq, fun cur e u hall hcur he hdepth hlimit hput => ?_⟩
  have hcalled {t : Word} (ht : t ∈ m.called a entry) : cur.toNat ≤ t.toNat ∧ s.Callable m t := by
    obtain ⟨l, hl, hon, rfl⟩ := Me.mem_called.mp ht
    obtain ⟨h4, hle, hheader⟩ := hall l hl hon
    exact ⟨hle, h4, hheader⟩
  have hjump := callv_jumps hd hs hq (Me.mem_called.mpr hcur) (fun t ht => (hcalled ht).1) (fun t ht => (hcalled ht).2) hdepth
    hlimit hput
  rwa [targetLanes_eq he] at hjump

/-! ### The statement -/

/-- Settles O12: branches, calls and loops (R62, R97, R98, R425), `callv` (R102), `lrun`, mask moves, votes and `lget` (R45, R104
to R107). -/
theorem branchesAndLanes : Obligations.BranchesAndLanes := ⟨branches, callV, laneControl⟩

end Sys2Proof.Machine
end
